-- ==== Sys2Proof/Word.lean ====
section
/-!
DEFINITION. The word types of Claique (R5) and the plainest names over them: bytes, halfwords, words,
doublewords, lines, wide registers, and the sparse map that every table of the machine is kept in. The small types after
them are the operands that the constructors of `Instr` carry.
-/
namespace Sys2Proof

/-- A byte, 8 bits (R5). -/
abbrev Byte := BitVec 8
/-- A halfword, 16 bits (R5): the unit of the instruction store (R78). -/
abbrev Half := BitVec 16
/-- A word, 32 bits (R5): the unit of a local store (R17). -/
abbrev Word := BitVec 32
/-- A doubleword, 64 bits (R5): a general register (R56). -/
abbrev Dword := BitVec 64
/-- A wide register, 512 bits (R62). -/
abbrev Wide := BitVec 512
/-- A line, 1,024 bits (R5). Bits `[8i+7:8i]` hold byte i (R5, R6). -/
abbrev LineData := BitVec 1024
/-- One bit per byte of a line. -/
abbrev LineMask := BitVec 128
/-- A signature, 2,048 bits (R222). -/
abbrev Signature := BitVec 2048
/-- A general-register number as a 7-bit field names it (R80). -/
abbrev GReg := BitVec 7
/-- A wide-register number (R80), and also a 4-bit general-register field of formats W and compact. -/
abbrev Reg4 := BitVec 4
/-- A mask-register number (R80). -/
abbrev KReg := BitVec 3

/-- A sparse table: pairs of a key and its entry, in ascending key order. A key that is not listed has
the default entry of its table. -/
abbrev SMap (α : Type) := List (Nat × α)

/-- A thread slot of a core: the global core number of R16 (lantern core k of the package is number
2,048 + k) and the slot of R54. -/
structure Who where
  core : Nat
  slot : Nat
  deriving DecidableEq, Repr

/-- The three engines of a core (R79, R88). -/
inductive Engine where
  | mx | vx | cp
  deriving DecidableEq, Repr

/-- The scopes of R85 and R208. -/
inductive Scope where
  | th | core | clu | die | pkg | sys
  deriving DecidableEq, Repr

/-- The rounding field of `cvt` (R84): the four modes of `fmode.rm`, and `dyn`, which takes `fmode.rm`. -/
inductive Rnd where
  | rne | rtz | rdn | rup | dyn
  deriving DecidableEq, Repr

/-- The lane types of R82. Code 15 is reserved and has no name. -/
inductive LaneT where
  | i8 | i16 | i32 | i64 | z8 | z16 | z32 | z64 | f16 | bf16 | f32 | e8m10 | c8 | i4 | z4
  deriving DecidableEq, Repr

/-- The direction of a stream binding (R278). -/
inductive Dir where
  | input | output | arrive
  deriving DecidableEq, Repr

/-- The special registers of R67. -/
inductive Spr where
  | tid | core | clus | die | dev | gidx | gret | tstamp | lidx | detidx | prio | inh | fmtp | sclp | mpol
  | fmode | fflags | gbase | glim | mirmask | lvec | cause | tpc | tval | cyc | ix0 | ix1 | ix2
  deriving DecidableEq, Repr

/-- The states a die copy can hold (R240): shared, exclusive, modified, owned. -/
inductive Moesi where
  | s | e | m | o
  deriving DecidableEq, Repr

/-- Words 1 to 7 of a vector command in the shared layout of R183. -/
structure VecOps where
  n : Word
  dst : Word
  a : Word
  b : Word
  ctl : Word
  x : Word
  y : Word
  deriving DecidableEq, Repr

/-- The copy of a task record that a core holds (R75, R290, R338): the address it was copied from, its 64
bytes, the fault-pending mark of R384, and whether an abort returned it, so that it is dispatched before any other (R225). -/
structure RecCopy where
  addr : Dword
  bits : BitVec 512
  faulted : Bool
  again : Bool
  deriving DecidableEq, Repr

/-- Some bytes of one line: the line number of R222, the data and one bit for each byte written. -/
structure LineWrite where
  line : Nat
  data : LineData
  mask : LineMask
  deriving DecidableEq, Repr

/-- Whose direct write it is (R226): a drained line, atomic or `scq` of a thread, a global write of an engine
command of a thread, a host store, a remote put, an ordered-round update, or a line of a committed task. -/
inductive WriteSrc where
  | thread (w : Who) | engine (w : Who) | host | remote | commit (core gid : Nat)
  deriving DecidableEq, Repr

/-- A write on its way to the home of its line (R226, R241). `die` is the die it comes from. -/
structure DWrite where
  src : WriteSrc
  die : Nat
  id : Nat
  lw : LineWrite
  deriving DecidableEq, Repr

/-- What a home answers to a read request of another die (R240): the line, and the state in which the die
copy may hold it, if any. -/
structure MemReply where
  line : Nat
  data : LineData
  grant : Option Moesi
  deriving DecidableEq, Repr

/-- A request of a die to the home directory of a line (R240). `own` true asks for ownership, false for a read. `w` is
the thread a read is for. `policy` is the replication policy of the access's page entry (R245), `norep` its policy operand's
bit (R267), `slice` the slice of the requesting die that may hold a die copy (R239; none: no slice may), `hslice` the line's slice
at its home (R234), and `cls` the eviction class of the access (R267, R402). -/
structure DirReq where
  die : Nat
  home : Nat
  line : Nat
  own : Bool
  w : Option Who
  policy : BitVec 2
  norep : Bool
  slice : Option Nat
  hslice : Nat
  cls : Nat
  deriving DecidableEq, Repr

/-- A message on its way to a class of a core (R295, R335). `origin` is 0 for a thread of this device, 1 for
the host link and 2 for the Beacon link. `report` asks for the report of `msg.sendw`, and `copy` is the record
that a `task.send` carries (R338). -/
structure Msg where
  src : Who
  origin : Nat
  dst : Nat
  cls : Nat
  words : List Dword
  report : Bool
  copy : Option RecCopy
  deriving DecidableEq, Repr

/-- What an issuer of an ordered round sends to the bank (R197, R198): who, the line, the byte offset of the
word in it, the bank (the core whose slice it is: R197), the issuer index, the count n, the sequence number (of an update) or the count of updates (of a
`det.done`), the value added, the page's D bit, the address that DET_ROUND reports (R273), and the number of the `det.open` by which
its issuer takes part. -/
structure RoundMsg where
  w : Who
  line : Nat
  off : Nat
  bank : Nat
  idx : Nat
  n : Nat
  seq : Nat
  val : Word
  dpage : Bool
  va : BitVec 64
  tok : Nat
  deriving DecidableEq, Repr

/-- One operation of the Beacon link at its target (R251, R284, R285). `dev` is the device number of the issuer and `core`
its core, whose copy engine waits. A `reply` brings an operation of this device back: whether it was performed, and the
bytes read. -/
inductive RemoteOp where
  | put (dev core part : Nat) (raddr : Dword) (bytes : List Byte)
  | get (dev core part : Nat) (raddr : Dword) (len : Nat)
  | amo (dev core part : Nat) (raddr : Dword) (op : Nat) (b expect : Dword)
  | reply (core : Nat) (ok : Bool) (bytes : List Byte)
  deriving DecidableEq, Repr

/-- A removal of cached translations on its way to one TLB level (R377): level 0 a core, 1 a cluster, 2 a die's walkers, 3 the
way back of an acknowledgement; the core, cluster or die it reaches, the partition, the space and the page (none: all of
them) with the logarithm of the page's size, and the thread that waits. At a core, `done` is the cycle of the removal
and `mark` the number of the first line that leaves the core after it. -/
structure TlbInvMsg where
  level : Nat
  target : Nat
  part : Nat
  space : Option Nat
  va : Option Dword
  bits : Nat
  w : Who
  done : Option Nat
  mark : Nat
  deriving DecidableEq, Repr

/-- A record place of a context (R310): the sequencer's die, the descriptor place, the layer, the physical
block, and which of the frame's two places. -/
structure PlaceId where
  die : Nat
  idx : Nat
  layer : Nat
  phys : Nat
  k : Nat
  deriving DecidableEq, Repr

/-- The three edits of R313 and the position-scaling change of R323. -/
inductive EditKind where
  | ins | del | chg | rope
  deriving DecidableEq, Repr

/-- An edit on its way to its home sequencer (R313, R323). `w` is the thread that waits for the stamp; a held
edit of a committed task has none (R229). `core`, `space` and `part` are those of the issuing thread, and `opnd` is
its gA. -/
structure EditReq where
  kind : EditKind
  w : Option Who
  core : Nat
  space : Nat
  part : Nat
  opnd : Dword
  tok : Word
  factors : List Word
  /-- the cycle in which its thread issued it -/
  issued : Nat
  deriving DecidableEq, Repr

/-- A `dmap.mov` on its way to its home sequencer (R319): the report's operand, and the timestamp and logical
index of the task that reports. -/
structure ReportMsg where
  w : Option Who
  core : Nat
  part : Nat
  opnd : Dword
  moved : Bool
  tstamp : Dword
  lidx : Dword
  deriving DecidableEq, Repr

/-- A leader instruction on its way to a gang member (R153): its bits, its length in bytes, and the leader's
pc. -/
structure FwdInstr where
  bits : Nat
  len : Nat
  pc : Half
  deriving DecidableEq, Repr

/-- The four doublewords of an H-level event (R386), and for an HCALL event what `hcall` sends besides: its destination
register, the function number and four registers (R392). -/
structure HEvent where
  cause : Nat
  tval : Dword
  tpc : Dword
  word : Dword
  d : Nat
  n : Nat
  args : List Dword
  deriving DecidableEq, Repr

/-- What the hypervisor decides for a thread stopped by an H-level cause, or for a fault-pending record
(R386, R394). -/
inductive HAction where
  | resume | finish | clearMark (addr : Dword) | dropRecord (addr : Dword)
  deriving DecidableEq, Repr

/-- What the hypervisor gives a partition when it creates it (R360 step 7, R363, R365, R369): its number and
clusters, its stage-2 root, the device-physical ranges it may use, the place and length of its system image in
the staging region, its homing mask-set number, the ranges exported to the host's BAR 2 (R372), and the devices
the Beacon link may reach. -/
structure PartSpec where
  part : Nat
  clusters : BitVec 128
  s2root : Dword
  ranges : List (Nat × Nat)
  imgBase : Nat
  imgLen : Nat
  maskSet : Nat
  exports : List (Nat × Nat)
  devices : List Nat
  deriving DecidableEq, Repr

/-- What a provisioning record fixes (R362): the device number, the fenced cores, and whether the Beacon link is
enabled. -/
structure ProvRecord where
  device : BitVec 21
  fenced : List Nat
  beacon : Bool
  deriving DecidableEq, Repr

/-- Where a detected uncorrectable error lies (R396), and the thread that consumes the failed data, if one
does. -/
inductive ErrLoc where
  | sramData (die line : Nat) (w : Option Who)
  | localWord (core off : Nat) (w : Option Who)
  | coreUnit (core unit : Nat) (w : Option Who)
  | hbm (line : Nat) (w : Option Who)
  | tier (line : Nat) (w : Option Who)
  | dieLink (link : Nat)
  | beacon
  | walker (die walker : Nat)
  | lantern (core addr : Nat)
  deriving DecidableEq, Repr

end Sys2Proof
end

