-- ==== Sys2Proof/Config.lean ====
section
/-!
DEFINITION. What the FV-2048A fixes (counts, capacities and unloaded latencies of R13 to R24) and the FREE VALUES: an
opaque constant stands for each value that the spec leaves open, and nothing in Lean can evaluate one or prove
anything about it beyond its type. A free value that may differ at each use takes a counter of the state (`State.fresh`).
-/
namespace Sys2Proof.Config

/-- Compute dies of the package (R13). -/
def dies : Nat := 8
/-- Clusters of a die (R16). -/
def clustersPerDie : Nat := 16
/-- Cores of a cluster (R16). -/
def coresPerCluster : Nat := 16
/-- Device cores of the package (R16). Core numbers from here on are lantern cores (R15). -/
def cores : Nat := 2048
/-- Lantern cores of the package (R15). -/
def lanterns : Nat := 8
/-- Lantern cores and second-tier ports of each I/O die (R15). -/
def perIoDie : Nat := 4
/-- Thread slots of a core (R17, R54). -/
def slots : Nat := 64
/-- Entries of a core's general register file (R17, R56). -/
def gfileSize : Nat := 2048
/-- Entries of a core's wide register file (R17, R62). -/
def wfileSize : Nat := 256
/-- Bytes of a local store (R17). -/
def localBytes : Nat := 393216
/-- Bytes of a weight buffer (R170). -/
def weightBytes : Nat := 196608
/-- Bytes of an instruction store (R17). -/
def istBytes : Nat := 65536
/-- LB, the first address of the local region (R264). -/
def lb : Nat := 0xFFFFFFFFF0000000
/-- Bytes of an HBM stack (R237). -/
def stackBytes : Nat := 64000000000
/-- Records of a deque (R17, R291). -/
def dequeSize : Nat := 256
/-- Open contexts of a wave sequencer (R19). -/
def contexts : Nat := 4096

/-- Unloaded latency of an L1 hit or of the core's own local store (R23). -/
def latL1 : Nat := 8
/-- Unloaded latency of the cluster window (R23). -/
def latWindow : Nat := 40
/-- Unloaded latency of an L2 access on the same die (R23). -/
def latL2 : Nat := 200
/-- Unloaded latency of an L2 access one hop away (R23). -/
def latL2Hop : Nat := 340
/-- Cycles added by each further hop (R24). -/
def latHop : Nat := 24
/-- Cycles added by a miss of the L2 at the home (R24). -/
def latMiss : Nat := 360
/-- Unloaded latency of the second tier (R23). -/
def latTier : Nat := 1400
/-- Latency of a Beacon-link hop (R23). -/
def latBeacon : Nat := 4000
/-- Cycles of a microsecond (R8). -/
def cyclesPerUs : Nat := 1900

/-- FREE. Cycles that contention, an L2 miss, refresh or scrubbing adds to a latency (R24, R306).
Log 4 (DESIGN CHOICE, safe). -/
opaque extraCycles : Nat → Nat
/-- FREE. A bit that decides one open choice, such as whether a halfword that was fetched ahead is used (R259).
Log 4 (DESIGN CHOICE, safe). -/
opaque choice : Nat → Bool
/-- FREE. Which of a number of things an open choice takes.
Log 4 (DESIGN CHOICE, safe). -/
opaque pick : Nat → Nat
/-- FREE. An undefined doubleword.
Log 4 (DESIGN CHOICE, safe). -/
opaque freeDword : Nat → Dword
/-- FREE. The sum of a chunk of `mx.mma` under an integer configuration that is no integer, as a function of the accumulator and of the
pairs it multiplies (R90, R103).
Log 4 (DESIGN CHOICE, safe). -/
opaque freeSum : Nat → List ((Nat × Nat × Int) × (Nat × Nat × Int)) → Word
/-- FREE. Which of the two bracketing FP32 values a 1-ulp special function gives for an operand, by the function number of
R131 (true: the larger one). The spec refers to the reference model of `bilmet-sim`, which it does not contain. -/
opaque sfuUpper : Nat → Word → Bool
/-- FREE. Whether both signatures of the image of a kind verify and its version is allowed (R361): kind 1 the hypervisor
image, 2 the provisioning record, 3 a system image; a function of the bytes it stands in. -/
opaque imageVerifies : Nat → List (Nat × Byte) → Bool
/-- FREE. The bytes of an attestation report (R364) over a nonce, for a partition number and its cluster set, with the usable core count of
the device and its list of fenced cores. -/
opaque attestation : List Byte → Nat → BitVec 128 → Nat → List Nat → Nat → Byte
/-- FREE. Where the hypervisor image lies in the staging region, and its length (R360). -/
opaque hypervisorImage : Nat × Nat
/-- FREE. The byte offset of the hypervisor's first instruction in a lantern core's private SRAM (R360). -/
opaque hypervisorEntry : BitVec 16
/-- FREE. Bytes of type-3 memory attached to a second-tier port (R237, R373). -/
opaque tierBytes : Nat → Nat
/-- FREE. Ways of a set of an L2 slice that holds homed lines, halved for the pin limit (R276). -/
opaque l2HalfWays : Nat
/-- FREE. The set of an L2 slice that a homed line lies in, by line number (R276). -/
opaque l2Set : Nat → Nat
/-- FREE. The space that this device has exported to the issuing partition of another device (R284). -/
opaque exportedSpace : Nat → Nat
/-- FREE. The hypervisor image version that `hcall` function 0 gives (R392). -/
opaque hypervisorVersion : Dword

end Sys2Proof.Config
end

