-- ==== Sys2Proof/Syntax.lean ====
section
/-!
DEFINITION. The instruction set of Claique as the opcode table of the spec lists it (R83, R81, R88): one
constructor for each row. First stand the 32-bit instructions (those with operands, then those without), then the
compact ones, then the engine commands, which an engine reads from 256 bits (R87), and last the steps of the
machine that no encoding names: arrivals, completions, grants, host accesses, power and boot.
-/
namespace Sys2Proof

/-- The instructions, engine commands and steps of the machine, one constructor for each row of the opcode
table. -/
inductive Instr where
  /-- `ADD` (R114). Writes gA + gB modulo 2^64 to gD. -/
  | add (d a b : GReg)
  /-- `SUB` (R114). Writes gA - gB modulo 2^64 to gD. -/
  | sub (d a b : GReg)
  /-- `AND` (R114). Writes the bitwise AND of gA and gB to gD. -/
  | and (d a b : GReg)
  /-- `OR` (R114). Writes the bitwise OR of gA and gB to gD. -/
  | or (d a b : GReg)
  /-- `XOR` (R114). Writes the bitwise exclusive OR of gA and gB to gD. -/
  | xor (d a b : GReg)
  /-- `ANDN` (R114). Writes A & ~B to gD. -/
  | andn (d a b : GReg)
  /-- `ORN` (R114). Writes A | ~B to gD. -/
  | orn (d a b : GReg)
  /-- `XNOR` (R114). Writes ~(A ^ B) to gD. -/
  | xnor (d a b : GReg)
  /-- `SLL` (R114). Shifts gA left by gB[5:0], filling with zeros. -/
  | sll (d a b : GReg)
  /-- `SRL` (R114). Shifts gA right by gB[5:0], filling with zeros. -/
  | srl (d a b : GReg)
  /-- `SRA` (R114). Shifts gA right by gB[5:0], filling with copies of bit 63. -/
  | sra (d a b : GReg)
  /-- `ROL` (R114). Rotates gA left by gB[5:0]. -/
  | rol (d a b : GReg)
  /-- `ROR` (R114). Rotates gA right by gB[5:0]. -/
  | ror (d a b : GReg)
  /-- `SEQ` (R114). Writes 1 to gD if gA equals gB, and 0 otherwise. -/
  | seq (d a b : GReg)
  /-- `SLT` (R114). Writes 1 to gD if gA < gB as signed values, and 0 otherwise. -/
  | slt (d a b : GReg)
  /-- `SLT_Z` (R114). Writes 1 to gD if gA < gB as unsigned values, and 0 otherwise. -/
  | sltZ (d a b : GReg)
  /-- `MIN` (R114). Writes the signed minimum of gA and gB to gD. -/
  | min (d a b : GReg)
  /-- `MAX` (R114). Writes the signed maximum of gA and gB to gD. -/
  | max (d a b : GReg)
  /-- `MIN_Z` (R114). Writes the unsigned minimum of gA and gB to gD. -/
  | minZ (d a b : GReg)
  /-- `MAX_Z` (R114). Writes the unsigned maximum of gA and gB to gD. -/
  | maxZ (d a b : GReg)
  /-- `MUL` (R114). Writes the low 64 bits of gA × gB to gD. -/
  | mul (d a b : GReg)
  /-- `MULH` (R114). Writes the high 64 bits of the signed 128-bit product to gD. -/
  | mulh (d a b : GReg)
  /-- `MULH_Z` (R114). Writes the high 64 bits of the unsigned 128-bit product to gD. -/
  | mulhZ (d a b : GReg)
  /-- `DIV` (R115). Writes the signed quotient, truncated toward zero, to gD and never traps. -/
  | div (d a b : GReg)
  /-- `DIV_Z` (R115). Writes the unsigned quotient to gD and never traps. -/
  | divZ (d a b : GReg)
  /-- `REM` (R115). Writes the signed remainder, with the sign of gA, to gD. -/
  | rem (d a b : GReg)
  /-- `REM_Z` (R115). Writes the unsigned remainder to gD. -/
  | remZ (d a b : GReg)
  /-- `CLZ` (R114). Writes the count of leading zero bits of gA to gD. -/
  | clz (d a : GReg)
  /-- `CTZ` (R114). Writes the count of trailing zero bits of gA to gD. -/
  | ctz (d a : GReg)
  /-- `POPC` (R114). Writes the count of one bits of gA to gD. -/
  | popc (d a : GReg)
  /-- `BSWAP` (R114). Writes gA with its eight bytes in reverse order to gD. -/
  | bswap (d a : GReg)
  /-- `CSEL` (R116). Writes gA to gD if gD is nonzero, and gB otherwise. -/
  | csel (d a b : GReg)
  /-- `ADDI` (R117). Writes gA plus the sign-extended imm11 to gD. -/
  | addi (d a : GReg) (i : BitVec 11)
  /-- `ANDI` (R117). Writes gA AND the sign-extended imm11 to gD. -/
  | andi (d a : GReg) (i : BitVec 11)
  /-- `ORI` (R117). Writes gA OR the sign-extended imm11 to gD. -/
  | ori (d a : GReg) (i : BitVec 11)
  /-- `XORI` (R117). Writes gA XOR the sign-extended imm11 to gD. -/
  | xori (d a : GReg) (i : BitVec 11)
  /-- `SLLI` (R117). Shifts gA left by an immediate amount. -/
  | slli (d a : GReg) (s : BitVec 6)
  /-- `SRLI` (R117). Shifts gA right logically by an immediate amount. -/
  | srli (d a : GReg) (s : BitVec 6)
  /-- `SRAI` (R117). Shifts gA right arithmetically by an immediate amount. -/
  | srai (d a : GReg) (s : BitVec 6)
  /-- `ROLI` (R117). Rotates gA left by an immediate amount. -/
  | roli (d a : GReg) (s : BitVec 6)
  /-- `SLTI` (R117). Writes 1 to gD if gA is below the immediate as signed values. -/
  | slti (d a : GReg) (i : BitVec 11)
  /-- `SLTI_Z` (R117). Writes 1 to gD if gA is below the sign-extended immediate as unsigned values. -/
  | sltiZ (d a : GReg) (i : BitVec 11)
  /-- `LUI` (R118). Writes the sign-extended imm18 shifted left by 11 to gD. -/
  | lui (d : GReg) (i : BitVec 18)
  /-- `LHI` (R118). Shifts gD left by 18 and ORs in the zero-extended imm18. -/
  | lhi (d : GReg) (i : BitVec 18)
  /-- `ADDPC` (R118). Writes the pc plus a halfword offset, modulo 2^16, to gD. -/
  | addpc (d : GReg) (i : BitVec 18)
  /-- `JAL` (R119). Jumps by a halfword offset and writes the link pc + 4 to gD. -/
  | jal (d : GReg) (i : BitVec 18)
  /-- `JALR` (R120). Jumps to gA plus an offset, writes the link, and traps MISALIGNED on an odd target. -/
  | jalr (d a : GReg) (i : BitVec 11)
  /-- `BEQ` (R121). Branches if gA equals gB. -/
  | beq (a b : GReg) (x : BitVec 11)
  /-- `BNE` (R121). Branches if gA differs from gB. -/
  | bne (a b : GReg) (x : BitVec 11)
  /-- `BLT` (R121). Branches if gA < gB as signed values. -/
  | blt (a b : GReg) (x : BitVec 11)
  /-- `BGE` (R121). Branches if gA ≥ gB as signed values. -/
  | bge (a b : GReg) (x : BitVec 11)
  /-- `BLT_Z` (R121). Branches if gA < gB as unsigned values. -/
  | bltZ (a b : GReg) (x : BitVec 11)
  /-- `BGE_Z` (R121). Branches if gA ≥ gB as unsigned values. -/
  | bgeZ (a b : GReg) (x : BitVec 11)
  /-- `LD_B` (R266). Loads a byte, sign-extended, into gD. -/
  | ldB (d n : GReg) (i : BitVec 8)
  /-- `LD_H` (R266). Loads a halfword, sign-extended, into gD. -/
  | ldH (d n : GReg) (i : BitVec 8)
  /-- `LD_W` (R266). Loads a word, sign-extended, into gD. -/
  | ldW (d n : GReg) (i : BitVec 8)
  /-- `LD_D` (R266). Loads a doubleword into gD. -/
  | ldD (d n : GReg) (i : BitVec 8)
  /-- `LD_B_Z` (R266). Loads a byte, zero-extended, into gD. -/
  | ldBZ (d n : GReg) (i : BitVec 8)
  /-- `LD_H_Z` (R266). Loads a halfword, zero-extended, into gD. -/
  | ldHZ (d n : GReg) (i : BitVec 8)
  /-- `LD_W_Z` (R266). Loads a word, zero-extended, into gD. -/
  | ldWZ (d n : GReg) (i : BitVec 8)
  /-- `ST_B` (R266). Stores the low byte of gD. -/
  | stB (d n : GReg) (i : BitVec 8)
  /-- `ST_H` (R266). Stores the low halfword of gD. -/
  | stH (d n : GReg) (i : BitVec 8)
  /-- `ST_W` (R266). Stores the low word of gD. -/
  | stW (d n : GReg) (i : BitVec 8)
  /-- `ST_D` (R266). Stores the doubleword gD. -/
  | stD (d n : GReg) (i : BitVec 8)
  /-- `LDP` (R268). Loads a doubleword with the policy operand held in gP. -/
  | ldp (d n p : GReg)
  /-- `STP` (R268). Stores a doubleword with the policy operand held in gP. -/
  | stp (d n p : GReg)
  /-- `LD_C` (R268). Loads a doubleword at base plus index through the constant cache. -/
  | ldC (d n m : GReg)
  /-- `LD_SYNC` (R269). Waits for a local word to be full and then reads it, leaving it full. -/
  | ldSync (d n : GReg)
  /-- `LD_TAKE` (R269). Waits for a local word to be full, reads it and empties it. -/
  | ldTake (d n : GReg)
  /-- `ST_FILL` (R269). Writes a local word and sets it full. -/
  | stFill (d n : GReg)
  /-- `ST_WFILL` (R269). Waits for a local word to be empty, then writes it and sets it full. -/
  | stWfill (d n : GReg)
  /-- `FE_CLR` (R269). Sets a local word empty without changing its value. -/
  | feClr (n : GReg)
  /-- `FE_SET` (R269). Sets a local word full without changing its value. -/
  | feSet (n : GReg)
  /-- `LRW` (R271). Joins the reservation queue of a doubleword and waits for its value. -/
  | lrw (d a : GReg)
  /-- `SCQ` (R271). As holder, writes the reserved word and hands the reservation on; otherwise it returns 1. -/
  | scq (d a b : GReg)
  /-- `RSV_DROP` (R271). Hands the held reservation on without a write. -/
  | rsvDrop (a : GReg)
  /-- `AMO_ADD` (R270). Atomically adds gB to a doubleword and returns the old value. -/
  | amoAdd (d a b : GReg)
  /-- `AMO_AND` (R270). Atomically ANDs gB into a doubleword and returns the old value. -/
  | amoAnd (d a b : GReg)
  /-- `AMO_OR` (R270). Atomically ORs gB into a doubleword and returns the old value. -/
  | amoOr (d a b : GReg)
  /-- `AMO_XOR` (R270). Atomically XORs gB into a doubleword and returns the old value. -/
  | amoXor (d a b : GReg)
  /-- `AMO_MIN` (R270). Atomically takes the signed minimum with gB and returns the old value. -/
  | amoMin (d a b : GReg)
  /-- `AMO_MAX` (R270). Atomically takes the signed maximum with gB and returns the old value. -/
  | amoMax (d a b : GReg)
  /-- `AMO_MIN_Z` (R270). Atomically takes the unsigned minimum with gB and returns the old value. -/
  | amoMinZ (d a b : GReg)
  /-- `AMO_MAX_Z` (R270). Atomically takes the unsigned maximum with gB and returns the old value. -/
  | amoMaxZ (d a b : GReg)
  /-- `AMO_SWP` (R270). Atomically swaps gB into a doubleword and returns the old value. -/
  | amoSwp (d a b : GReg)
  /-- `AMO_CAS` (R270). Atomically writes gB if the word equals gD, and returns the old value. -/
  | amoCas (d a b : GReg)
  /-- `AMO_FADD` (R272). Adds an FP32 value to a word, either fused or as a posted update of an ordered round on a D page. -/
  | amoFadd (d a b : GReg)
  /-- `DET_OPEN` (R273). Opens or joins the ordered round on a line with n participants. -/
  | detOpen (a b : GReg)
  /-- `DET_DONE` (R273). Sends the issuer's update count and waits until the bank has accepted every update. -/
  | detDone (a : GReg)
  /-- `FENCE` (R274). Acts as a release and an acquire at the given scope. -/
  | fence (c : Scope)
  /-- `ACQ` (R274). Acquire at a scope: reads the release log and invalidates L1 lines. -/
  | acq (c : Scope)
  /-- `REL` (R274). Release at a scope: drains the write-combining buffer and logs the dirty signature. -/
  | rel (c : Scope)
  /-- `FENCE_C` (R258). Drains, releases and acquires as the scope requires, then drops the constant cache. -/
  | fenceC (c : Scope)
  /-- `LOCK_L` (R276). Pins a line in its home slice against the space's quota, returning a status. -/
  | lockL (d a : GReg)
  /-- `UNLOCK_L` (R276). Unpins a line that the space has pinned. -/
  | unlockL (a : GReg)
  /-- `BIND` (R278). Binds a general register to an address generator as an in, out or arrive stream. -/
  | bind (d : GReg) (a : BitVec 3) (b : Dir)
  /-- `UNBIND` (R278). Ends the binding of an address generator. -/
  | unbind (a : BitVec 3)
  /-- `AG_SET` (R278). Loads an address-generator descriptor from memory. -/
  | agSet (d : BitVec 3) (a : GReg)
  /-- `AG_GET` (R278). Reads one field of an address generator into gD. -/
  | agGet (d : GReg) (a : BitVec 3) (b : BitVec 4)
  /-- `FADD` (R122). Adds two FP32 values with one rounding. -/
  | fadd (d a b : GReg)
  /-- `FSUB` (R122). Subtracts two FP32 values with one rounding. -/
  | fsub (d a b : GReg)
  /-- `FMUL` (R122). Multiplies two FP32 values with one rounding. -/
  | fmul (d a b : GReg)
  /-- `FDIV` (R122). Divides two FP32 values with one rounding. -/
  | fdiv (d a b : GReg)
  /-- `FSQRT` (R122). Takes the FP32 square root with one rounding. -/
  | fsqrt (d a : GReg)
  /-- `FMIN` (R123). Takes the FP32 minimum, with -0 below +0. -/
  | fmin (d a b : GReg)
  /-- `FMAX` (R123). Takes the FP32 maximum, with -0 below +0. -/
  | fmax (d a b : GReg)
  /-- `FEQ` (R122). Compares two FP32 values for equality. -/
  | feq (d a b : GReg)
  /-- `FLT` (R122). Compares two FP32 values for less-than. -/
  | flt (d a b : GReg)
  /-- `FLE` (R122). Compares two FP32 values for less-or-equal. -/
  | fle (d a b : GReg)
  /-- `FCLASS` (R124). Writes the class word of an FP32 value to gD. -/
  | fclass (d a : GReg)
  /-- `FABS` (R125). Clears the sign of an FP32 value. -/
  | fabs (d a : GReg)
  /-- `FNEG` (R125). Inverts the sign of an FP32 value. -/
  | fneg (d a : GReg)
  /-- `FSGNJ` (R125). Gives X the sign of Y. -/
  | fsgnj (d a b : GReg)
  /-- `FMADD` (R126). Computes X × Y + Z with one rounding into gD. -/
  | fmadd (d a b : GReg)
  /-- `FMSUB` (R126). Computes X × Y − Z with one rounding into gD. -/
  | fmsub (d a b : GReg)
  /-- `FNMADD` (R126). Computes −(X × Y) − Z with one rounding into gD. -/
  | fnmadd (d a b : GReg)
  /-- `FNMSUB` (R126). Computes −(X × Y) + Z with one rounding into gD. -/
  | fnmsub (d a b : GReg)
  /-- `CVT` (R129). Converts a scalar between two types with one rounding. -/
  | cvt (d a : GReg) (rm : Rnd) (dt st : LaneT)
  /-- `EXP2` (R131). Computes 2^X in the special-function unit. -/
  | exp2 (d a : GReg)
  /-- `LOG2` (R131). Computes log2 X in the special-function unit. -/
  | log2 (d a : GReg)
  /-- `RCP` (R131). Computes 1 ÷ X in the special-function unit. -/
  | rcp (d a : GReg)
  /-- `RSQRT` (R131). Computes 1 ÷ √X in the special-function unit. -/
  | rsqrt (d a : GReg)
  /-- `SIN` (R133). Computes sin X in radians, with range reduction. -/
  | sin (d a : GReg)
  /-- `COS` (R133). Computes cos X in radians, with range reduction. -/
  | cos (d a : GReg)
  /-- `SINT` (R134). Computes sin 2πX, with X in turns. -/
  | sint (d a : GReg)
  /-- `COST` (R134). Computes cos 2πX, with X in turns. -/
  | cost (d a : GReg)
  /-- `TANH` (R131). Computes tanh X. -/
  | tanh (d a : GReg)
  /-- `SIGM` (R131). Computes the logistic sigmoid of X. -/
  | sigm (d a : GReg)
  /-- `ERF` (R131). Computes erf X. -/
  | erf (d a : GReg)
  /-- `WADD` (R141). Adds integer lanes, wrapping. -/
  | wadd (w a b : Reg4) (k : KReg) (t : LaneT)
  /-- `WSUB` (R141). Subtracts integer lanes, wrapping. -/
  | wsub (w a b : Reg4) (k : KReg) (t : LaneT)
  /-- `WMUL` (R141). Multiplies integer lanes, keeping the low bits. -/
  | wmul (w a b : Reg4) (k : KReg) (t : LaneT)
  /-- `WMULH` (R141). Multiplies integer lanes, keeping the high bits. -/
  | wmulh (w a b : Reg4) (k : KReg) (t : LaneT)
  /-- `WMIN` (R141). Takes the lane-wise integer minimum. -/
  | wmin (w a b : Reg4) (k : KReg) (t : LaneT)
  /-- `WMAX` (R141). Takes the lane-wise integer maximum. -/
  | wmax (w a b : Reg4) (k : KReg) (t : LaneT)
  /-- `WABS` (R141). Takes the lane-wise absolute value. -/
  | wabs (w a : Reg4) (k : KReg) (t : LaneT)
  /-- `WAVG` (R141). Takes the lane-wise rounded-up average. -/
  | wavg (w a b : Reg4) (k : KReg) (t : LaneT)
  /-- `WSLL` (R141). Shifts lanes left by per-lane counts. -/
  | wsll (w a b : Reg4) (k : KReg) (t : LaneT)
  /-- `WSRL` (R141). Shifts lanes right logically by per-lane counts. -/
  | wsrl (w a b : Reg4) (k : KReg) (t : LaneT)
  /-- `WSRA` (R141). Shifts lanes right arithmetically by per-lane counts. -/
  | wsra (w a b : Reg4) (k : KReg) (t : LaneT)
  /-- `WAND` (R141). Lane-wise bitwise AND. -/
  | wand (w a b : Reg4) (k : KReg) (t : LaneT)
  /-- `WOR` (R141). Lane-wise bitwise OR. -/
  | wor (w a b : Reg4) (k : KReg) (t : LaneT)
  /-- `WXOR` (R141). Lane-wise bitwise exclusive OR. -/
  | wxor (w a b : Reg4) (k : KReg) (t : LaneT)
  /-- `WANDN` (R141). Lane-wise A & ~B. -/
  | wandn (w a b : Reg4) (k : KReg) (t : LaneT)
  /-- `WADDS` (R141). Lane-wise saturating add, which sets INT_SAT when it clamps. -/
  | wadds (w a b : Reg4) (k : KReg) (t : LaneT)
  /-- `WFADD` (R142). Lane-wise floating-point add. -/
  | wfadd (w a b : Reg4) (k : KReg) (t : LaneT)
  /-- `WFSUB` (R142). Lane-wise floating-point subtract. -/
  | wfsub (w a b : Reg4) (k : KReg) (t : LaneT)
  /-- `WFMUL` (R142). Lane-wise floating-point multiply. -/
  | wfmul (w a b : Reg4) (k : KReg) (t : LaneT)
  /-- `WFMA` (R142). Lane-wise fused multiply-add into wD. -/
  | wfma (w a b : Reg4) (k : KReg) (t : LaneT)
  /-- `WFMIN` (R142). Lane-wise floating-point minimum. -/
  | wfmin (w a b : Reg4) (k : KReg) (t : LaneT)
  /-- `WFMAX` (R142). Lane-wise floating-point maximum. -/
  | wfmax (w a b : Reg4) (k : KReg) (t : LaneT)
  /-- `WFABS` (R142). Lane-wise floating-point absolute value. -/
  | wfabs (w a : Reg4) (k : KReg) (t : LaneT)
  /-- `WFNEG` (R142). Lane-wise floating-point negation. -/
  | wfneg (w a : Reg4) (k : KReg) (t : LaneT)
  /-- `WCMPEQ` (R143). Writes a mask of integer lane equality. -/
  | wcmpeq (d : KReg) (a b : Reg4) (k : KReg) (t : LaneT)
  /-- `WCMPLT` (R143). Writes a mask of integer lane less-than. -/
  | wcmplt (d : KReg) (a b : Reg4) (k : KReg) (t : LaneT)
  /-- `WCMPLE` (R143). Writes a mask of integer lane less-or-equal. -/
  | wcmple (d : KReg) (a b : Reg4) (k : KReg) (t : LaneT)
  /-- `WFCMPEQ` (R143). Writes a mask of floating-point lane equality. -/
  | wfcmpeq (d : KReg) (a b : Reg4) (k : KReg) (t : LaneT)
  /-- `WFCMPLT` (R143). Writes a mask of floating-point lane less-than. -/
  | wfcmplt (d : KReg) (a b : Reg4) (k : KReg) (t : LaneT)
  /-- `WFCMPLE` (R143). Writes a mask of floating-point lane less-or-equal. -/
  | wfcmple (d : KReg) (a b : Reg4) (k : KReg) (t : LaneT)
  /-- `KAND` (R143). Bitwise AND of two mask registers. -/
  | kand (d a b : KReg)
  /-- `KOR` (R143). Bitwise OR of two mask registers. -/
  | kor (d a b : KReg)
  /-- `KXOR` (R143). Bitwise exclusive OR of two mask registers. -/
  | kxor (d a b : KReg)
  /-- `KNOT` (R143). Complements a mask register. -/
  | knot (d a : KReg)
  /-- `KPOP` (R143). Counts the one bits of a mask register into gD. -/
  | kpop (d : Reg4) (a : KReg)
  /-- `WBCAST` (R144). Broadcasts the low bits of gA to the active lanes. -/
  | wbcast (w a : Reg4) (k : KReg) (t : LaneT)
  /-- `WINS` (R144). Inserts gB into the lane that gA selects. -/
  | wins (w a b : Reg4) (t : LaneT)
  /-- `WEXT` (R144). Extracts the lane that gB selects into gD. -/
  | wext (d a b : Reg4) (t : LaneT)
  /-- `WSHUF` (R144). Shuffles lanes of wA by the indices in wB. -/
  | wshuf (w a b : Reg4) (k : KReg) (t : LaneT)
  /-- `WROT` (R144). Rotates lanes by the amount in gB. -/
  | wrot (w a b : Reg4) (k : KReg) (t : LaneT)
  /-- `WZIP` (R144). Interleaves the low halves of wA and wB. -/
  | wzip (w a b : Reg4) (k : KReg) (t : LaneT)
  /-- `WUNZIP` (R144). Separates the even and odd lanes of wA. -/
  | wunzip (w a : Reg4) (k : KReg) (t : LaneT)
  /-- `WSEL` (R144). Selects each lane from wA or wB by a mask. -/
  | wsel (w a b : Reg4) (k : KReg) (t : LaneT)
  /-- `WRSUM` (R145). Sums the active integer lanes exactly into gD. -/
  | wrsum (d a : Reg4) (k : KReg) (t : LaneT)
  /-- `WRMIN` (R145). Takes the minimum of the active integer lanes. -/
  | wrmin (d a : Reg4) (k : KReg) (t : LaneT)
  /-- `WRMAX` (R145). Takes the maximum of the active integer lanes. -/
  | wrmax (d a : Reg4) (k : KReg) (t : LaneT)
  /-- `WRFSUM` (R145). Sums the active floating-point lanes by the fixed pairwise tree. -/
  | wrfsum (d a : Reg4) (k : KReg) (t : LaneT)
  /-- `WRFMIN` (R145). Takes the floating-point minimum of the active lanes by the tree. -/
  | wrfmin (d a : Reg4) (k : KReg) (t : LaneT)
  /-- `WRFMAX` (R145). Takes the floating-point maximum of the active lanes by the tree. -/
  | wrfmax (d a : Reg4) (k : KReg) (t : LaneT)
  /-- `WCVT` (R146). Converts lanes between two types of one container width. -/
  | wcvt (w a : Reg4) (s : LaneT) (k : KReg) (t : LaneT)
  /-- `WNARROW` (R146). Narrows the lanes of wA and wB into one register. -/
  | wnarrow (w a b : Reg4) (k : KReg) (t : LaneT)
  /-- `WWIDEN` (R146). Widens the low or high lanes of wA. -/
  | wwiden (w a : Reg4) (h : BitVec 4) (k : KReg) (t : LaneT)
  /-- `WENC` (R146). Encodes lanes into accord codes through slot otab. -/
  | wenc (w a : Reg4) (t : LaneT)
  /-- `WDEC` (R146). Decodes accord codes from one byte group through slot atab. -/
  | wdec (w a : Reg4) (g : BitVec 4) (t : LaneT)
  /-- `WLD` (R149). Loads 64 bytes into a wide register. -/
  | wld (w : Reg4) (n : GReg) (i : BitVec 8)
  /-- `WST` (R149). Stores a wide register to 64 bytes. -/
  | wst (w : Reg4) (n : GReg) (i : BitVec 8)
  /-- `WLD_SYNC` (R150). Waits for sixteen local words to be full, then reads them. -/
  | wldSync (w : Reg4) (n : GReg) (i : BitVec 8)
  /-- `WST_FILL` (R150). Stores sixteen local words and sets them full. -/
  | wstFill (w : Reg4) (n : GReg) (i : BitVec 8)
  /-- `GANG_FORM` (R152). Arrives at the rendezvous that forms a gang of n members. -/
  | gangForm (a : GReg) (n : BitVec 2)
  /-- `PUSH` (R329). Pushes a command from half of a wide register to an engine queue. -/
  | push (w : Reg4) (h : Bool) (e : Engine)
  /-- `PUSHM` (R329). Pushes a 32-byte command read from memory to an engine queue. -/
  | pushm (e : Engine) (a : GReg) (i : BitVec 8)
  /-- `ENG_WAIT` (R330). Waits for the oldest reported command of an engine and returns its completion word. -/
  | engWait (e : Engine) (d : GReg)
  /-- `ENG_POLL` (R330). Returns the oldest completion word, or a not-finished value. -/
  | engPoll (e : Engine) (d : GReg)
  /-- `TCFG_SET` (R332). Writes a tile configuration slot, draining and clearing the tiles if the slot is active. -/
  | tcfgSet (a : GReg) (n : BitVec 4)
  /-- `TCFG_GET` (R332). Reads a tile configuration slot into gD. -/
  | tcfgGet (d : GReg) (n : BitVec 4)
  /-- `ACC_LOAD` (R333). Loads and checks an accord table into a table slot. -/
  | accLoad (a : GReg) (t : BitVec 2)
  /-- `MSG_SEND` (R335). Sends a message of one to four doublewords to a core and class. -/
  | msgSend (a b : GReg)
  /-- `MSG_SENDW` (R335). Sends a message and waits for the report that it was deposited or held. -/
  | msgSendw (a b : GReg)
  /-- `MSG_BIND` (R336). Binds or unbinds a message class to registers of the issuing slot. -/
  | msgBind (d : GReg) (m : Bool) (n : BitVec 2) (c : BitVec 4)
  /-- `MSG_WAIT` (R295). Waits for the ready bit of a class, then re-arms the class. -/
  | msgWait (c : BitVec 4)
  /-- `TASK_PUSH` (R338). Copies a task record to the tail of the core's deque or to a fixed list. -/
  | taskPush (a : GReg)
  /-- `TASK_SEND` (R338). Sends a copy of a task record to another core as a launch. -/
  | taskSend (a b : GReg)
  /-- `RETIRE_S` (R299). Retires and names a successor record with an inheritance mask. -/
  | retireS (a b : GReg)
  /-- `TSTAMP` (R341). Asks the commit arbiter for the oldest uncommitted timestamp. -/
  | tstamp (d : GReg)
  /-- `DET_LIST` (R342). Places an array of records on the fixed lists of deterministic placement. -/
  | detList (a b : GReg)
  /-- `DET_WAIT` (R343). Takes the named message with a given sender and sequence number. -/
  | detWait (a b : GReg)
  /-- `THR_SPAWN` (R345). Starts a compute thread in the issuing group. -/
  | thrSpawn (d a : GReg)
  /-- `THR_WAKE` (R346). Readies a parked slot or sets its wake-pending bit. -/
  | thrWake (a : GReg)
  /-- `BAR_INIT` (R348). Sets a cluster barrier's expected count and clears its state. -/
  | barInit (a b : GReg)
  /-- `BAR_ARR` (R348). Sends one arrival to a cluster barrier. -/
  | barArr (a : GReg)
  /-- `BAR_WAIT` (R297). Waits for completion of the phase of the thread's latest arrival. -/
  | barWait (a : GReg)
  /-- `BAR_AW` (R348). Arrives at a barrier and waits for that phase. -/
  | barAw (a : GReg)
  /-- `RED_SEND` (R349). Contributes a wide register to the die's reduction round. -/
  | redSend (a : Reg4) (t : Bool) (p : BitVec 2)
  /-- `RED_RECV` (R349). On the root core, waits for the reduction total. -/
  | redRecv (w : Reg4)
  /-- `NEST_SET` (R351). Initialises a nest counter as one direct write. -/
  | nestSet (a b : GReg)
  /-- `NEST_CLAIM` (R351). Claims a chunk of iterations from a nest counter. -/
  | nestClaim (d a : GReg)
  /-- `NEST_NEXT` (R351). Steps ix0 to ix2 through the claimed chunk. -/
  | nestNext (d : GReg)
  /-- `NEST_END` (R351). Sets the remaining count of a nest counter to zero. -/
  | nestEnd (a : GReg)
  /-- `CTX_OPEN` (R309). Opens a context from its descriptor and starts the prefill wave. -/
  | ctxOpen (d a : GReg)
  /-- `CTX_CLOSE` (R326). Waits for the context to go idle, then frees it. -/
  | ctxClose (a : GReg)
  /-- `EDIT_INS` (R313). Sends an insertion of a token at a position to the home sequencer. -/
  | editIns (d a b : GReg)
  /-- `EDIT_DEL` (R313). Sends a removal of a position to the home sequencer. -/
  | editDel (d a : GReg)
  /-- `EDIT_CHG` (R313). Sends a change of the token at a position to the home sequencer. -/
  | editChg (d a b : GReg)
  /-- `CTX_FORK` (R324). Opens a child context that shares the parent's blocks. -/
  | ctxFork (d a b : GReg)
  /-- `CTX_ROPE` (R323). Sends a position-scaling change as an edit. -/
  | ctxRope (d a b : GReg)
  /-- `DMAP_GET` (R354). Reads a snapshot of a dirty-map word, the counter or the chain size. -/
  | dmapGet (d a : GReg)
  /-- `DMAP_MOV` (R319). Reports a recompute as moved or unmoved to the sequencer. -/
  | dmapMov (a b : GReg)
  /-- `SETTLE` (R321). Waits until every frame in a range is settled for a stamp. -/
  | settle (a b : GReg)
  /-- `CTX_RD` (R262). Selects a frame version by stamp and mode, and takes a lease on its copy. -/
  | ctxRd (d a b : GReg)
  /-- `CTX_REL` (R263). Drops one lease on a copy. -/
  | ctxRel (a : GReg)
  /-- `BEAM_MAP` (R355). Loads masked entries of the core's beam map. -/
  | beamMap (a b : GReg)
  /-- `PTB_FILL` (R322). Asks the sequencer to fill a PTB entry for a chain entry. -/
  | ptbFill (a b : GReg)
  /-- `PTB_INV` (R356). Removes PTB entries of a handle, or all entries of the core. -/
  | ptbInv (a : GReg)
  /-- `POS_XL` (R356). Translates a logical position through the PTB, raising PTB_MISS on a miss. -/
  | posXl (d a b : GReg)
  /-- `MFS` (R374). Reads a special register into gD. -/
  | mfs (d : GReg) (sel : Spr)
  /-- `MTS` (R374). Writes gD to a special register. -/
  | mts (d : GReg) (sel : Spr)
  /-- `TRAP` (R389). Raises SOFTWARE_TRAP with a code. -/
  | trap (e : BitVec 11)
  /-- `HCALL` (R392). Sends a call to the hypervisor and waits for its reply. -/
  | hcall (d : GReg) (n : BitVec 11)
  /-- `TLB_INV` (R377). Removes the cached translations of one page of a space. -/
  | tlbInv (d a : GReg)
  /-- `TLB_ALL` (R377). Removes every cached translation of a space. -/
  | tlbAll (a : GReg)
  /-- `IST_INV` (R378). Sends an ordering message that makes a core discard its prefetched instructions. -/
  | istInv (a : GReg)
  /-- `KLOG` (R379). Appends a software event to the keeper's log. -/
  | klog (a : GReg) (c : BitVec 8)
  /-- `TSAVE` (R380). Saves and frees an open-mode thread of the core. -/
  | tsave (a : GReg) (n : BitVec 6)
  /-- `TREST` (R381). Restores a saved thread into the lowest free slot. -/
  | trest (d a : GReg)
  /-- `GANG_END` (R156). Ends a gang; followers resume their own fetch at gret. -/
  | gangEnd
  /-- `GANG_BAR` (R155). Makes the leader wait until every follower has written every earlier forwarded result. -/
  | gangBar
  /-- `RETIRE` (R339). Ends the thread; the last thread retires the group. -/
  | retire
  /-- `TASK_ABORT` (R340). Ends the task-mode group without effect and without a re-run. -/
  | taskAbort
  /-- `THR_EXIT` (R346). Ends the issuing thread. -/
  | thrExit
  /-- `THR_PARK` (R346). Parks the thread unless its wake-pending bit is set. -/
  | thrPark
  /-- `HRET` (R390). Leaves handler state and resumes at the pc held in h2. -/
  | hret
  /-- `TRET` (R391). Returns from a supervisor trap to U, or ends an aborted or detached handler. -/
  | tret
  /-- `NOP` (R393). Does nothing. -/
  | nop
  /-- `WFE` (R393). Waits for the slot's event bit. -/
  | wfe
  /-- `TLB_ALL_PART` (R377). Removes every cached translation of the partition, stage-2 caches included. -/
  | tlbAllPart
  /-- `C_MV` (R81). Compact form of add gD, gA, g0. -/
  | cMv (d a : Reg4)
  /-- `C_ADD` (R81). Compact form of add gD, gD, gA. -/
  | cAdd (d a : Reg4)
  /-- `C_SUB` (R81). Compact form of sub gD, gD, gA. -/
  | cSub (d a : Reg4)
  /-- `C_ADDI` (R81). Compact form of addi gD, gD, e. -/
  | cAddi (d : Reg4) (i : BitVec 7)
  /-- `C_LI` (R81). Compact form of addi gD, g0, e. -/
  | cLi (d : Reg4) (i : BitVec 7)
  /-- `C_LD_W` (R81). Compact form of ld.w. -/
  | cLdW (d a : Reg4) (i : BitVec 3)
  /-- `C_LD_D` (R81). Compact form of ld.d. -/
  | cLdD (d a : Reg4) (i : BitVec 3)
  /-- `C_ST_W` (R81). Compact form of st.w. -/
  | cStW (d a : Reg4) (i : BitVec 3)
  /-- `C_ST_D` (R81). Compact form of st.d. -/
  | cStD (d a : Reg4) (i : BitVec 3)
  /-- `C_AND` (R81). Compact form of and gD, gD, gA. -/
  | cAnd (d a : Reg4)
  /-- `C_SLL` (R81). Compact form of slli gD, gD, e. -/
  | cSll (d : Reg4) (i : BitVec 6)
  /-- `C_BEQZ` (R81). Compact form of beq gA, g0, t. -/
  | cBeqz (a : Reg4) (o : BitVec 7)
  /-- `C_BNEZ` (R81). Compact form of bne gA, g0, t. -/
  | cBnez (a : Reg4) (o : BitVec 7)
  /-- `C_J` (R81). Compact form of jal g0, t. -/
  | cJ (o : BitVec 11)
  /-- `C_RET` (R81). Compact form of jalr g0, gA, 0. -/
  | cRet (a : Reg4)
  /-- `C_NOP` (R81). Compact instruction with no effect. -/
  | cNop
  /-- `MX_MMA` (R175). Matrix engine accumulates A times B blocks into a tile, chunk by chunk. -/
  | mxMma (tag : Half) (sf : Bool) (bsgn asgn : Bool) (rows : BitVec 6) (tile : BitVec 3) (lso stride k wbo bstride ascl : Word)
  /-- `MX_LDB` (R173). Matrix engine copies bytes from global memory into the weight buffer. -/
  | mxLdb (tag : Half) (addr : Dword) (wbo len : Word)
  /-- `MX_LDT` (R174). Matrix engine loads tile rows from the local store. -/
  | mxLdt (tag : Half) (sf : Bool) (type : BitVec 4) (rows : BitVec 6) (tile : BitVec 3) (lso stride : Word)
  /-- `MX_STT` (R176). Matrix engine stores tile rows, optionally with a threshold compare. -/
  | mxStt (tag : Half) (sf gf cf : Bool) (type : BitVec 4) (rows : BitVec 6) (tile : BitVec 3) (cmp dst : Dword) (stride : Word) (thr : Half)
  /-- `MX_ZERO` (R177). Matrix engine sets the named tiles to +0. -/
  | mxZero (tag : Half) (tiles : BitVec 8)
  /-- `MX_QK` (R180). Matrix engine computes attention scores with rotation on fetch and tile pruning. -/
  | mxQk (tag : Half) (sf : Bool) (desc : Word)
  /-- `MX_PV` (R182). Matrix engine accumulates probability codes times values into tiles. -/
  | mxPv (tag : Half) (sf : Bool) (tile : BitVec 3) (desc : Word)
  /-- `VX_MAP` (R184). Vector engine applies an element function. -/
  | vxMap (tag : Half) (sf : Bool) (v : VecOps)
  /-- `VX_FMA` (R185). Vector engine computes a fused multiply-add per element. -/
  | vxFma (tag : Half) (sf : Bool) (v : VecOps)
  /-- `VX_RED` (R186). Vector engine reduces elements in order or through the long accumulator. -/
  | vxRed (tag : Half) (sf : Bool) (v : VecOps)
  /-- `VX_EXPSUM` (R187). Vector engine forms the probability codes of one row of scores. -/
  | vxExpsum (tag : Half) (sf : Bool) (v : VecOps)
  /-- `VX_NORM` (R188). Vector engine applies a root-mean-square normalisation. -/
  | vxNorm (tag : Half) (sf : Bool) (v : VecOps)
  /-- `VX_REQUANT` (R189). Vector engine moves accord codes to new block scales. -/
  | vxRequant (tag : Half) (sf : Bool) (v : VecOps)
  /-- `VX_CMPST` (R190). Vector engine performs a threshold-compare store. -/
  | vxCmpst (tag : Half) (sf : Bool) (n a : Word) (thr : Half) (cmp dst : Dword)
  /-- `VX_TOPK` (R191). Vector engine selects the k largest logits. -/
  | vxTopk (tag : Half) (sf : Bool) (v : VecOps)
  /-- `VX_KSUM` (R192). Vector engine writes per-tile key maxima and minima. -/
  | vxKsum (tag : Half) (sf : Bool) (v : VecOps)
  /-- `VX_CVT` (R193). Vector engine converts elements between types. -/
  | vxCvt (tag : Half) (sf : Bool) (v : VecOps)
  /-- `CP_COPY` (R281). Copy engine copies bytes in a strided shape. -/
  | cpCopy (tag : Half) (sf ff tf : Bool) (src dst : Dword) (len shape : Word)
  /-- `CP_GATHER` (R282). Copy engine gathers indexed elements. -/
  | cpGather (tag : Half) (sf ff tf : Bool) (src dst : Dword) (idx n esz : Word)
  /-- `CP_SCATTER` (R282). Copy engine scatters elements to indexed places. -/
  | cpScatter (tag : Half) (sf ff tf : Bool) (src dst : Dword) (idx n esz : Word)
  /-- `CP_FILL` (R283). Copy engine fills a range with a pattern, or sets local words empty. -/
  | cpFill (tag : Half) (tf ef : Bool) (dst : Dword) (len pat : Word)
  /-- `CP_PUT` (R284). Copy engine writes bytes to another device. -/
  | cpPut (tag : Half) (sf ff : Bool) (dev : BitVec 21) (raddr laddr : Dword) (len : Word)
  /-- `CP_GET` (R284). Copy engine reads bytes from another device. -/
  | cpGet (tag : Half) (sf ff : Bool) (dev : BitVec 21) (raddr laddr : Dword) (len : Word)
  /-- `CP_AMO` (R285). Copy engine performs an atomic on another device. -/
  | cpAmo (tag : Half) (sf : Bool) (dev : BitVec 21) (raddr : Dword) (op lso : Word)
  /-- `CP_IST` (R286). Copy engine writes a core's instruction store in 64-byte units. -/
  | cpIst (tag : Half) (core : BitVec 11) (src : Dword) (iso len : Word)
  /-- `CP_FRAME` (R287). Copy engine fetches frame rows by logical position and stamp. -/
  | cpFrame (tag : Half) (slot : BitVec 6) (layer : Byte) (part : BitVec 2) (pos cnt : Word) (stamp : BitVec 48) (mode : BitVec 2) (dst st : Word)
  /-- `QUEUE_ENTRY` (R158). A push that waited for a full engine queue enters it when an entry frees. -/
  | queueEntry (core : Nat) (e : Engine)
  /-- `COMMAND_COMPLETION` (R159). An engine command completes and gives its completion word to the pushing thread. -/
  | commandCompletion (core : Nat) (e : Engine)
  /-- `MEMORY_RETURN` (R72). A load's data returns, is written through a return slot, and clears the thread's wait. -/
  | memoryReturn (w : Who) (r : Option MemReply)
  /-- `STREAM_ELEMENT_ARRIVAL` (R214). A read-ahead element of a bound input stream arrives. -/
  | streamElementArrival (core gen : Nat)
  /-- `WINDOW_ACCESS` (R269). A waiting cluster-window access is performed when its word state is met and a port is free. -/
  | windowAccess (w : Who)
  /-- `SFU_RESULT` (R135). A special-function request's result is written and its thread becomes eligible. -/
  | sfuResult (w : Who)
  /-- `SFU_DISCARD_BLOCK_END` (R136). The 12-cycle block that follows a discarded SFU request ends. -/
  | sfuDiscardBlockEnd (core : Nat)
  /-- `WCB_DRAIN_TIMEOUT` (R216). A write-combining line is drained 256 cycles after its first store. -/
  | wcbDrainTimeout (w : Who) (line : Nat)
  /-- `AGENT_ANSWER` (R327). An answer from a home bank, barrier unit, arbiter or sequencer is written and the waiting thread resumes. -/
  | agentAnswer (w : Who)
  /-- `HOST_WINDOW_WRITE` (R289). A host's 64-byte posted write to a host message window becomes a message or is dropped. -/
  | hostWindowWrite (part len : Nat) (data : BitVec 512)
  /-- `MESSAGE_ARRIVAL` (R295). A message reaches a class and is deposited into bound registers or held. -/
  | messageArrival (m : Msg)
  /-- `HELD_MESSAGE_DEPOSIT` (R295). A re-armed class deposits its oldest held message. -/
  | heldMessageDeposit (core cls : Nat)
  /-- `LAUNCH_MESSAGE` (R290). A message to class 15 makes the dispatcher read the named task record. -/
  | launchMessage (core : Nat) (addr : Dword)
  /-- `LAUNCH_RECORD_PLACE` (R290). The record that was read is placed on the deque or on the fixed list. -/
  | launchRecordPlace (core : Nat) (r : RecCopy)
  /-- `TASK_DISPATCH` (R293). The core takes a fitting record, validates it and starts fetching its footprint. -/
  | taskDispatch (core : Nat)
  /-- `FOOTPRINT_FETCH_DONE` (R293). The footprint fetch ends and the threads start, or it faults and the record becomes fault-pending. -/
  | footprintFetchDone (core gid : Nat)
  /-- `STEAL_REQUEST` (R294). An idle core asks a victim for a fitting record. -/
  | stealRequest (core : Nat)
  /-- `STEAL_BACKOFF_END` (R294). The 1,024-cycle wait after refusals from every victim ends. -/
  | stealBackoffEnd (core : Nat)
  /-- `SUCCESSOR_START` (R300). A successor named by retire.s starts once its conditions hold. -/
  | successorStart (core gid : Nat)
  /-- `TASK_COMMIT` (R224). The die's commit arbiter commits the next task at a commit point. -/
  | taskCommit (die : Nat)
  /-- `HELD_EFFECT_SEND` (R229). A held effect of a committed task leaves the core's queue of held effects. -/
  | heldEffectSend (core : Nat)
  /-- `DIRECT_WRITE` (R226). A write reaches a line's home outside task commit and aborts its non-secure holders. -/
  | directWrite (d : DWrite)
  /-- `RESERVATION_GRANT` (R235). The home bank forwards a reserved word to the new holder at the head of the queue. -/
  | reservationGrant (word : Nat)
  /-- `RESERVATION_REVOKE` (R235). A reservation held 4,096 cycles is revoked and passed to the next waiter. -/
  | reservationRevoke (word : Nat)
  /-- `ROUND_OPEN_ARRIVAL` (R197). A det.open reaches the home bank and creates or joins a round. -/
  | roundOpenArrival (r : RoundMsg)
  /-- `ROUND_UPDATE_ARRIVAL` (R200). An ordered-round update reaches the bank and is applied, held or refused. -/
  | roundUpdateArrival (r : RoundMsg)
  /-- `ROUND_DONE_ARRIVAL` (R198). A det.done reaches the bank and records the issuer as done. -/
  | roundDoneArrival (r : RoundMsg)
  /-- `ROUND_UPDATE_RESEND` (R200). A refused update is sent again 64 cycles later. -/
  | roundUpdateResend (r : RoundMsg)
  /-- `HELD_UPDATE_APPLY` (R200). A held update of the expected issuer is applied from the buffer. -/
  | heldUpdateApply (line : Nat)
  /-- `BARRIER_ARRIVAL` (R297). Arrivals reach the barrier unit and are counted. -/
  | barrierArrival (cluster bar : Nat) (w : Who)
  /-- `BARRIER_WAIT_ARRIVAL` (R297). A bar.wait with no recorded arrival reaches the unit and binds to the phase in progress. -/
  | barrierWaitArrival (cluster bar : Nat) (w : Who)
  /-- `BARRIER_WAKE` (R297). Waiters become eligible 20 cycles after a phase completes. -/
  | barrierWake (cluster bar phase : Nat)
  /-- `REDUCTION_ROUND_COMPLETE` (R298). The reduction tree's total is delivered to the root once every participant has sent. -/
  | reductionRoundComplete (die : Nat)
  /-- `DIRECTORY_READ` (R240). The home directory handles a read request from another die. -/
  | directoryRead (r : DirReq)
  /-- `DIRECTORY_OWNERSHIP` (R240). The home directory handles an ownership request, invalidating other copies. -/
  | directoryOwnership (r : DirReq)
  /-- `FORWARD_REQUEST` (R242). A die holding E, M or O receives a forward request and sends data or answers no data. -/
  | forwardRequest (die line : Nat)
  /-- `INVALIDATION` (R241). A die receives an invalidation, drops the line from its L1s and acknowledges. -/
  | invalidation (die line : Nat)
  /-- `OWNERSHIP_GRANT` (R241). A grant reaches a die and its pending data becomes the M copy. -/
  | ownershipGrant (die line : Nat)
  /-- `WRITE_BACK` (R240). An evicted M or O die copy is written back to its home. -/
  | writeBack (die : Nat) (lw : LineWrite)
  /-- `REPLICATION_EPOCH_END` (R246). At the end of an epoch, each adaptive region's degree rises or falls. -/
  | replicationEpochEnd (die : Nat)
  /-- `REMOTE_ACCESS` (R251). A remote put, get or atomic is performed at the target device's homes. -/
  | remoteAccess (a : RemoteOp)
  /-- `HOST_WRITE` (R252). A host store reaches device memory as a direct write in posted order. -/
  | hostWrite (part : Nat) (addr : Nat) (bytes : List Byte)
  /-- `HOST_READ` (R372). A host read through a BAR is served, or completes as an unsupported request. -/
  | hostRead (part : Nat) (addr len : Nat)
  /-- `INSTRUCTION_STORE_WRITE` (R259). A 64-byte unit of an instruction store is written whole by a loader. -/
  | instructionStoreWrite (core unit : Nat) (data : BitVec 512)
  /-- `IST_INV_ARRIVAL` (R378). The ordering message reaches the target core, which discards its fetched halfwords. -/
  | istInvArrival (core : Nat) (w : Who)
  /-- `TLB_INV_ARRIVAL` (R377). A removal reaches a TLB, which drops the entries and acknowledges. -/
  | tlbInvArrival (m : TlbInvMsg)
  /-- `PAGE_WALK` (R370). A TLB miss starts a two-stage walk in a die walker. -/
  | pageWalk (die : Nat)
  /-- `WALK_READ_RETURN` (R406). A table entry read by a walker returns, and the walk continues, completes or faults. -/
  | walkReadReturn (die walker : Nat)
  /-- `EDIT_APPLY` (R313). The home sequencer applies an edit, takes a stamp and starts its wave. -/
  | editApply (e : EditReq)
  /-- `WINDOW_ASSEMBLY` (R318). The sequencer assembles a record's input window once both input frames are settled. -/
  | windowAssembly (p : PlaceId)
  /-- `RECORD_PUSH` (R318). The sequencer pushes a dispatchable recompute record to its core's deque. -/
  | recordPush (p : PlaceId)
  /-- `COMMIT_NOTICE` (R318). The arbiter tells the sequencer of a context, numbered 4,096 × die + descriptor place, which
  record committed and which successor it named. -/
  | commitNotice (ctx : Nat) (recAddr : Dword) (succ : Option Dword)
  /-- `DMAP_REPORT` (R319). A report reaches the sequencer, commits or skips a version and updates the maps. -/
  | dmapReport (r : ReportMsg)
  /-- `GANG_FORMATION` (R152). All members have arrived and the gang forms. -/
  | gangFormation (leader : Who)
  /-- `FORWARDED_INSTRUCTION_ARRIVAL` (R153). A leader instruction reaches a member's forwarding queue. -/
  | forwardedInstructionArrival (w : Who) (f : FwdInstr)
  /-- `GANG_TRAP_NOTICE` (R157). The leader learns of a member's trap, forwarding stops and the gang disbands. -/
  | gangTrapNotice (leader : Who) (member : Nat) (cause : Nat)
  /-- `DEADLOCK_WALK` (R307). A lantern core walks the wait-for table every 1,900,000 cycles. -/
  | deadlockWalk
  /-- `DETACHED_CAUSE_START` (R385). A queued detached cause starts a handler thread when the core has a free slot. -/
  | detachedCauseStart (core : Nat)
  /-- `HYPERVISOR_EVENT` (R386). An H-level event message reaches the lantern cores. -/
  | hypervisorEvent (e : HEvent)
  /-- `HCALL_REPLY` (R392). The hypervisor's reply writes the status and result of an hcall. -/
  | hcallReply (w : Who) (status result : Dword)
  /-- `HYPERVISOR_PREEMPT` (R395). The hypervisor pre-empts a task-mode group, which aborts to the head of its deque. -/
  | hypervisorPreempt (w : Who)
  /-- `DEVICE_RESET` (R360). After reset, lantern core 0 runs the boot ROM. -/
  | deviceReset
  /-- `BOOT_START_WRITE` (R360). The host writes 1 to the start register and boot verifies and starts the hypervisor. -/
  | bootStartWrite (p : ProvRecord)
  /-- `STAGING_RELEASE_WRITE` (R360). The host writes 0 to the start register and the staging region is scrubbed. -/
  | stagingReleaseWrite
  /-- `PARTITION_START` (R363). The hypervisor verifies, scrubs, loads and starts a partition's system image. -/
  | partitionStart (p : PartSpec)
  /-- `PARTITION_CORE_ENTRY_WRITE` (R366). A write to a core entry of the partition control page sets repl, rot and space. -/
  | partitionCoreEntryWrite (part core : Nat) (v : Dword)
  /-- `SPACE_ENTRY_WRITE` (R366). A write to a space entry sets quota, root and validity. -/
  | spaceEntryWrite (part space : Nat) (v : Dword)
  /-- `DETSET_WRITE` (R366). A write to detp or detset changes deterministic placement once no fixed list holds a record. -/
  | detsetWrite (part idx : Nat) (v : Dword)
  /-- `REDUCTION_ENTRY_WRITE` (R366). A write to rpart, rroot or rparent reconfigures the reduction tree between rounds. -/
  | reductionEntryWrite (part core : Nat) (v : Dword)
  /-- `REGISTER_WRITE` (R366). A write to a control register that has no row of its own. -/
  | registerWrite (part off : Nat) (v : Dword)
  /-- `POWER_TOLERANCE_WRITE` (R399). The host writes the latency tolerance that bounds which power states may be entered. -/
  | powerToleranceWrite (v : Word)
  /-- `CORE_CLOCK_GATE` (R399). A core idle for 64 cycles enters the clock-gated state. -/
  | coreClockGate (core : Nat)
  /-- `CORE_WAKE` (R399). A deposit, launch, wake or completion wakes a clock-gated core. -/
  | coreWake (core : Nat)
  /-- `DIE_RETENTION_ENTRY` (R399). A die whose cores have been gated for 1,900 cycles enters retention. -/
  | dieRetentionEntry (die : Nat)
  /-- `DIE_WAKE` (R399). An access or wake brings a die out of retention. -/
  | dieWake (die : Nat)
  /-- `PARTITION_POWER_OFF` (R399). An idle partition powers off at hcall function 4. -/
  | partitionPowerOff (part : Nat)
  /-- `PARTITION_WAKE` (R399). A host window write or Beacon message wakes a partition that is off, restarting its image. -/
  | partitionWake (part : Nat)
  /-- `HBM_REFRESH` (R306). An HBM bank is refreshed. -/
  | hbmRefresh (die bank : Nat)
  /-- `SRAM_ECC_SCRUB` (R306). The ECC scrub of on-chip SRAM advances. -/
  | sramEccScrub (die : Nat)
  /-- `HBM_PATROL_SCRUB` (R306). The HBM patrol scrub advances. -/
  | hbmPatrolScrub (die : Nat)
  /-- `TELEMETRY_SAMPLE` (R306). Telemetry counters are sampled. -/
  | telemetrySample (die : Nat)
  /-- `UNCORRECTABLE_ERROR` (R396). A detected uncorrectable error or CRC failure is retried once. -/
  | uncorrectableError (e : ErrLoc)
  /-- `RETRY_RESULT` (R397). A retry succeeds as a transient error or fails as a lasting error that poisons or raises a cause. -/
  | retryResult (e : ErrLoc) (ok : Bool)
  /-- `STEAL_REPLY` (R294). A victim's grant or refusal reaches the thief, which dispatches the granted record or tries the next victim. -/
  | stealReply (core : Nat) (r : Option RecCopy)
  /-- `HYPERVISOR_RESUME` (R386). The hypervisor resumes or ends a thread stopped by an H-level cause, or clears or drops its fault-pending record. -/
  | hypervisorResume (w : Who) (act : HAction)
  /-- `PARTITION_END` (R397). The hypervisor ends a partition, for example after a lasting die-to-die link error, and the ending is logged. -/
  | partitionEnd (part : Nat)
  /-- `POWER_LOSS` (R398). Loss of device power destroys all state, including the keeper's log in retention SRAM. -/
  | powerLoss
  deriving DecidableEq, Repr

end Sys2Proof
end

