-- ==== Sys2Proof/WellFormed.lean ====
section
/-!
DEFINITION. Which instructions the encoding admits: the limits on a field that a reserved value, a type the
entry does not accept or a forbidden register number breaks, each of which raises RESERVED_FIELD at decode
(R80, R82, R84, R86 check 2). Every other field may hold any value.
-/
namespace Sys2Proof

/-- The integer lane types i8 to z64 (codes 0 to 7) and i4, z4 (R82). -/
def LaneT.isInt : LaneT → Bool
  | .i8 | .i16 | .i32 | .i64 | .z8 | .z16 | .z32 | .z64 | .i4 | .z4 => true
  | .f16 | .bf16 | .f32 | .e8m10 | .c8 => false

/-- Codes 0 to 7 of R82: the integer types of at least 8 bits, which compares and reductions accept (R143, R145). -/
def LaneT.isInt8 : LaneT → Bool
  | .i8 | .i16 | .i32 | .i64 | .z8 | .z16 | .z32 | .z64 => true
  | .f16 | .bf16 | .f32 | .e8m10 | .c8 | .i4 | .z4 => false

/-- The signed integer types. -/
def LaneT.isSigned : LaneT → Bool
  | .i8 | .i16 | .i32 | .i64 | .i4 => true
  | .z8 | .z16 | .z32 | .z64 | .f16 | .bf16 | .f32 | .e8m10 | .c8 | .z4 => false

/-- Codes 8 to 11 of R82: the floating-point types that arithmetic accepts (R142). -/
def LaneT.isFloat : LaneT → Bool
  | .f16 | .bf16 | .f32 | .e8m10 => true
  | .i8 | .i16 | .i32 | .i64 | .z8 | .z16 | .z32 | .z64 | .c8 | .i4 | .z4 => false

/-- The types a `cvt` converts between (R84). -/
def LaneT.isCvt : LaneT → Bool
  | .i32 | .i64 | .f16 | .bf16 | .f32 | .e8m10 | .c8 => true
  | .i8 | .i16 | .z8 | .z16 | .z32 | .z64 | .i4 | .z4 => false

/-- Members of the two container groups of `wcvt` (R146): 1 for {i16, z16, f16, bf16}, 2 for {i32, z32, f32,
e8m10}, 0 for none. -/
def LaneT.wcvtGroup : LaneT → Nat
  | .i16 | .z16 | .f16 | .bf16 => 1
  | .i32 | .z32 | .f32 | .e8m10 => 2
  | .i8 | .i64 | .z8 | .z64 | .c8 | .i4 | .z4 => 0

/-- The narrow types of `wnarrow` and `wwiden` (R146). -/
def LaneT.isNarrow : LaneT → Bool
  | .i4 | .z4 | .i8 | .z8 | .i16 | .z16 | .i32 | .z32 | .f16 | .bf16 => true
  | .i64 | .z64 | .f32 | .e8m10 | .c8 => false

/-- The byte groups a `wdec` of a type can name: 64 divided by the lane count (R146). -/
def LaneT.decGroups : LaneT → Nat
  | .f32 | .e8m10 => 4
  | .f16 | .bf16 => 2
  | .i8 | .i16 | .i32 | .i64 | .z8 | .z16 | .z32 | .z64 | .c8 | .i4 | .z4 => 0

/-- Whether the encoding admits an instruction: R137 to R147 for the lane types, R84 for `cvt`, R152 for `gang.form`,
R278 for the generators, R347 for `red.send`, R392 for `hcall`, R352 and R262 for the contexts, R336 for `msg.bind`.
Engine commands are judged when they begin (R160), and a step of the machine has no encoding. -/
def Instr.wf : Instr → Bool
  | .add _ _ _ => true
  | .sub _ _ _ => true
  | .and _ _ _ => true
  | .or _ _ _ => true
  | .xor _ _ _ => true
  | .andn _ _ _ => true
  | .orn _ _ _ => true
  | .xnor _ _ _ => true
  | .sll _ _ _ => true
  | .srl _ _ _ => true
  | .sra _ _ _ => true
  | .rol _ _ _ => true
  | .ror _ _ _ => true
  | .seq _ _ _ => true
  | .slt _ _ _ => true
  | .sltZ _ _ _ => true
  | .min _ _ _ => true
  | .max _ _ _ => true
  | .minZ _ _ _ => true
  | .maxZ _ _ _ => true
  | .mul _ _ _ => true
  | .mulh _ _ _ => true
  | .mulhZ _ _ _ => true
  | .div _ _ _ => true
  | .divZ _ _ _ => true
  | .rem _ _ _ => true
  | .remZ _ _ _ => true
  | .clz _ _ => true
  | .ctz _ _ => true
  | .popc _ _ => true
  | .bswap _ _ => true
  | .csel _ _ _ => true
  | .addi _ _ _ => true
  | .andi _ _ _ => true
  | .ori _ _ _ => true
  | .xori _ _ _ => true
  | .slli _ _ _ => true
  | .srli _ _ _ => true
  | .srai _ _ _ => true
  | .roli _ _ _ => true
  | .slti _ _ _ => true
  | .sltiZ _ _ _ => true
  | .lui _ _ => true
  | .lhi _ _ => true
  | .addpc _ _ => true
  | .jal _ _ => true
  | .jalr _ _ _ => true
  | .beq _ _ _ => true
  | .bne _ _ _ => true
  | .blt _ _ _ => true
  | .bge _ _ _ => true
  | .bltZ _ _ _ => true
  | .bgeZ _ _ _ => true
  | .ldB _ _ _ => true
  | .ldH _ _ _ => true
  | .ldW _ _ _ => true
  | .ldD _ _ _ => true
  | .ldBZ _ _ _ => true
  | .ldHZ _ _ _ => true
  | .ldWZ _ _ _ => true
  | .stB _ _ _ => true
  | .stH _ _ _ => true
  | .stW _ _ _ => true
  | .stD _ _ _ => true
  | .ldp _ _ _ => true
  | .stp _ _ _ => true
  | .ldC _ _ _ => true
  | .ldSync _ _ => true
  | .ldTake _ _ => true
  | .stFill _ _ => true
  | .stWfill _ _ => true
  | .feClr _ => true
  | .feSet _ => true
  | .lrw _ _ => true
  | .scq _ _ _ => true
  | .rsvDrop _ => true
  | .amoAdd _ _ _ => true
  | .amoAnd _ _ _ => true
  | .amoOr _ _ _ => true
  | .amoXor _ _ _ => true
  | .amoMin _ _ _ => true
  | .amoMax _ _ _ => true
  | .amoMinZ _ _ _ => true
  | .amoMaxZ _ _ _ => true
  | .amoSwp _ _ _ => true
  | .amoCas _ _ _ => true
  | .amoFadd _ _ _ => true
  | .detOpen _ _ => true
  | .detDone _ => true
  | .fence _ => true
  | .acq _ => true
  | .rel _ => true
  | .fenceC _ => true
  | .lockL _ _ => true
  | .unlockL _ => true
  | .bind d _ _ => d != 0
  | .unbind _ => true
  | .agSet _ _ => true
  | .agGet _ _ b => decide (b.toNat ≤ 10)
  | .fadd _ _ _ => true
  | .fsub _ _ _ => true
  | .fmul _ _ _ => true
  | .fdiv _ _ _ => true
  | .fsqrt _ _ => true
  | .fmin _ _ _ => true
  | .fmax _ _ _ => true
  | .feq _ _ _ => true
  | .flt _ _ _ => true
  | .fle _ _ _ => true
  | .fclass _ _ => true
  | .fabs _ _ => true
  | .fneg _ _ => true
  | .fsgnj _ _ _ => true
  | .fmadd _ _ _ => true
  | .fmsub _ _ _ => true
  | .fnmadd _ _ _ => true
  | .fnmsub _ _ _ => true
  | .cvt _ _ _ dt st => dt.isCvt && st.isCvt && dt != st
  | .exp2 _ _ => true
  | .log2 _ _ => true
  | .rcp _ _ => true
  | .rsqrt _ _ => true
  | .sin _ _ => true
  | .cos _ _ => true
  | .sint _ _ => true
  | .cost _ _ => true
  | .tanh _ _ => true
  | .sigm _ _ => true
  | .erf _ _ => true
  | .wadd _ _ _ _ t => t.isInt
  | .wsub _ _ _ _ t => t.isInt
  | .wmul _ _ _ _ t => t.isInt
  | .wmulh _ _ _ _ t => t.isInt
  | .wmin _ _ _ _ t => t.isInt
  | .wmax _ _ _ _ t => t.isInt
  | .wabs _ _ _ t => t.isSigned
  | .wavg _ _ _ _ t => t.isInt
  | .wsll _ _ _ _ t => t.isInt
  | .wsrl _ _ _ _ t => t.isInt
  | .wsra _ _ _ _ t => t.isInt
  | .wand _ _ _ _ t => t.isInt
  | .wor _ _ _ _ t => t.isInt
  | .wxor _ _ _ _ t => t.isInt
  | .wandn _ _ _ _ t => t.isInt
  | .wadds _ _ _ _ t => t.isInt
  | .wfadd _ _ _ _ t => t.isFloat
  | .wfsub _ _ _ _ t => t.isFloat
  | .wfmul _ _ _ _ t => t.isFloat
  | .wfma _ _ _ _ t => t.isFloat
  | .wfmin _ _ _ _ t => t.isFloat
  | .wfmax _ _ _ _ t => t.isFloat
  | .wfabs _ _ _ t => t.isFloat
  | .wfneg _ _ _ t => t.isFloat
  | .wcmpeq _ _ _ _ t => t.isInt8
  | .wcmplt _ _ _ _ t => t.isInt8
  | .wcmple _ _ _ _ t => t.isInt8
  | .wfcmpeq _ _ _ _ t => t.isFloat
  | .wfcmplt _ _ _ _ t => t.isFloat
  | .wfcmple _ _ _ _ t => t.isFloat
  | .kand _ _ _ => true
  | .kor _ _ _ => true
  | .kxor _ _ _ => true
  | .knot _ _ => true
  | .kpop _ _ => true
  | .wbcast _ _ _ _ => true
  | .wins _ _ _ _ => true
  | .wext _ _ _ _ => true
  | .wshuf _ _ _ _ t => t != .i4 && t != .z4
  | .wrot _ _ _ _ _ => true
  | .wzip _ _ _ _ _ => true
  | .wunzip _ _ _ _ => true
  | .wsel _ _ _ _ _ => true
  | .wrsum _ _ _ t => t.isInt8
  | .wrmin _ _ _ t => t.isInt8
  | .wrmax _ _ _ t => t.isInt8
  | .wrfsum _ _ _ t => t.isFloat
  | .wrfmin _ _ _ t => t.isFloat
  | .wrfmax _ _ _ t => t.isFloat
  | .wcvt _ _ s _ t => s != t && s.wcvtGroup != 0 && s.wcvtGroup == t.wcvtGroup
  | .wnarrow _ _ _ _ t => t.isNarrow
  | .wwiden _ _ h _ t => t.isNarrow && decide (h.toNat < 2)
  | .wenc _ _ t => t.isFloat
  | .wdec _ _ g t => decide (g.toNat < t.decGroups)
  | .wld _ _ _ => true
  | .wst _ _ _ => true
  | .wldSync _ _ _ => true
  | .wstFill _ _ _ => true
  | .gangForm _ n => n != 0
  | .gangEnd => true
  | .gangBar => true
  | .push _ _ _ => true
  | .pushm _ _ _ => true
  | .engWait _ _ => true
  | .engPoll _ _ => true
  | .tcfgSet _ _ => true
  | .tcfgGet _ _ => true
  | .accLoad _ _ => true
  | .msgSend _ _ => true
  | .msgSendw _ _ => true
  | .msgBind d m n _ => d != 0 || (m == false && n == 0)
  | .msgWait _ => true
  | .taskPush _ => true
  | .taskSend _ _ => true
  | .retire => true
  | .retireS _ _ => true
  | .taskAbort => true
  | .tstamp _ => true
  | .detList _ _ => true
  | .detWait _ _ => true
  | .thrSpawn _ _ => true
  | .thrExit => true
  | .thrPark => true
  | .thrWake _ => true
  | .barInit _ _ => true
  | .barArr _ => true
  | .barWait _ => true
  | .barAw _ => true
  | .redSend _ _ p => p != 3
  | .redRecv _ => true
  | .nestSet _ _ => true
  | .nestClaim _ _ => true
  | .nestNext _ => true
  | .nestEnd _ => true
  | .ctxOpen d _ => d != 0
  | .ctxClose _ => true
  | .editIns _ _ _ => true
  | .editDel _ _ => true
  | .editChg _ _ _ => true
  | .ctxFork d _ _ => d != 0
  | .ctxRope _ _ _ => true
  | .dmapGet _ _ => true
  | .dmapMov _ _ => true
  | .settle _ _ => true
  | .ctxRd d _ _ => d != 0
  | .ctxRel _ => true
  | .beamMap _ _ => true
  | .ptbFill _ _ => true
  | .ptbInv _ => true
  | .posXl _ _ _ => true
  | .mfs _ _ => true
  | .mts _ _ => true
  | .trap _ => true
  | .hret => true
  | .tret => true
  | .hcall d _ => d != 0
  | .nop => true
  | .wfe => true
  | .tlbInv _ _ => true
  | .tlbAll _ => true
  | .tlbAllPart => true
  | .istInv _ => true
  | .klog _ _ => true
  | .tsave _ _ => true
  | .trest _ _ => true
  | .cMv _ _ => true
  | .cAdd _ _ => true
  | .cSub _ _ => true
  | .cAddi _ _ => true
  | .cLi _ _ => true
  | .cLdW _ _ _ => true
  | .cLdD _ _ _ => true
  | .cStW _ _ _ => true
  | .cStD _ _ _ => true
  | .cAnd _ _ => true
  | .cSll _ _ => true
  | .cBeqz _ _ => true
  | .cBnez _ _ => true
  | .cJ _ => true
  | .cRet _ => true
  | .cNop => true
  | .mxMma _ _ _ _ _ _ _ _ _ _ _ _ => true
  | .mxLdb _ _ _ _ => true
  | .mxLdt _ _ _ _ _ _ _ => true
  | .mxStt _ _ _ _ _ _ _ _ _ _ _ => true
  | .mxZero _ _ => true
  | .mxQk _ _ _ => true
  | .mxPv _ _ _ _ => true
  | .vxMap _ _ _ => true
  | .vxFma _ _ _ => true
  | .vxRed _ _ _ => true
  | .vxExpsum _ _ _ => true
  | .vxNorm _ _ _ => true
  | .vxRequant _ _ _ => true
  | .vxCmpst _ _ _ _ _ _ _ => true
  | .vxTopk _ _ _ => true
  | .vxKsum _ _ _ => true
  | .vxCvt _ _ _ => true
  | .cpCopy _ _ _ _ _ _ _ _ => true
  | .cpGather _ _ _ _ _ _ _ _ _ => true
  | .cpScatter _ _ _ _ _ _ _ _ _ => true
  | .cpFill _ _ _ _ _ _ => true
  | .cpPut _ _ _ _ _ _ _ => true
  | .cpGet _ _ _ _ _ _ _ => true
  | .cpAmo _ _ _ _ _ _ => true
  | .cpIst _ _ _ _ _ => true
  | .cpFrame _ _ _ _ _ _ _ _ _ _ => true
  | .queueEntry _ _ => true
  | .commandCompletion _ _ => true
  | .memoryReturn _ _ => true
  | .streamElementArrival _ _ => true
  | .windowAccess _ => true
  | .sfuResult _ => true
  | .sfuDiscardBlockEnd _ => true
  | .wcbDrainTimeout _ _ => true
  | .agentAnswer _ => true
  | .hostWindowWrite _ _ _ => true
  | .messageArrival _ => true
  | .heldMessageDeposit _ _ => true
  | .launchMessage _ _ => true
  | .launchRecordPlace _ _ => true
  | .taskDispatch _ => true
  | .footprintFetchDone _ _ => true
  | .stealRequest _ => true
  | .stealBackoffEnd _ => true
  | .successorStart _ _ => true
  | .taskCommit _ => true
  | .heldEffectSend _ => true
  | .directWrite _ => true
  | .reservationGrant _ => true
  | .reservationRevoke _ => true
  | .roundOpenArrival _ => true
  | .roundUpdateArrival _ => true
  | .roundDoneArrival _ => true
  | .roundUpdateResend _ => true
  | .heldUpdateApply _ => true
  | .barrierArrival _ _ _ => true
  | .barrierWaitArrival _ _ _ => true
  | .barrierWake _ _ _ => true
  | .reductionRoundComplete _ => true
  | .directoryRead _ => true
  | .directoryOwnership _ => true
  | .forwardRequest _ _ => true
  | .invalidation _ _ => true
  | .ownershipGrant _ _ => true
  | .writeBack _ _ => true
  | .replicationEpochEnd _ => true
  | .remoteAccess _ => true
  | .hostWrite _ _ _ => true
  | .hostRead _ _ _ => true
  | .instructionStoreWrite _ _ _ => true
  | .istInvArrival _ _ => true
  | .tlbInvArrival _ => true
  | .pageWalk _ => true
  | .walkReadReturn _ _ => true
  | .editApply _ => true
  | .windowAssembly _ => true
  | .recordPush _ => true
  | .commitNotice _ _ _ => true
  | .dmapReport _ => true
  | .gangFormation _ => true
  | .forwardedInstructionArrival _ _ => true
  | .gangTrapNotice _ _ _ => true
  | .deadlockWalk => true
  | .detachedCauseStart _ => true
  | .hypervisorEvent _ => true
  | .hcallReply _ _ _ => true
  | .hypervisorPreempt _ => true
  | .deviceReset => true
  | .bootStartWrite _ => true
  | .stagingReleaseWrite => true
  | .partitionStart _ => true
  | .partitionCoreEntryWrite _ _ _ => true
  | .spaceEntryWrite _ _ _ => true
  | .detsetWrite _ _ _ => true
  | .reductionEntryWrite _ _ _ => true
  | .registerWrite _ _ _ => true
  | .powerToleranceWrite _ => true
  | .coreClockGate _ => true
  | .coreWake _ => true
  | .dieRetentionEntry _ => true
  | .dieWake _ => true
  | .partitionPowerOff _ => true
  | .partitionWake _ => true
  | .hbmRefresh _ _ => true
  | .sramEccScrub _ => true
  | .hbmPatrolScrub _ => true
  | .telemetrySample _ => true
  | .uncorrectableError _ => true
  | .retryResult _ _ => true
  | .stealReply _ _ => true
  | .hypervisorResume _ _ => true
  | .partitionEnd _ => true
  | .powerLoss => true

/-- An instruction is well formed when its encoding admits it. -/
abbrev WellFormed (i : Instr) : Prop := i.wf = true

end Sys2Proof
end

