-- ==== Sys2Proof/Decode.lean ====
section
/-!
DEFINITION. The decoder and, after it, the encoder, both written from the formats and the opcode map of the spec
(R78 to R89). Decoding is total: a pattern that no instruction claims is refused as ILLEGAL_OPCODE or
RESERVED_FIELD, in the order of R86. The 32-bit instruction is the value whose bits `[31:16]` are its first
halfword (R78).
-/
namespace Sys2Proof

/-- Why a pattern is no instruction: checks 1 and 2 of R86. -/
inductive DecErr where
  | illegal | reserved
  deriving DecidableEq, Repr

/-- The lane-type codes of R82. -/
def LaneT.code : LaneT → Nat
  | .i8 => 0
  | .i16 => 1
  | .i32 => 2
  | .i64 => 3
  | .z8 => 4
  | .z16 => 5
  | .z32 => 6
  | .z64 => 7
  | .f16 => 8
  | .bf16 => 9
  | .f32 => 10
  | .e8m10 => 11
  | .c8 => 12
  | .i4 => 13
  | .z4 => 14

/-- The lane type of a code. Code 15 is reserved (R82). -/
def laneOf (x : BitVec 4) : Option LaneT :=
  match x.toNat with
  | 0 => some .i8
  | 1 => some .i16
  | 2 => some .i32
  | 3 => some .i64
  | 4 => some .z8
  | 5 => some .z16
  | 6 => some .z32
  | 7 => some .z64
  | 8 => some .f16
  | 9 => some .bf16
  | 10 => some .f32
  | 11 => some .e8m10
  | 12 => some .c8
  | 13 => some .i4
  | 14 => some .z4
  | _ => none

/-- The scope codes of R85. -/
def Scope.code : Scope → Nat
  | .th => 0
  | .core => 1
  | .clu => 2
  | .die => 3
  | .pkg => 4
  | .sys => 5

/-- The scope of a code. Codes 6 and 7 are reserved (R85). -/
def scopeOf (x : BitVec 3) : Option Scope :=
  match x.toNat with
  | 0 => some .th
  | 1 => some .core
  | 2 => some .clu
  | 3 => some .die
  | 4 => some .pkg
  | 5 => some .sys
  | _ => none

/-- The engine codes of R79. -/
def Engine.code : Engine → Nat
  | .mx => 1
  | .vx => 2
  | .cp => 3

/-- The engine of a code. Code 0 is reserved (R84). -/
def engineOf (x : BitVec 2) : Option Engine :=
  match x.toNat with
  | 1 => some .mx
  | 2 => some .vx
  | 3 => some .cp
  | _ => none

/-- The rounding codes of `cvt` (R84). -/
def Rnd.code : Rnd → Nat
  | .rne => 0
  | .rtz => 1
  | .rdn => 2
  | .rup => 3
  | .dyn => 4

/-- The rounding of a code. Codes 5 to 7 are reserved (R84). -/
def rndOf (x : BitVec 3) : Option Rnd :=
  match x.toNat with
  | 0 => some .rne
  | 1 => some .rtz
  | 2 => some .rdn
  | 3 => some .rup
  | 4 => some .dyn
  | _ => none

/-- The direction codes of `bind` (R278). -/
def Dir.code : Dir → Nat
  | .input => 0
  | .output => 1
  | .arrive => 2

/-- The direction of a b field. A value above 2 is reserved (R278). -/
def dirOf (x : BitVec 7) : Option Dir :=
  match x.toNat with
  | 0 => some .input
  | 1 => some .output
  | 2 => some .arrive
  | _ => none

/-- The sel numbers of the special registers (R67). -/
def Spr.code : Spr → Nat
  | .tid => 0
  | .core => 1
  | .clus => 2
  | .die => 3
  | .dev => 4
  | .gidx => 5
  | .gret => 6
  | .tstamp => 16
  | .lidx => 17
  | .detidx => 18
  | .prio => 19
  | .inh => 20
  | .fmtp => 32
  | .sclp => 33
  | .mpol => 34
  | .fmode => 35
  | .fflags => 36
  | .gbase => 48
  | .glim => 49
  | .mirmask => 50
  | .lvec => 51
  | .cause => 64
  | .tpc => 65
  | .tval => 66
  | .cyc => 80
  | .ix0 => 96
  | .ix1 => 97
  | .ix2 => 98

/-- The special register of a sel number. A number R67 does not list is reserved (R66). -/
def sprOf (x : BitVec 11) : Option Spr :=
  match x.toNat with
  | 0 => some .tid
  | 1 => some .core
  | 2 => some .clus
  | 3 => some .die
  | 4 => some .dev
  | 5 => some .gidx
  | 6 => some .gret
  | 16 => some .tstamp
  | 17 => some .lidx
  | 18 => some .detidx
  | 19 => some .prio
  | 20 => some .inh
  | 32 => some .fmtp
  | 33 => some .sclp
  | 34 => some .mpol
  | 35 => some .fmode
  | 36 => some .fflags
  | 48 => some .gbase
  | 49 => some .glim
  | 50 => some .mirmask
  | 51 => some .lvec
  | 64 => some .cause
  | 65 => some .tpc
  | 66 => some .tval
  | 80 => some .cyc
  | 96 => some .ix0
  | 97 => some .ix1
  | 98 => some .ix2
  | _ => none

/-- An address-generator number in a 7-bit field. A number above 7 is reserved (R278). -/
def genOf (x : BitVec 7) : Option (BitVec 3) := if x.toNat < 8 then some (x.extractLsb' 0 3) else none

/-- The field number of `ag.get` in its b field. A number above 10 is reserved (R278). -/
def agFieldOf (x : BitVec 7) : Option (BitVec 4) := if x.toNat ≤ 10 then some (x.extractLsb' 0 4) else none

/-- The d field (R79). -/
abbrev fD (w : BitVec 32) : BitVec 7 := w.extractLsb' 18 7
/-- The a field, or the base of formats M and X (R79). -/
abbrev fA (w : BitVec 32) : BitVec 7 := w.extractLsb' 11 7
/-- The b field of formats A and X (R79). -/
abbrev fB (w : BitVec 32) : BitVec 7 := w.extractLsb' 4 7
/-- imm11, offset11 or sel (R79). -/
abbrev fI11 (w : BitVec 32) : BitVec 11 := w.extractLsb' 0 11
/-- imm18 of format U (R79). -/
abbrev fI18 (w : BitVec 32) : BitVec 18 := w.extractLsb' 0 18
/-- imm8 of formats M and C (R79). -/
abbrev fI8 (w : BitVec 32) : BitVec 8 := w.extractLsb' 0 8
/-- wd of format W, or the wide register of format C (R79). -/
abbrev fW (w : BitVec 32) : BitVec 4 := w.extractLsb' 21 4
/-- wa of format W (R79). -/
abbrev fWa (w : BitVec 32) : BitVec 4 := w.extractLsb' 17 4
/-- wb of format W (R79). -/
abbrev fWb (w : BitVec 32) : BitVec 4 := w.extractLsb' 13 4
/-- k of format W (R79). -/
abbrev fK (w : BitVec 32) : BitVec 3 := w.extractLsb' 10 3

/-- The instruction, if the fields it leaves unused are zero (`z`, R80) and its encoding is admitted. -/
def need (z : Bool) (i : Instr) : Except DecErr Instr :=
  if z && i.wf then .ok i else .error .reserved

/-- As `need`, where a field with reserved values may name nothing. -/
def needO (z : Bool) (o : Option Instr) : Except DecErr Instr :=
  match o with
  | some i => need z i
  | none => .error .reserved

/-- Opcode 0x00 (R83). The function is bits `[3:0]` (R84). -/
def decodeOp00 (w : BitVec 32) : Except DecErr Instr :=
  match (w.extractLsb' 0 4).toNat with
  | 0 => need true (.add (fD w) (fA w) (fB w))
  | 1 => need true (.sub (fD w) (fA w) (fB w))
  | 2 => need true (.and (fD w) (fA w) (fB w))
  | 3 => need true (.or (fD w) (fA w) (fB w))
  | 4 => need true (.xor (fD w) (fA w) (fB w))
  | 5 => need true (.andn (fD w) (fA w) (fB w))
  | 6 => need true (.orn (fD w) (fA w) (fB w))
  | 7 => need true (.xnor (fD w) (fA w) (fB w))
  | 8 => need true (.sll (fD w) (fA w) (fB w))
  | 9 => need true (.srl (fD w) (fA w) (fB w))
  | 10 => need true (.sra (fD w) (fA w) (fB w))
  | 11 => need true (.rol (fD w) (fA w) (fB w))
  | 12 => need true (.ror (fD w) (fA w) (fB w))
  | 13 => need true (.seq (fD w) (fA w) (fB w))
  | 14 => need true (.slt (fD w) (fA w) (fB w))
  | 15 => need true (.sltZ (fD w) (fA w) (fB w))
  | _ => .error .illegal

/-- Opcode 0x01 (R83). The function is bits `[3:0]` (R84). -/
def decodeOp01 (w : BitVec 32) : Except DecErr Instr :=
  match (w.extractLsb' 0 4).toNat with
  | 0 => need true (.min (fD w) (fA w) (fB w))
  | 1 => need true (.max (fD w) (fA w) (fB w))
  | 2 => need true (.minZ (fD w) (fA w) (fB w))
  | 3 => need true (.maxZ (fD w) (fA w) (fB w))
  | 4 => need true (.mul (fD w) (fA w) (fB w))
  | 5 => need true (.mulh (fD w) (fA w) (fB w))
  | 6 => need true (.mulhZ (fD w) (fA w) (fB w))
  | 7 => need true (.div (fD w) (fA w) (fB w))
  | 8 => need true (.divZ (fD w) (fA w) (fB w))
  | 9 => need true (.rem (fD w) (fA w) (fB w))
  | 10 => need true (.remZ (fD w) (fA w) (fB w))
  | 11 => need (w.extractLsb' 4 7 == 0#7) (.clz (fD w) (fA w))
  | 12 => need (w.extractLsb' 4 7 == 0#7) (.ctz (fD w) (fA w))
  | 13 => need (w.extractLsb' 4 7 == 0#7) (.popc (fD w) (fA w))
  | 14 => need (w.extractLsb' 4 7 == 0#7) (.bswap (fD w) (fA w))
  | 15 => need true (.csel (fD w) (fA w) (fB w))
  | _ => .error .illegal

/-- Opcode 0x02 (R83). -/
def decodeOp02 (w : BitVec 32) : Except DecErr Instr :=
  need true (.addi (fD w) (fA w) (fI11 w))

/-- Opcode 0x03 (R83). -/
def decodeOp03 (w : BitVec 32) : Except DecErr Instr :=
  need true (.andi (fD w) (fA w) (fI11 w))

/-- Opcode 0x04 (R83). -/
def decodeOp04 (w : BitVec 32) : Except DecErr Instr :=
  need true (.ori (fD w) (fA w) (fI11 w))

/-- Opcode 0x05 (R83). -/
def decodeOp05 (w : BitVec 32) : Except DecErr Instr :=
  need true (.xori (fD w) (fA w) (fI11 w))

/-- Opcode 0x06 (R83). The function is bits `[7:6]` (R84). -/
def decodeOp06 (w : BitVec 32) : Except DecErr Instr :=
  match (w.extractLsb' 6 2).toNat with
  | 0 => need (w.extractLsb' 8 3 == 0#3) (.slli (fD w) (fA w) (w.extractLsb' 0 6))
  | 1 => need (w.extractLsb' 8 3 == 0#3) (.srli (fD w) (fA w) (w.extractLsb' 0 6))
  | 2 => need (w.extractLsb' 8 3 == 0#3) (.srai (fD w) (fA w) (w.extractLsb' 0 6))
  | _ => need (w.extractLsb' 8 3 == 0#3) (.roli (fD w) (fA w) (w.extractLsb' 0 6))

/-- Opcode 0x07 (R83). -/
def decodeOp07 (w : BitVec 32) : Except DecErr Instr :=
  need true (.slti (fD w) (fA w) (fI11 w))

/-- Opcode 0x08 (R83). -/
def decodeOp08 (w : BitVec 32) : Except DecErr Instr :=
  need true (.sltiZ (fD w) (fA w) (fI11 w))

/-- Opcode 0x09 (R83). -/
def decodeOp09 (w : BitVec 32) : Except DecErr Instr :=
  need true (.lui (fD w) (fI18 w))

/-- Opcode 0x0A (R83). -/
def decodeOp0A (w : BitVec 32) : Except DecErr Instr :=
  need true (.lhi (fD w) (fI18 w))

/-- Opcode 0x0B (R83). -/
def decodeOp0B (w : BitVec 32) : Except DecErr Instr :=
  need true (.addpc (fD w) (fI18 w))

/-- Opcode 0x0C (R83). -/
def decodeOp0C (w : BitVec 32) : Except DecErr Instr :=
  need true (.jal (fD w) (fI18 w))

/-- Opcode 0x0D (R83). -/
def decodeOp0D (w : BitVec 32) : Except DecErr Instr :=
  need true (.jalr (fD w) (fA w) (fI11 w))

/-- Opcode 0x0E (R83). -/
def decodeOp0E (w : BitVec 32) : Except DecErr Instr :=
  need true (.beq (fD w) (fA w) (fI11 w))

/-- Opcode 0x0F (R83). -/
def decodeOp0F (w : BitVec 32) : Except DecErr Instr :=
  need true (.bne (fD w) (fA w) (fI11 w))

/-- Opcode 0x10 (R83). -/
def decodeOp10 (w : BitVec 32) : Except DecErr Instr :=
  need true (.blt (fD w) (fA w) (fI11 w))

/-- Opcode 0x11 (R83). -/
def decodeOp11 (w : BitVec 32) : Except DecErr Instr :=
  need true (.bge (fD w) (fA w) (fI11 w))

/-- Opcode 0x12 (R83). -/
def decodeOp12 (w : BitVec 32) : Except DecErr Instr :=
  need true (.bltZ (fD w) (fA w) (fI11 w))

/-- Opcode 0x13 (R83). -/
def decodeOp13 (w : BitVec 32) : Except DecErr Instr :=
  need true (.bgeZ (fD w) (fA w) (fI11 w))

/-- Opcode 0x14 (R83). The function is bits `[10:8]` (R84). -/
def decodeOp14 (w : BitVec 32) : Except DecErr Instr :=
  match (w.extractLsb' 8 3).toNat with
  | 0 => need true (.ldB (fD w) (fA w) (fI8 w))
  | 1 => need true (.ldH (fD w) (fA w) (fI8 w))
  | 2 => need true (.ldW (fD w) (fA w) (fI8 w))
  | 3 => need true (.ldD (fD w) (fA w) (fI8 w))
  | 4 => need true (.ldBZ (fD w) (fA w) (fI8 w))
  | 5 => need true (.ldHZ (fD w) (fA w) (fI8 w))
  | 6 => need true (.ldWZ (fD w) (fA w) (fI8 w))
  | _ => .error .reserved

/-- Opcode 0x15 (R83). The function is bits `[10:8]` (R84). -/
def decodeOp15 (w : BitVec 32) : Except DecErr Instr :=
  match (w.extractLsb' 8 3).toNat with
  | 0 => need true (.stB (fD w) (fA w) (fI8 w))
  | 1 => need true (.stH (fD w) (fA w) (fI8 w))
  | 2 => need true (.stW (fD w) (fA w) (fI8 w))
  | 3 => need true (.stD (fD w) (fA w) (fI8 w))
  | _ => .error .reserved

/-- Opcode 0x16 (R83). The function is bits `[3:0]` (R84). -/
def decodeOp16 (w : BitVec 32) : Except DecErr Instr :=
  match (w.extractLsb' 0 4).toNat with
  | 0 => need true (.ldp (fD w) (fA w) (fB w))
  | 1 => need true (.stp (fD w) (fA w) (fB w))
  | 2 => need true (.ldC (fD w) (fA w) (fB w))
  | _ => .error .illegal

/-- Opcode 0x17 (R83). The function is bits `[3:0]` (R84). -/
def decodeOp17 (w : BitVec 32) : Except DecErr Instr :=
  match (w.extractLsb' 0 4).toNat with
  | 0 => need (w.extractLsb' 4 7 == 0#7) (.ldSync (fD w) (fA w))
  | 1 => need (w.extractLsb' 4 7 == 0#7) (.ldTake (fD w) (fA w))
  | 2 => need (w.extractLsb' 4 7 == 0#7) (.stFill (fD w) (fA w))
  | 3 => need (w.extractLsb' 4 7 == 0#7) (.stWfill (fD w) (fA w))
  | 4 => need (w.extractLsb' 18 7 == 0#7 && w.extractLsb' 4 7 == 0#7) (.feClr (fA w))
  | 5 => need (w.extractLsb' 18 7 == 0#7 && w.extractLsb' 4 7 == 0#7) (.feSet (fA w))
  | _ => .error .illegal

/-- Opcode 0x18 (R83). The function is bits `[3:0]` (R84). -/
def decodeOp18 (w : BitVec 32) : Except DecErr Instr :=
  match (w.extractLsb' 0 4).toNat with
  | 0 => need (w.extractLsb' 4 7 == 0#7) (.lrw (fD w) (fA w))
  | 1 => need true (.scq (fD w) (fA w) (fB w))
  | 2 => need (w.extractLsb' 18 7 == 0#7 && w.extractLsb' 4 7 == 0#7) (.rsvDrop (fA w))
  | 3 => need true (.amoAdd (fD w) (fA w) (fB w))
  | 4 => need true (.amoAnd (fD w) (fA w) (fB w))
  | 5 => need true (.amoOr (fD w) (fA w) (fB w))
  | 6 => need true (.amoXor (fD w) (fA w) (fB w))
  | 7 => need true (.amoMin (fD w) (fA w) (fB w))
  | 8 => need true (.amoMax (fD w) (fA w) (fB w))
  | 9 => need true (.amoMinZ (fD w) (fA w) (fB w))
  | 10 => need true (.amoMaxZ (fD w) (fA w) (fB w))
  | 11 => need true (.amoSwp (fD w) (fA w) (fB w))
  | 12 => need true (.amoCas (fD w) (fA w) (fB w))
  | 13 => need true (.amoFadd (fD w) (fA w) (fB w))
  | 14 => need (w.extractLsb' 18 7 == 0#7) (.detOpen (fA w) (fB w))
  | 15 => need (w.extractLsb' 18 7 == 0#7 && w.extractLsb' 4 7 == 0#7) (.detDone (fA w))
  | _ => .error .illegal

/-- Opcode 0x19 (R83). The function is bits `[10:8]` (R84). -/
def decodeOp19 (w : BitVec 32) : Except DecErr Instr :=
  match (w.extractLsb' 8 3).toNat with
  | 0 => needO (w.extractLsb' 11 14 == 0#14 && w.extractLsb' 3 5 == 0#5) ((scopeOf (w.extractLsb' 0 3)).bind fun c0 => some (.fence c0))
  | 1 => needO (w.extractLsb' 11 14 == 0#14 && w.extractLsb' 3 5 == 0#5) ((scopeOf (w.extractLsb' 0 3)).bind fun c0 => some (.acq c0))
  | 2 => needO (w.extractLsb' 11 14 == 0#14 && w.extractLsb' 3 5 == 0#5) ((scopeOf (w.extractLsb' 0 3)).bind fun c0 => some (.rel c0))
  | 3 => needO (w.extractLsb' 11 14 == 0#14 && w.extractLsb' 3 5 == 0#5) ((scopeOf (w.extractLsb' 0 3)).bind fun c0 => some (.fenceC c0))
  | _ => .error .illegal

/-- Opcode 0x1A (R83). The function is bits `[10:8]` (R84). -/
def decodeOp1A (w : BitVec 32) : Except DecErr Instr :=
  match (w.extractLsb' 8 3).toNat with
  | 0 => need (w.extractLsb' 0 8 == 0#8) (.lockL (fD w) (fA w))
  | 1 => need (w.extractLsb' 18 7 == 0#7 && w.extractLsb' 0 8 == 0#8) (.unlockL (fA w))
  | _ => .error .illegal

/-- Opcode 0x1B (R83). The function is bits `[3:0]` (R84). -/
def decodeOp1B (w : BitVec 32) : Except DecErr Instr :=
  match (w.extractLsb' 0 4).toNat with
  | 0 => needO true ((genOf (fA w)).bind fun n11 => (dirOf (fB w)).bind fun x4 => some (.bind (fD w) n11 x4))
  | 1 => needO (w.extractLsb' 18 7 == 0#7 && w.extractLsb' 4 7 == 0#7) ((genOf (fA w)).bind fun n11 => some (.unbind n11))
  | 2 => needO (w.extractLsb' 4 7 == 0#7) ((genOf (fD w)).bind fun n18 => some (.agSet n18 (fA w)))
  | 3 => needO true ((genOf (fA w)).bind fun n11 => (agFieldOf (fB w)).bind fun f4 => some (.agGet (fD w) n11 f4))
  | _ => .error .illegal

/-- Opcode 0x1C (R83). The function is bits `[3:0]` (R84). -/
def decodeOp1C (w : BitVec 32) : Except DecErr Instr :=
  match (w.extractLsb' 0 4).toNat with
  | 0 => need true (.fadd (fD w) (fA w) (fB w))
  | 1 => need true (.fsub (fD w) (fA w) (fB w))
  | 2 => need true (.fmul (fD w) (fA w) (fB w))
  | 3 => need true (.fdiv (fD w) (fA w) (fB w))
  | 4 => need (w.extractLsb' 4 7 == 0#7) (.fsqrt (fD w) (fA w))
  | 5 => need true (.fmin (fD w) (fA w) (fB w))
  | 6 => need true (.fmax (fD w) (fA w) (fB w))
  | 7 => need true (.feq (fD w) (fA w) (fB w))
  | 8 => need true (.flt (fD w) (fA w) (fB w))
  | 9 => need true (.fle (fD w) (fA w) (fB w))
  | 10 => need (w.extractLsb' 4 7 == 0#7) (.fclass (fD w) (fA w))
  | 11 => need (w.extractLsb' 4 7 == 0#7) (.fabs (fD w) (fA w))
  | 12 => need (w.extractLsb' 4 7 == 0#7) (.fneg (fD w) (fA w))
  | 13 => need true (.fsgnj (fD w) (fA w) (fB w))
  | _ => .error .illegal

/-- Opcode 0x1D (R83). The function is bits `[3:0]` (R84). -/
def decodeOp1D (w : BitVec 32) : Except DecErr Instr :=
  match (w.extractLsb' 0 4).toNat with
  | 0 => need true (.fmadd (fD w) (fA w) (fB w))
  | 1 => need true (.fmsub (fD w) (fA w) (fB w))
  | 2 => need true (.fnmadd (fD w) (fA w) (fB w))
  | 3 => need true (.fnmsub (fD w) (fA w) (fB w))
  | _ => .error .illegal

/-- Opcode 0x1E (R83). -/
def decodeOp1E (w : BitVec 32) : Except DecErr Instr :=
  needO true ((rndOf (w.extractLsb' 8 3)).bind fun r8 => (laneOf (w.extractLsb' 4 4)).bind fun t4 => (laneOf (w.extractLsb' 0 4)).bind fun t0 => some (.cvt (fD w) (fA w) r8 t4 t0))

/-- Opcode 0x1F (R83). The function is bits `[3:0]` (R84). -/
def decodeOp1F (w : BitVec 32) : Except DecErr Instr :=
  match (w.extractLsb' 0 4).toNat with
  | 0 => need (w.extractLsb' 4 7 == 0#7) (.exp2 (fD w) (fA w))
  | 1 => need (w.extractLsb' 4 7 == 0#7) (.log2 (fD w) (fA w))
  | 2 => need (w.extractLsb' 4 7 == 0#7) (.rcp (fD w) (fA w))
  | 3 => need (w.extractLsb' 4 7 == 0#7) (.rsqrt (fD w) (fA w))
  | 4 => need (w.extractLsb' 4 7 == 0#7) (.sin (fD w) (fA w))
  | 5 => need (w.extractLsb' 4 7 == 0#7) (.cos (fD w) (fA w))
  | 6 => need (w.extractLsb' 4 7 == 0#7) (.sint (fD w) (fA w))
  | 7 => need (w.extractLsb' 4 7 == 0#7) (.cost (fD w) (fA w))
  | 8 => need (w.extractLsb' 4 7 == 0#7) (.tanh (fD w) (fA w))
  | 9 => need (w.extractLsb' 4 7 == 0#7) (.sigm (fD w) (fA w))
  | 10 => need (w.extractLsb' 4 7 == 0#7) (.erf (fD w) (fA w))
  | _ => .error .illegal

/-- Opcode 0x20 (R83). The function is bits `[5:0]` (R84). -/
def decodeOp20 (w : BitVec 32) : Except DecErr Instr :=
  match (w.extractLsb' 0 6).toNat with
  | 0 => needO true ((laneOf (w.extractLsb' 6 4)).bind fun t6 => some (.wadd (fW w) (fWa w) (fWb w) (fK w) t6))
  | 1 => needO true ((laneOf (w.extractLsb' 6 4)).bind fun t6 => some (.wsub (fW w) (fWa w) (fWb w) (fK w) t6))
  | 2 => needO true ((laneOf (w.extractLsb' 6 4)).bind fun t6 => some (.wmul (fW w) (fWa w) (fWb w) (fK w) t6))
  | 3 => needO true ((laneOf (w.extractLsb' 6 4)).bind fun t6 => some (.wmulh (fW w) (fWa w) (fWb w) (fK w) t6))
  | 4 => needO true ((laneOf (w.extractLsb' 6 4)).bind fun t6 => some (.wmin (fW w) (fWa w) (fWb w) (fK w) t6))
  | 5 => needO true ((laneOf (w.extractLsb' 6 4)).bind fun t6 => some (.wmax (fW w) (fWa w) (fWb w) (fK w) t6))
  | 6 => needO (w.extractLsb' 13 4 == 0#4) ((laneOf (w.extractLsb' 6 4)).bind fun t6 => some (.wabs (fW w) (fWa w) (fK w) t6))
  | 7 => needO true ((laneOf (w.extractLsb' 6 4)).bind fun t6 => some (.wavg (fW w) (fWa w) (fWb w) (fK w) t6))
  | 8 => needO true ((laneOf (w.extractLsb' 6 4)).bind fun t6 => some (.wsll (fW w) (fWa w) (fWb w) (fK w) t6))
  | 9 => needO true ((laneOf (w.extractLsb' 6 4)).bind fun t6 => some (.wsrl (fW w) (fWa w) (fWb w) (fK w) t6))
  | 10 => needO true ((laneOf (w.extractLsb' 6 4)).bind fun t6 => some (.wsra (fW w) (fWa w) (fWb w) (fK w) t6))
  | 11 => needO true ((laneOf (w.extractLsb' 6 4)).bind fun t6 => some (.wand (fW w) (fWa w) (fWb w) (fK w) t6))
  | 12 => needO true ((laneOf (w.extractLsb' 6 4)).bind fun t6 => some (.wor (fW w) (fWa w) (fWb w) (fK w) t6))
  | 13 => needO true ((laneOf (w.extractLsb' 6 4)).bind fun t6 => some (.wxor (fW w) (fWa w) (fWb w) (fK w) t6))
  | 14 => needO true ((laneOf (w.extractLsb' 6 4)).bind fun t6 => some (.wandn (fW w) (fWa w) (fWb w) (fK w) t6))
  | 15 => needO true ((laneOf (w.extractLsb' 6 4)).bind fun t6 => some (.wadds (fW w) (fWa w) (fWb w) (fK w) t6))
  | _ => .error .illegal

/-- Opcode 0x21 (R83). The function is bits `[5:0]` (R84). -/
def decodeOp21 (w : BitVec 32) : Except DecErr Instr :=
  match (w.extractLsb' 0 6).toNat with
  | 0 => needO true ((laneOf (w.extractLsb' 6 4)).bind fun t6 => some (.wfadd (fW w) (fWa w) (fWb w) (fK w) t6))
  | 1 => needO true ((laneOf (w.extractLsb' 6 4)).bind fun t6 => some (.wfsub (fW w) (fWa w) (fWb w) (fK w) t6))
  | 2 => needO true ((laneOf (w.extractLsb' 6 4)).bind fun t6 => some (.wfmul (fW w) (fWa w) (fWb w) (fK w) t6))
  | 3 => needO true ((laneOf (w.extractLsb' 6 4)).bind fun t6 => some (.wfma (fW w) (fWa w) (fWb w) (fK w) t6))
  | 4 => needO true ((laneOf (w.extractLsb' 6 4)).bind fun t6 => some (.wfmin (fW w) (fWa w) (fWb w) (fK w) t6))
  | 5 => needO true ((laneOf (w.extractLsb' 6 4)).bind fun t6 => some (.wfmax (fW w) (fWa w) (fWb w) (fK w) t6))
  | 6 => needO (w.extractLsb' 13 4 == 0#4) ((laneOf (w.extractLsb' 6 4)).bind fun t6 => some (.wfabs (fW w) (fWa w) (fK w) t6))
  | 7 => needO (w.extractLsb' 13 4 == 0#4) ((laneOf (w.extractLsb' 6 4)).bind fun t6 => some (.wfneg (fW w) (fWa w) (fK w) t6))
  | _ => .error .illegal

/-- Opcode 0x22 (R83). The function is bits `[5:0]` (R84). -/
def decodeOp22 (w : BitVec 32) : Except DecErr Instr :=
  match (w.extractLsb' 0 6).toNat with
  | 0 => needO (w.extractLsb' 24 1 == 0#1) ((laneOf (w.extractLsb' 6 4)).bind fun t6 => some (.wcmpeq (w.extractLsb' 21 3) (fWa w) (fWb w) (fK w) t6))
  | 1 => needO (w.extractLsb' 24 1 == 0#1) ((laneOf (w.extractLsb' 6 4)).bind fun t6 => some (.wcmplt (w.extractLsb' 21 3) (fWa w) (fWb w) (fK w) t6))
  | 2 => needO (w.extractLsb' 24 1 == 0#1) ((laneOf (w.extractLsb' 6 4)).bind fun t6 => some (.wcmple (w.extractLsb' 21 3) (fWa w) (fWb w) (fK w) t6))
  | 3 => needO (w.extractLsb' 24 1 == 0#1) ((laneOf (w.extractLsb' 6 4)).bind fun t6 => some (.wfcmpeq (w.extractLsb' 21 3) (fWa w) (fWb w) (fK w) t6))
  | 4 => needO (w.extractLsb' 24 1 == 0#1) ((laneOf (w.extractLsb' 6 4)).bind fun t6 => some (.wfcmplt (w.extractLsb' 21 3) (fWa w) (fWb w) (fK w) t6))
  | 5 => needO (w.extractLsb' 24 1 == 0#1) ((laneOf (w.extractLsb' 6 4)).bind fun t6 => some (.wfcmple (w.extractLsb' 21 3) (fWa w) (fWb w) (fK w) t6))
  | 6 => need (w.extractLsb' 24 1 == 0#1 && w.extractLsb' 20 1 == 0#1 && w.extractLsb' 16 1 == 0#1 && w.extractLsb' 6 7 == 0#7) (.kand (w.extractLsb' 21 3) (w.extractLsb' 17 3) (w.extractLsb' 13 3))
  | 7 => need (w.extractLsb' 24 1 == 0#1 && w.extractLsb' 20 1 == 0#1 && w.extractLsb' 16 1 == 0#1 && w.extractLsb' 6 7 == 0#7) (.kor (w.extractLsb' 21 3) (w.extractLsb' 17 3) (w.extractLsb' 13 3))
  | 8 => need (w.extractLsb' 24 1 == 0#1 && w.extractLsb' 20 1 == 0#1 && w.extractLsb' 16 1 == 0#1 && w.extractLsb' 6 7 == 0#7) (.kxor (w.extractLsb' 21 3) (w.extractLsb' 17 3) (w.extractLsb' 13 3))
  | 9 => need (w.extractLsb' 24 1 == 0#1 && w.extractLsb' 20 1 == 0#1 && w.extractLsb' 6 11 == 0#11) (.knot (w.extractLsb' 21 3) (w.extractLsb' 17 3))
  | 10 => need (w.extractLsb' 20 1 == 0#1 && w.extractLsb' 6 11 == 0#11) (.kpop (fW w) (w.extractLsb' 17 3))
  | _ => .error .illegal

/-- Opcode 0x23 (R83). The function is bits `[5:0]` (R84). -/
def decodeOp23 (w : BitVec 32) : Except DecErr Instr :=
  match (w.extractLsb' 0 6).toNat with
  | 0 => needO (w.extractLsb' 13 4 == 0#4) ((laneOf (w.extractLsb' 6 4)).bind fun t6 => some (.wbcast (fW w) (fWa w) (fK w) t6))
  | 1 => needO (w.extractLsb' 10 3 == 0#3) ((laneOf (w.extractLsb' 6 4)).bind fun t6 => some (.wins (fW w) (fWa w) (fWb w) t6))
  | 2 => needO (w.extractLsb' 10 3 == 0#3) ((laneOf (w.extractLsb' 6 4)).bind fun t6 => some (.wext (fW w) (fWa w) (fWb w) t6))
  | 3 => needO true ((laneOf (w.extractLsb' 6 4)).bind fun t6 => some (.wshuf (fW w) (fWa w) (fWb w) (fK w) t6))
  | 4 => needO true ((laneOf (w.extractLsb' 6 4)).bind fun t6 => some (.wrot (fW w) (fWa w) (fWb w) (fK w) t6))
  | 5 => needO true ((laneOf (w.extractLsb' 6 4)).bind fun t6 => some (.wzip (fW w) (fWa w) (fWb w) (fK w) t6))
  | 6 => needO (w.extractLsb' 13 4 == 0#4) ((laneOf (w.extractLsb' 6 4)).bind fun t6 => some (.wunzip (fW w) (fWa w) (fK w) t6))
  | 7 => needO true ((laneOf (w.extractLsb' 6 4)).bind fun t6 => some (.wsel (fW w) (fWa w) (fWb w) (fK w) t6))
  | _ => .error .illegal

/-- Opcode 0x24 (R83). The function is bits `[5:0]` (R84). -/
def decodeOp24 (w : BitVec 32) : Except DecErr Instr :=
  match (w.extractLsb' 0 6).toNat with
  | 0 => needO (w.extractLsb' 13 4 == 0#4) ((laneOf (w.extractLsb' 6 4)).bind fun t6 => some (.wrsum (fW w) (fWa w) (fK w) t6))
  | 1 => needO (w.extractLsb' 13 4 == 0#4) ((laneOf (w.extractLsb' 6 4)).bind fun t6 => some (.wrmin (fW w) (fWa w) (fK w) t6))
  | 2 => needO (w.extractLsb' 13 4 == 0#4) ((laneOf (w.extractLsb' 6 4)).bind fun t6 => some (.wrmax (fW w) (fWa w) (fK w) t6))
  | 3 => needO (w.extractLsb' 13 4 == 0#4) ((laneOf (w.extractLsb' 6 4)).bind fun t6 => some (.wrfsum (fW w) (fWa w) (fK w) t6))
  | 4 => needO (w.extractLsb' 13 4 == 0#4) ((laneOf (w.extractLsb' 6 4)).bind fun t6 => some (.wrfmin (fW w) (fWa w) (fK w) t6))
  | 5 => needO (w.extractLsb' 13 4 == 0#4) ((laneOf (w.extractLsb' 6 4)).bind fun t6 => some (.wrfmax (fW w) (fWa w) (fK w) t6))
  | _ => .error .illegal

/-- Opcode 0x25 (R83). The function is bits `[5:0]` (R84). -/
def decodeOp25 (w : BitVec 32) : Except DecErr Instr :=
  match (w.extractLsb' 0 6).toNat with
  | 0 => needO true ((laneOf (fWb w)).bind fun t13 => (laneOf (w.extractLsb' 6 4)).bind fun t6 => some (.wcvt (fW w) (fWa w) t13 (fK w) t6))
  | 1 => needO true ((laneOf (w.extractLsb' 6 4)).bind fun t6 => some (.wnarrow (fW w) (fWa w) (fWb w) (fK w) t6))
  | 2 => needO true ((laneOf (w.extractLsb' 6 4)).bind fun t6 => some (.wwiden (fW w) (fWa w) (fWb w) (fK w) t6))
  | 3 => needO (w.extractLsb' 10 7 == 0#7) ((laneOf (w.extractLsb' 6 4)).bind fun t6 => some (.wenc (fW w) (fWa w) t6))
  | 4 => needO (w.extractLsb' 10 3 == 0#3) ((laneOf (w.extractLsb' 6 4)).bind fun t6 => some (.wdec (fW w) (fWa w) (fWb w) t6))
  | _ => .error .illegal

/-- Opcode 0x26 (R83). The function is bits `[10:8]` (R84). -/
def decodeOp26 (w : BitVec 32) : Except DecErr Instr :=
  match (w.extractLsb' 8 3).toNat with
  | 0 => need (w.extractLsb' 22 3 == 0#3) (.wld (w.extractLsb' 18 4) (fA w) (fI8 w))
  | 1 => need (w.extractLsb' 22 3 == 0#3) (.wst (w.extractLsb' 18 4) (fA w) (fI8 w))
  | 2 => need (w.extractLsb' 22 3 == 0#3) (.wldSync (w.extractLsb' 18 4) (fA w) (fI8 w))
  | 3 => need (w.extractLsb' 22 3 == 0#3) (.wstFill (w.extractLsb' 18 4) (fA w) (fI8 w))
  | _ => .error .illegal

/-- Opcode 0x27 (R83). The function is bits `[10:8]` (R84). -/
def decodeOp27 (w : BitVec 32) : Except DecErr Instr :=
  match (w.extractLsb' 8 3).toNat with
  | 0 => need (w.extractLsb' 18 7 == 0#7 && w.extractLsb' 2 6 == 0#6) (.gangForm (fA w) (w.extractLsb' 0 2))
  | 1 => need (w.extractLsb' 11 14 == 0#14 && w.extractLsb' 0 8 == 0#8) (.gangEnd)
  | 2 => need (w.extractLsb' 11 14 == 0#14 && w.extractLsb' 0 8 == 0#8) (.gangBar)
  | _ => .error .illegal

/-- Opcode 0x28 (R83). The function is bits `[10:8]` (R84). -/
def decodeOp28 (w : BitVec 32) : Except DecErr Instr :=
  match (w.extractLsb' 8 3).toNat with
  | 0 => needO (w.extractLsb' 11 7 == 0#7 && w.extractLsb' 0 8 == 0#8) ((engineOf (w.extractLsb' 18 2)).bind fun e18 => some (.push (fW w) ((w.extractLsb' 20 1) == 1#1) e18))
  | 1 => needO (w.extractLsb' 20 5 == 0#5) ((engineOf (w.extractLsb' 18 2)).bind fun e18 => some (.pushm e18 (fA w) (fI8 w)))
  | 2 => needO (w.extractLsb' 20 5 == 0#5 && w.extractLsb' 0 8 == 0#8) ((engineOf (w.extractLsb' 18 2)).bind fun e18 => some (.engWait e18 (fA w)))
  | 3 => needO (w.extractLsb' 20 5 == 0#5 && w.extractLsb' 0 8 == 0#8) ((engineOf (w.extractLsb' 18 2)).bind fun e18 => some (.engPoll e18 (fA w)))
  | _ => .error .illegal

/-- Opcode 0x29 (R83). The function is bits `[10:8]` (R84). -/
def decodeOp29 (w : BitVec 32) : Except DecErr Instr :=
  match (w.extractLsb' 8 3).toNat with
  | 0 => need (w.extractLsb' 18 7 == 0#7 && w.extractLsb' 4 4 == 0#4) (.tcfgSet (fA w) (w.extractLsb' 0 4))
  | 1 => need (w.extractLsb' 11 7 == 0#7 && w.extractLsb' 4 4 == 0#4) (.tcfgGet (fD w) (w.extractLsb' 0 4))
  | 2 => need (w.extractLsb' 18 7 == 0#7 && w.extractLsb' 2 6 == 0#6) (.accLoad (fA w) (w.extractLsb' 0 2))
  | _ => .error .illegal

/-- Opcode 0x2A (R83). The function is bits `[3:0]` (R84). -/
def decodeOp2A (w : BitVec 32) : Except DecErr Instr :=
  match (w.extractLsb' 0 4).toNat with
  | 0 => need (w.extractLsb' 18 7 == 0#7) (.msgSend (fA w) (fB w))
  | 1 => need (w.extractLsb' 18 7 == 0#7) (.msgSendw (fA w) (fB w))
  | 2 => need (w.extractLsb' 11 7 == 0#7) (.msgBind (fD w) ((w.extractLsb' 10 1) == 1#1) (w.extractLsb' 8 2) (w.extractLsb' 4 4))
  | 3 => need (w.extractLsb' 8 17 == 0#17) (.msgWait (w.extractLsb' 4 4))
  | _ => .error .illegal

/-- Opcode 0x2B (R83). The function is bits `[3:0]` (R84). -/
def decodeOp2B (w : BitVec 32) : Except DecErr Instr :=
  match (w.extractLsb' 0 4).toNat with
  | 0 => need (w.extractLsb' 18 7 == 0#7 && w.extractLsb' 4 7 == 0#7) (.taskPush (fA w))
  | 1 => need (w.extractLsb' 18 7 == 0#7) (.taskSend (fA w) (fB w))
  | 2 => need (w.extractLsb' 4 21 == 0#21) (.retire)
  | 3 => need (w.extractLsb' 18 7 == 0#7) (.retireS (fA w) (fB w))
  | 4 => need (w.extractLsb' 4 21 == 0#21) (.taskAbort)
  | 5 => need (w.extractLsb' 4 14 == 0#14) (.tstamp (fD w))
  | 6 => need (w.extractLsb' 18 7 == 0#7) (.detList (fA w) (fB w))
  | 7 => need (w.extractLsb' 18 7 == 0#7) (.detWait (fA w) (fB w))
  | _ => .error .illegal

/-- Opcode 0x2C (R83). The function is bits `[10:8]` (R84). -/
def decodeOp2C (w : BitVec 32) : Except DecErr Instr :=
  match (w.extractLsb' 8 3).toNat with
  | 0 => need (w.extractLsb' 0 8 == 0#8) (.thrSpawn (fD w) (fA w))
  | 1 => need (w.extractLsb' 11 14 == 0#14 && w.extractLsb' 0 8 == 0#8) (.thrExit)
  | 2 => need (w.extractLsb' 11 14 == 0#14 && w.extractLsb' 0 8 == 0#8) (.thrPark)
  | 3 => need (w.extractLsb' 18 7 == 0#7 && w.extractLsb' 0 8 == 0#8) (.thrWake (fA w))
  | _ => .error .illegal

/-- Opcode 0x2D (R83). The function is bits `[3:0]` (R84). -/
def decodeOp2D (w : BitVec 32) : Except DecErr Instr :=
  match (w.extractLsb' 0 4).toNat with
  | 0 => need (w.extractLsb' 18 7 == 0#7) (.barInit (fA w) (fB w))
  | 1 => need (w.extractLsb' 18 7 == 0#7 && w.extractLsb' 4 7 == 0#7) (.barArr (fA w))
  | 2 => need (w.extractLsb' 18 7 == 0#7 && w.extractLsb' 4 7 == 0#7) (.barWait (fA w))
  | 3 => need (w.extractLsb' 18 7 == 0#7 && w.extractLsb' 4 7 == 0#7) (.barAw (fA w))
  | 4 => need (w.extractLsb' 15 10 == 0#10 && w.extractLsb' 7 4 == 0#4) (.redSend (w.extractLsb' 11 4) ((w.extractLsb' 6 1) == 1#1) (w.extractLsb' 4 2))
  | 5 => need (w.extractLsb' 22 3 == 0#3 && w.extractLsb' 4 14 == 0#14) (.redRecv (w.extractLsb' 18 4))
  | _ => .error .illegal

/-- Opcode 0x2E (R83). The function is bits `[3:0]` (R84). -/
def decodeOp2E (w : BitVec 32) : Except DecErr Instr :=
  match (w.extractLsb' 0 4).toNat with
  | 0 => need (w.extractLsb' 18 7 == 0#7) (.nestSet (fA w) (fB w))
  | 1 => need (w.extractLsb' 4 7 == 0#7) (.nestClaim (fD w) (fA w))
  | 2 => need (w.extractLsb' 4 14 == 0#14) (.nestNext (fD w))
  | 3 => need (w.extractLsb' 18 7 == 0#7 && w.extractLsb' 4 7 == 0#7) (.nestEnd (fA w))
  | _ => .error .illegal

/-- Opcode 0x2F (R83). The function is bits `[3:0]` (R84). -/
def decodeOp2F (w : BitVec 32) : Except DecErr Instr :=
  match (w.extractLsb' 0 4).toNat with
  | 0 => need (w.extractLsb' 4 7 == 0#7) (.ctxOpen (fD w) (fA w))
  | 1 => need (w.extractLsb' 18 7 == 0#7 && w.extractLsb' 4 7 == 0#7) (.ctxClose (fA w))
  | 2 => need true (.editIns (fD w) (fA w) (fB w))
  | 3 => need (w.extractLsb' 4 7 == 0#7) (.editDel (fD w) (fA w))
  | 4 => need true (.editChg (fD w) (fA w) (fB w))
  | 5 => need true (.ctxFork (fD w) (fA w) (fB w))
  | 6 => need true (.ctxRope (fD w) (fA w) (fB w))
  | _ => .error .illegal

/-- Opcode 0x30 (R83). The function is bits `[3:0]` (R84). -/
def decodeOp30 (w : BitVec 32) : Except DecErr Instr :=
  match (w.extractLsb' 0 4).toNat with
  | 0 => need (w.extractLsb' 4 7 == 0#7) (.dmapGet (fD w) (fA w))
  | 1 => need (w.extractLsb' 18 7 == 0#7) (.dmapMov (fA w) (fB w))
  | 2 => need (w.extractLsb' 18 7 == 0#7) (.settle (fA w) (fB w))
  | 3 => need true (.ctxRd (fD w) (fA w) (fB w))
  | 4 => need (w.extractLsb' 18 7 == 0#7 && w.extractLsb' 4 7 == 0#7) (.ctxRel (fA w))
  | 5 => need (w.extractLsb' 18 7 == 0#7) (.beamMap (fA w) (fB w))
  | 6 => need (w.extractLsb' 18 7 == 0#7) (.ptbFill (fA w) (fB w))
  | 7 => need (w.extractLsb' 18 7 == 0#7 && w.extractLsb' 4 7 == 0#7) (.ptbInv (fA w))
  | 8 => need true (.posXl (fD w) (fA w) (fB w))
  | _ => .error .illegal

/-- Opcode 0x31 (R83). The function is bits `[17:11]` (R84). -/
def decodeOp31 (w : BitVec 32) : Except DecErr Instr :=
  match (fA w).toNat with
  | 0 => needO true ((sprOf (fI11 w)).bind fun p0 => some (.mfs (fD w) p0))
  | 1 => needO true ((sprOf (fI11 w)).bind fun p0 => some (.mts (fD w) p0))
  | 2 => need (w.extractLsb' 18 7 == 0#7) (.trap (fI11 w))
  | 3 => need (w.extractLsb' 18 7 == 0#7 && w.extractLsb' 0 11 == 0#11) (.hret)
  | 4 => need (w.extractLsb' 18 7 == 0#7 && w.extractLsb' 0 11 == 0#11) (.tret)
  | 5 => need true (.hcall (fD w) (fI11 w))
  | 6 => need (w.extractLsb' 18 7 == 0#7 && w.extractLsb' 0 11 == 0#11) (.nop)
  | 7 => need (w.extractLsb' 18 7 == 0#7 && w.extractLsb' 0 11 == 0#11) (.wfe)
  | _ => .error .illegal

/-- Opcode 0x32 (R83). The function is bits `[10:8]` (R84). -/
def decodeOp32 (w : BitVec 32) : Except DecErr Instr :=
  match (w.extractLsb' 8 3).toNat with
  | 0 => need (w.extractLsb' 0 8 == 0#8) (.tlbInv (fD w) (fA w))
  | 1 => if w.extractLsb' 0 8 == 1#8 then need (w.extractLsb' 11 14 == 0#14) .tlbAllPart else
      need (w.extractLsb' 18 7 == 0#7 && w.extractLsb' 0 8 == 0#8) (.tlbAll (fA w))
  | 2 => need (w.extractLsb' 18 7 == 0#7 && w.extractLsb' 0 8 == 0#8) (.istInv (fA w))
  | 3 => need (w.extractLsb' 18 7 == 0#7) (.klog (fA w) (fI8 w))
  | 4 => need (w.extractLsb' 18 7 == 0#7 && w.extractLsb' 6 2 == 0#2) (.tsave (fA w) (w.extractLsb' 0 6))
  | 5 => need (w.extractLsb' 0 8 == 0#8) (.trest (fD w) (fA w))
  | _ => .error .illegal

/-- The major opcode `[30:25]` chooses among the formats (R79, R83). Opcodes 0x33 to 0x3F are unassigned (R86). -/
def decode32 (w : BitVec 32) : Except DecErr Instr :=
  match (w.extractLsb' 25 6).toNat with
  | 0x00 => decodeOp00 w
  | 0x01 => decodeOp01 w
  | 0x02 => decodeOp02 w
  | 0x03 => decodeOp03 w
  | 0x04 => decodeOp04 w
  | 0x05 => decodeOp05 w
  | 0x06 => decodeOp06 w
  | 0x07 => decodeOp07 w
  | 0x08 => decodeOp08 w
  | 0x09 => decodeOp09 w
  | 0x0A => decodeOp0A w
  | 0x0B => decodeOp0B w
  | 0x0C => decodeOp0C w
  | 0x0D => decodeOp0D w
  | 0x0E => decodeOp0E w
  | 0x0F => decodeOp0F w
  | 0x10 => decodeOp10 w
  | 0x11 => decodeOp11 w
  | 0x12 => decodeOp12 w
  | 0x13 => decodeOp13 w
  | 0x14 => decodeOp14 w
  | 0x15 => decodeOp15 w
  | 0x16 => decodeOp16 w
  | 0x17 => decodeOp17 w
  | 0x18 => decodeOp18 w
  | 0x19 => decodeOp19 w
  | 0x1A => decodeOp1A w
  | 0x1B => decodeOp1B w
  | 0x1C => decodeOp1C w
  | 0x1D => decodeOp1D w
  | 0x1E => decodeOp1E w
  | 0x1F => decodeOp1F w
  | 0x20 => decodeOp20 w
  | 0x21 => decodeOp21 w
  | 0x22 => decodeOp22 w
  | 0x23 => decodeOp23 w
  | 0x24 => decodeOp24 w
  | 0x25 => decodeOp25 w
  | 0x26 => decodeOp26 w
  | 0x27 => decodeOp27 w
  | 0x28 => decodeOp28 w
  | 0x29 => decodeOp29 w
  | 0x2A => decodeOp2A w
  | 0x2B => decodeOp2B w
  | 0x2C => decodeOp2C w
  | 0x2D => decodeOp2D w
  | 0x2E => decodeOp2E w
  | 0x2F => decodeOp2F w
  | 0x30 => decodeOp30 w
  | 0x31 => decodeOp31 w
  | 0x32 => decodeOp32 w
  | _ => .error .illegal

/-- The compact instructions: op `[14:11]` (R81). -/
noncomputable def decode16 (w : Half) : Except DecErr Instr :=
  match (w.extractLsb' 11 4).toNat with
  | 0 => need (w.extractLsb' 0 3 == 0#3) (.cMv (w.extractLsb' 7 4) (w.extractLsb' 3 4))
  | 1 => need (w.extractLsb' 0 3 == 0#3) (.cAdd (w.extractLsb' 7 4) (w.extractLsb' 3 4))
  | 2 => need (w.extractLsb' 0 3 == 0#3) (.cSub (w.extractLsb' 7 4) (w.extractLsb' 3 4))
  | 3 => need true (.cAddi (w.extractLsb' 7 4) (w.extractLsb' 0 7))
  | 4 => need true (.cLi (w.extractLsb' 7 4) (w.extractLsb' 0 7))
  | 5 => need true (.cLdW (w.extractLsb' 7 4) (w.extractLsb' 3 4) (w.extractLsb' 0 3))
  | 6 => need true (.cLdD (w.extractLsb' 7 4) (w.extractLsb' 3 4) (w.extractLsb' 0 3))
  | 7 => need true (.cStW (w.extractLsb' 7 4) (w.extractLsb' 3 4) (w.extractLsb' 0 3))
  | 8 => need true (.cStD (w.extractLsb' 7 4) (w.extractLsb' 3 4) (w.extractLsb' 0 3))
  | 9 => need (w.extractLsb' 0 3 == 0#3) (.cAnd (w.extractLsb' 7 4) (w.extractLsb' 3 4))
  | 10 => need (w.extractLsb' 6 1 == 0#1) (.cSll (w.extractLsb' 7 4) (w.extractLsb' 0 6))
  | 11 => need true (.cBeqz (w.extractLsb' 7 4) (w.extractLsb' 0 7))
  | 12 => need true (.cBnez (w.extractLsb' 7 4) (w.extractLsb' 0 7))
  | 13 => need true (.cJ (w.extractLsb' 0 11))
  | 14 => need (w.extractLsb' 0 7 == 0#7) (.cRet (w.extractLsb' 7 4))
  | _ => need (w.extractLsb' 0 11 == 0#11) (.cNop)

/-- Decoding from the halfwords at the pc (R78): bit 15 of the first one decides the length. Answers the
instruction and what follows it. A 32-bit instruction that has no second halfword is ILLEGAL_OPCODE. -/
noncomputable def decode : List Half → Except DecErr (Instr × List Half)
  | [] => .error .illegal
  | h :: t =>
    if h.getLsbD 15 then
      match t with
      | [] => .error .illegal
      | g :: t' => (decode32 (h ++ g)).map fun i => (i, t')
    else (decode16 h).map fun i => (i, t)

/-- The command, if the words and fields its layout leaves unused are zero (R87, R160). -/
def needC (z : Bool) (i : Instr) : Option Instr := if z then some i else none

/-- The commands of engine 1 by operation (R88), with the fields each entry lays out. -/
noncomputable def decodeCmd1 (c : BitVec 256) : Option Instr :=
  match (c.extractLsb' 20 8).toNat with
  | 0 => needC (c.extractLsb' 50 14 == 0#14 && c.extractLsb' 46 2 == 0#2 && c.extractLsb' 35 5 == 0#5 && c.extractLsb' 17 3 == 0#3) (.mxMma (c.extractLsb' 0 16) (c.getLsbD 16) (c.getLsbD 49) (c.getLsbD 48) (c.extractLsb' 40 6) (c.extractLsb' 32 3) (c.extractLsb' 64 32) (c.extractLsb' 96 32) (c.extractLsb' 128 32) (c.extractLsb' 160 32) (c.extractLsb' 192 32) (c.extractLsb' 224 32))
  | 1 => needC (c.extractLsb' 160 96 == 0#96 && c.extractLsb' 16 4 == 0#4) (.mxLdb (c.extractLsb' 0 16) (c.extractLsb' 32 64) (c.extractLsb' 96 32) (c.extractLsb' 128 32))
  | 2 => needC (c.extractLsb' 128 128 == 0#128 && c.extractLsb' 52 12 == 0#12 && c.extractLsb' 46 2 == 0#2 && c.extractLsb' 35 5 == 0#5 && c.extractLsb' 17 3 == 0#3) (.mxLdt (c.extractLsb' 0 16) (c.getLsbD 16) (c.extractLsb' 48 4) (c.extractLsb' 40 6) (c.extractLsb' 32 3) (c.extractLsb' 64 32) (c.extractLsb' 96 32))
  | 3 => needC (c.extractLsb' 240 16 == 0#16 && c.extractLsb' 52 12 == 0#12 && c.extractLsb' 46 2 == 0#2 && c.extractLsb' 35 5 == 0#5 && c.extractLsb' 19 1 == 0#1) (.mxStt (c.extractLsb' 0 16) (c.getLsbD 16) (c.getLsbD 17) (c.getLsbD 18) (c.extractLsb' 48 4) (c.extractLsb' 40 6) (c.extractLsb' 32 3) (c.extractLsb' 64 64) (c.extractLsb' 128 64) (c.extractLsb' 192 32) (c.extractLsb' 224 16))
  | 4 => needC (c.extractLsb' 40 216 == 0#216 && c.extractLsb' 16 4 == 0#4) (.mxZero (c.extractLsb' 0 16) (c.extractLsb' 32 8))
  | 5 => needC (c.extractLsb' 96 160 == 0#160 && c.extractLsb' 32 32 == 0#32 && c.extractLsb' 17 3 == 0#3) (.mxQk (c.extractLsb' 0 16) (c.getLsbD 16) (c.extractLsb' 64 32))
  | 6 => needC (c.extractLsb' 96 160 == 0#160 && c.extractLsb' 35 29 == 0#29 && c.extractLsb' 17 3 == 0#3) (.mxPv (c.extractLsb' 0 16) (c.getLsbD 16) (c.extractLsb' 32 3) (c.extractLsb' 64 32))
  | _ => none

/-- The commands of engine 2 by operation (R88), with the fields each entry lays out. -/
noncomputable def decodeCmd2 (c : BitVec 256) : Option Instr :=
  match (c.extractLsb' 20 8).toNat with
  | 0 => needC (c.extractLsb' 17 3 == 0#3) (.vxMap (c.extractLsb' 0 16) (c.getLsbD 16) { n := c.extractLsb' 32 32, dst := c.extractLsb' 64 32, a := c.extractLsb' 96 32, b := c.extractLsb' 128 32, ctl := c.extractLsb' 160 32, x := c.extractLsb' 192 32, y := c.extractLsb' 224 32 })
  | 1 => needC (c.extractLsb' 17 3 == 0#3) (.vxFma (c.extractLsb' 0 16) (c.getLsbD 16) { n := c.extractLsb' 32 32, dst := c.extractLsb' 64 32, a := c.extractLsb' 96 32, b := c.extractLsb' 128 32, ctl := c.extractLsb' 160 32, x := c.extractLsb' 192 32, y := c.extractLsb' 224 32 })
  | 2 => needC (c.extractLsb' 17 3 == 0#3) (.vxRed (c.extractLsb' 0 16) (c.getLsbD 16) { n := c.extractLsb' 32 32, dst := c.extractLsb' 64 32, a := c.extractLsb' 96 32, b := c.extractLsb' 128 32, ctl := c.extractLsb' 160 32, x := c.extractLsb' 192 32, y := c.extractLsb' 224 32 })
  | 3 => needC (c.extractLsb' 17 3 == 0#3) (.vxExpsum (c.extractLsb' 0 16) (c.getLsbD 16) { n := c.extractLsb' 32 32, dst := c.extractLsb' 64 32, a := c.extractLsb' 96 32, b := c.extractLsb' 128 32, ctl := c.extractLsb' 160 32, x := c.extractLsb' 192 32, y := c.extractLsb' 224 32 })
  | 4 => needC (c.extractLsb' 17 3 == 0#3) (.vxNorm (c.extractLsb' 0 16) (c.getLsbD 16) { n := c.extractLsb' 32 32, dst := c.extractLsb' 64 32, a := c.extractLsb' 96 32, b := c.extractLsb' 128 32, ctl := c.extractLsb' 160 32, x := c.extractLsb' 192 32, y := c.extractLsb' 224 32 })
  | 5 => needC (c.extractLsb' 17 3 == 0#3) (.vxRequant (c.extractLsb' 0 16) (c.getLsbD 16) { n := c.extractLsb' 32 32, dst := c.extractLsb' 64 32, a := c.extractLsb' 96 32, b := c.extractLsb' 128 32, ctl := c.extractLsb' 160 32, x := c.extractLsb' 192 32, y := c.extractLsb' 224 32 })
  | 6 => needC (c.extractLsb' 112 16 == 0#16 && c.extractLsb' 17 3 == 0#3) (.vxCmpst (c.extractLsb' 0 16) (c.getLsbD 16) (c.extractLsb' 32 32) (c.extractLsb' 64 32) (c.extractLsb' 96 16) (c.extractLsb' 128 64) (c.extractLsb' 192 64))
  | 7 => needC (c.extractLsb' 17 3 == 0#3) (.vxTopk (c.extractLsb' 0 16) (c.getLsbD 16) { n := c.extractLsb' 32 32, dst := c.extractLsb' 64 32, a := c.extractLsb' 96 32, b := c.extractLsb' 128 32, ctl := c.extractLsb' 160 32, x := c.extractLsb' 192 32, y := c.extractLsb' 224 32 })
  | 8 => needC (c.extractLsb' 17 3 == 0#3) (.vxKsum (c.extractLsb' 0 16) (c.getLsbD 16) { n := c.extractLsb' 32 32, dst := c.extractLsb' 64 32, a := c.extractLsb' 96 32, b := c.extractLsb' 128 32, ctl := c.extractLsb' 160 32, x := c.extractLsb' 192 32, y := c.extractLsb' 224 32 })
  | 9 => needC (c.extractLsb' 17 3 == 0#3) (.vxCvt (c.extractLsb' 0 16) (c.getLsbD 16) { n := c.extractLsb' 32 32, dst := c.extractLsb' 64 32, a := c.extractLsb' 96 32, b := c.extractLsb' 128 32, ctl := c.extractLsb' 160 32, x := c.extractLsb' 192 32, y := c.extractLsb' 224 32 })
  | _ => none

/-- The commands of engine 3 by operation (R88), with the fields each entry lays out. -/
noncomputable def decodeCmd3 (c : BitVec 256) : Option Instr :=
  match (c.extractLsb' 20 8).toNat with
  | 0 => needC (c.extractLsb' 224 32 == 0#32 && c.extractLsb' 19 1 == 0#1) (.cpCopy (c.extractLsb' 0 16) (c.getLsbD 16) (c.getLsbD 17) (c.getLsbD 18) (c.extractLsb' 32 64) (c.extractLsb' 96 64) (c.extractLsb' 160 32) (c.extractLsb' 192 32))
  | 1 => needC (c.extractLsb' 19 1 == 0#1) (.cpGather (c.extractLsb' 0 16) (c.getLsbD 16) (c.getLsbD 17) (c.getLsbD 18) (c.extractLsb' 32 64) (c.extractLsb' 96 64) (c.extractLsb' 160 32) (c.extractLsb' 192 32) (c.extractLsb' 224 32))
  | 2 => needC (c.extractLsb' 19 1 == 0#1) (.cpScatter (c.extractLsb' 0 16) (c.getLsbD 16) (c.getLsbD 17) (c.getLsbD 18) (c.extractLsb' 32 64) (c.extractLsb' 96 64) (c.extractLsb' 160 32) (c.extractLsb' 192 32) (c.extractLsb' 224 32))
  | 3 => needC (c.extractLsb' 160 96 == 0#96 && c.extractLsb' 16 2 == 0#2) (.cpFill (c.extractLsb' 0 16) (c.getLsbD 18) (c.getLsbD 19) (c.extractLsb' 32 64) (c.extractLsb' 96 32) (c.extractLsb' 128 32))
  | 4 => needC (c.extractLsb' 224 32 == 0#32 && c.extractLsb' 53 11 == 0#11 && c.extractLsb' 18 2 == 0#2) (.cpPut (c.extractLsb' 0 16) (c.getLsbD 16) (c.getLsbD 17) (c.extractLsb' 32 21) (c.extractLsb' 64 64) (c.extractLsb' 128 64) (c.extractLsb' 192 32))
  | 5 => needC (c.extractLsb' 224 32 == 0#32 && c.extractLsb' 53 11 == 0#11 && c.extractLsb' 18 2 == 0#2) (.cpGet (c.extractLsb' 0 16) (c.getLsbD 16) (c.getLsbD 17) (c.extractLsb' 32 21) (c.extractLsb' 64 64) (c.extractLsb' 128 64) (c.extractLsb' 192 32))
  | 6 => needC (c.extractLsb' 192 64 == 0#64 && c.extractLsb' 53 11 == 0#11 && c.extractLsb' 17 3 == 0#3) (.cpAmo (c.extractLsb' 0 16) (c.getLsbD 16) (c.extractLsb' 32 21) (c.extractLsb' 64 64) (c.extractLsb' 128 32) (c.extractLsb' 160 32))
  | 7 => needC (c.extractLsb' 192 64 == 0#64 && c.extractLsb' 43 21 == 0#21 && c.extractLsb' 16 4 == 0#4) (.cpIst (c.extractLsb' 0 16) (c.extractLsb' 32 11) (c.extractLsb' 64 64) (c.extractLsb' 128 32) (c.extractLsb' 160 32))
  | 8 => needC (c.extractLsb' 186 6 == 0#6 && c.extractLsb' 176 8 == 0#8 && c.extractLsb' 50 14 == 0#14 && c.extractLsb' 38 2 == 0#2 && c.extractLsb' 16 4 == 0#4) (.cpFrame (c.extractLsb' 0 16) (c.extractLsb' 32 6) (c.extractLsb' 40 8) (c.extractLsb' 48 2) (c.extractLsb' 64 32) (c.extractLsb' 96 32) (c.extractLsb' 128 48) (c.extractLsb' 184 2) (c.extractLsb' 192 32) (c.extractLsb' 224 32))
  | _ => none

/-- An engine command from its 256 bits (R87, R88). The engine field has been checked at the push (R89). `none` is
a word, field or flag that the command does not define and that is not zero (R160: CMD_MALFORMED). -/
noncomputable def decodeCmd (c : BitVec 256) : Option Instr :=
  match (c.extractLsb' 28 4).toNat with
  | 1 => decodeCmd1 c
  | 2 => decodeCmd2 c
  | 3 => decodeCmd3 c
  | _ => none

/-- The value whose fields stand at the given bit positions over a base value. -/
def fieldsAt (base : Nat) : List (Nat × Nat) → Nat
  | [] => base
  | (v, lo) :: t => fieldsAt base t + v * 2 ^ lo

/-- The two halfwords of a 32-bit instruction, first halfword first (R78): the fixed bits of its row and its
fields, each a value and the position of its lowest bit. -/
def enc32 (base : Nat) (fs : List (Nat × Nat)) : List Half :=
  [BitVec.ofNat 16 (fieldsAt base fs / 65536), BitVec.ofNat 16 (fieldsAt base fs)]

/-- The halfword of a compact instruction. -/
def enc16 (base : Nat) (fs : List (Nat × Nat)) : List Half := [BitVec.ofNat 16 (fieldsAt base fs)]

/-- The sixteen halfwords of a command, lowest address first (R87). -/
def encCmd (base : Nat) (fs : List (Nat × Nat)) : List Half :=
  (List.range 16).map fun i => BitVec.ofNat 16 (fieldsAt base fs / 2 ^ (16 * i))

/-- The halfwords of an instruction, in the order they stand in the instruction store, or the halfwords of a
command in memory. A step that no encoding names has none. -/
def encode : Instr → List Half
  | .add d a b => enc32 0x80000000 [(d.toNat, 18), (a.toNat, 11), (b.toNat, 4)]
  | .sub d a b => enc32 0x80000001 [(d.toNat, 18), (a.toNat, 11), (b.toNat, 4)]
  | .and d a b => enc32 0x80000002 [(d.toNat, 18), (a.toNat, 11), (b.toNat, 4)]
  | .or d a b => enc32 0x80000003 [(d.toNat, 18), (a.toNat, 11), (b.toNat, 4)]
  | .xor d a b => enc32 0x80000004 [(d.toNat, 18), (a.toNat, 11), (b.toNat, 4)]
  | .andn d a b => enc32 0x80000005 [(d.toNat, 18), (a.toNat, 11), (b.toNat, 4)]
  | .orn d a b => enc32 0x80000006 [(d.toNat, 18), (a.toNat, 11), (b.toNat, 4)]
  | .xnor d a b => enc32 0x80000007 [(d.toNat, 18), (a.toNat, 11), (b.toNat, 4)]
  | .sll d a b => enc32 0x80000008 [(d.toNat, 18), (a.toNat, 11), (b.toNat, 4)]
  | .srl d a b => enc32 0x80000009 [(d.toNat, 18), (a.toNat, 11), (b.toNat, 4)]
  | .sra d a b => enc32 0x8000000A [(d.toNat, 18), (a.toNat, 11), (b.toNat, 4)]
  | .rol d a b => enc32 0x8000000B [(d.toNat, 18), (a.toNat, 11), (b.toNat, 4)]
  | .ror d a b => enc32 0x8000000C [(d.toNat, 18), (a.toNat, 11), (b.toNat, 4)]
  | .seq d a b => enc32 0x8000000D [(d.toNat, 18), (a.toNat, 11), (b.toNat, 4)]
  | .slt d a b => enc32 0x8000000E [(d.toNat, 18), (a.toNat, 11), (b.toNat, 4)]
  | .sltZ d a b => enc32 0x8000000F [(d.toNat, 18), (a.toNat, 11), (b.toNat, 4)]
  | .min d a b => enc32 0x82000000 [(d.toNat, 18), (a.toNat, 11), (b.toNat, 4)]
  | .max d a b => enc32 0x82000001 [(d.toNat, 18), (a.toNat, 11), (b.toNat, 4)]
  | .minZ d a b => enc32 0x82000002 [(d.toNat, 18), (a.toNat, 11), (b.toNat, 4)]
  | .maxZ d a b => enc32 0x82000003 [(d.toNat, 18), (a.toNat, 11), (b.toNat, 4)]
  | .mul d a b => enc32 0x82000004 [(d.toNat, 18), (a.toNat, 11), (b.toNat, 4)]
  | .mulh d a b => enc32 0x82000005 [(d.toNat, 18), (a.toNat, 11), (b.toNat, 4)]
  | .mulhZ d a b => enc32 0x82000006 [(d.toNat, 18), (a.toNat, 11), (b.toNat, 4)]
  | .div d a b => enc32 0x82000007 [(d.toNat, 18), (a.toNat, 11), (b.toNat, 4)]
  | .divZ d a b => enc32 0x82000008 [(d.toNat, 18), (a.toNat, 11), (b.toNat, 4)]
  | .rem d a b => enc32 0x82000009 [(d.toNat, 18), (a.toNat, 11), (b.toNat, 4)]
  | .remZ d a b => enc32 0x8200000A [(d.toNat, 18), (a.toNat, 11), (b.toNat, 4)]
  | .clz d a => enc32 0x8200000B [(d.toNat, 18), (a.toNat, 11)]
  | .ctz d a => enc32 0x8200000C [(d.toNat, 18), (a.toNat, 11)]
  | .popc d a => enc32 0x8200000D [(d.toNat, 18), (a.toNat, 11)]
  | .bswap d a => enc32 0x8200000E [(d.toNat, 18), (a.toNat, 11)]
  | .csel d a b => enc32 0x8200000F [(d.toNat, 18), (a.toNat, 11), (b.toNat, 4)]
  | .addi d a i => enc32 0x84000000 [(d.toNat, 18), (a.toNat, 11), (i.toNat, 0)]
  | .andi d a i => enc32 0x86000000 [(d.toNat, 18), (a.toNat, 11), (i.toNat, 0)]
  | .ori d a i => enc32 0x88000000 [(d.toNat, 18), (a.toNat, 11), (i.toNat, 0)]
  | .xori d a i => enc32 0x8A000000 [(d.toNat, 18), (a.toNat, 11), (i.toNat, 0)]
  | .slli d a s => enc32 0x8C000000 [(d.toNat, 18), (a.toNat, 11), (s.toNat, 0)]
  | .srli d a s => enc32 0x8C000040 [(d.toNat, 18), (a.toNat, 11), (s.toNat, 0)]
  | .srai d a s => enc32 0x8C000080 [(d.toNat, 18), (a.toNat, 11), (s.toNat, 0)]
  | .roli d a s => enc32 0x8C0000C0 [(d.toNat, 18), (a.toNat, 11), (s.toNat, 0)]
  | .slti d a i => enc32 0x8E000000 [(d.toNat, 18), (a.toNat, 11), (i.toNat, 0)]
  | .sltiZ d a i => enc32 0x90000000 [(d.toNat, 18), (a.toNat, 11), (i.toNat, 0)]
  | .lui d i => enc32 0x92000000 [(d.toNat, 18), (i.toNat, 0)]
  | .lhi d i => enc32 0x94000000 [(d.toNat, 18), (i.toNat, 0)]
  | .addpc d i => enc32 0x96000000 [(d.toNat, 18), (i.toNat, 0)]
  | .jal d i => enc32 0x98000000 [(d.toNat, 18), (i.toNat, 0)]
  | .jalr d a i => enc32 0x9A000000 [(d.toNat, 18), (a.toNat, 11), (i.toNat, 0)]
  | .beq a b x => enc32 0x9C000000 [(a.toNat, 18), (b.toNat, 11), (x.toNat, 0)]
  | .bne a b x => enc32 0x9E000000 [(a.toNat, 18), (b.toNat, 11), (x.toNat, 0)]
  | .blt a b x => enc32 0xA0000000 [(a.toNat, 18), (b.toNat, 11), (x.toNat, 0)]
  | .bge a b x => enc32 0xA2000000 [(a.toNat, 18), (b.toNat, 11), (x.toNat, 0)]
  | .bltZ a b x => enc32 0xA4000000 [(a.toNat, 18), (b.toNat, 11), (x.toNat, 0)]
  | .bgeZ a b x => enc32 0xA6000000 [(a.toNat, 18), (b.toNat, 11), (x.toNat, 0)]
  | .ldB d n i => enc32 0xA8000000 [(d.toNat, 18), (n.toNat, 11), (i.toNat, 0)]
  | .ldH d n i => enc32 0xA8000100 [(d.toNat, 18), (n.toNat, 11), (i.toNat, 0)]
  | .ldW d n i => enc32 0xA8000200 [(d.toNat, 18), (n.toNat, 11), (i.toNat, 0)]
  | .ldD d n i => enc32 0xA8000300 [(d.toNat, 18), (n.toNat, 11), (i.toNat, 0)]
  | .ldBZ d n i => enc32 0xA8000400 [(d.toNat, 18), (n.toNat, 11), (i.toNat, 0)]
  | .ldHZ d n i => enc32 0xA8000500 [(d.toNat, 18), (n.toNat, 11), (i.toNat, 0)]
  | .ldWZ d n i => enc32 0xA8000600 [(d.toNat, 18), (n.toNat, 11), (i.toNat, 0)]
  | .stB d n i => enc32 0xAA000000 [(d.toNat, 18), (n.toNat, 11), (i.toNat, 0)]
  | .stH d n i => enc32 0xAA000100 [(d.toNat, 18), (n.toNat, 11), (i.toNat, 0)]
  | .stW d n i => enc32 0xAA000200 [(d.toNat, 18), (n.toNat, 11), (i.toNat, 0)]
  | .stD d n i => enc32 0xAA000300 [(d.toNat, 18), (n.toNat, 11), (i.toNat, 0)]
  | .ldp d n p => enc32 0xAC000000 [(d.toNat, 18), (n.toNat, 11), (p.toNat, 4)]
  | .stp d n p => enc32 0xAC000001 [(d.toNat, 18), (n.toNat, 11), (p.toNat, 4)]
  | .ldC d n m => enc32 0xAC000002 [(d.toNat, 18), (n.toNat, 11), (m.toNat, 4)]
  | .ldSync d n => enc32 0xAE000000 [(d.toNat, 18), (n.toNat, 11)]
  | .ldTake d n => enc32 0xAE000001 [(d.toNat, 18), (n.toNat, 11)]
  | .stFill d n => enc32 0xAE000002 [(d.toNat, 18), (n.toNat, 11)]
  | .stWfill d n => enc32 0xAE000003 [(d.toNat, 18), (n.toNat, 11)]
  | .feClr n => enc32 0xAE000004 [(n.toNat, 11)]
  | .feSet n => enc32 0xAE000005 [(n.toNat, 11)]
  | .lrw d a => enc32 0xB0000000 [(d.toNat, 18), (a.toNat, 11)]
  | .scq d a b => enc32 0xB0000001 [(d.toNat, 18), (a.toNat, 11), (b.toNat, 4)]
  | .rsvDrop a => enc32 0xB0000002 [(a.toNat, 11)]
  | .amoAdd d a b => enc32 0xB0000003 [(d.toNat, 18), (a.toNat, 11), (b.toNat, 4)]
  | .amoAnd d a b => enc32 0xB0000004 [(d.toNat, 18), (a.toNat, 11), (b.toNat, 4)]
  | .amoOr d a b => enc32 0xB0000005 [(d.toNat, 18), (a.toNat, 11), (b.toNat, 4)]
  | .amoXor d a b => enc32 0xB0000006 [(d.toNat, 18), (a.toNat, 11), (b.toNat, 4)]
  | .amoMin d a b => enc32 0xB0000007 [(d.toNat, 18), (a.toNat, 11), (b.toNat, 4)]
  | .amoMax d a b => enc32 0xB0000008 [(d.toNat, 18), (a.toNat, 11), (b.toNat, 4)]
  | .amoMinZ d a b => enc32 0xB0000009 [(d.toNat, 18), (a.toNat, 11), (b.toNat, 4)]
  | .amoMaxZ d a b => enc32 0xB000000A [(d.toNat, 18), (a.toNat, 11), (b.toNat, 4)]
  | .amoSwp d a b => enc32 0xB000000B [(d.toNat, 18), (a.toNat, 11), (b.toNat, 4)]
  | .amoCas d a b => enc32 0xB000000C [(d.toNat, 18), (a.toNat, 11), (b.toNat, 4)]
  | .amoFadd d a b => enc32 0xB000000D [(d.toNat, 18), (a.toNat, 11), (b.toNat, 4)]
  | .detOpen a b => enc32 0xB000000E [(a.toNat, 11), (b.toNat, 4)]
  | .detDone a => enc32 0xB000000F [(a.toNat, 11)]
  | .fence c => enc32 0xB2000000 [(c.code, 0)]
  | .acq c => enc32 0xB2000100 [(c.code, 0)]
  | .rel c => enc32 0xB2000200 [(c.code, 0)]
  | .fenceC c => enc32 0xB2000300 [(c.code, 0)]
  | .lockL d a => enc32 0xB4000000 [(d.toNat, 18), (a.toNat, 11)]
  | .unlockL a => enc32 0xB4000100 [(a.toNat, 11)]
  | .bind d a b => enc32 0xB6000000 [(d.toNat, 18), (a.toNat, 11), (b.code, 4)]
  | .unbind a => enc32 0xB6000001 [(a.toNat, 11)]
  | .agSet d a => enc32 0xB6000002 [(d.toNat, 18), (a.toNat, 11)]
  | .agGet d a b => enc32 0xB6000003 [(d.toNat, 18), (a.toNat, 11), (b.toNat, 4)]
  | .fadd d a b => enc32 0xB8000000 [(d.toNat, 18), (a.toNat, 11), (b.toNat, 4)]
  | .fsub d a b => enc32 0xB8000001 [(d.toNat, 18), (a.toNat, 11), (b.toNat, 4)]
  | .fmul d a b => enc32 0xB8000002 [(d.toNat, 18), (a.toNat, 11), (b.toNat, 4)]
  | .fdiv d a b => enc32 0xB8000003 [(d.toNat, 18), (a.toNat, 11), (b.toNat, 4)]
  | .fsqrt d a => enc32 0xB8000004 [(d.toNat, 18), (a.toNat, 11)]
  | .fmin d a b => enc32 0xB8000005 [(d.toNat, 18), (a.toNat, 11), (b.toNat, 4)]
  | .fmax d a b => enc32 0xB8000006 [(d.toNat, 18), (a.toNat, 11), (b.toNat, 4)]
  | .feq d a b => enc32 0xB8000007 [(d.toNat, 18), (a.toNat, 11), (b.toNat, 4)]
  | .flt d a b => enc32 0xB8000008 [(d.toNat, 18), (a.toNat, 11), (b.toNat, 4)]
  | .fle d a b => enc32 0xB8000009 [(d.toNat, 18), (a.toNat, 11), (b.toNat, 4)]
  | .fclass d a => enc32 0xB800000A [(d.toNat, 18), (a.toNat, 11)]
  | .fabs d a => enc32 0xB800000B [(d.toNat, 18), (a.toNat, 11)]
  | .fneg d a => enc32 0xB800000C [(d.toNat, 18), (a.toNat, 11)]
  | .fsgnj d a b => enc32 0xB800000D [(d.toNat, 18), (a.toNat, 11), (b.toNat, 4)]
  | .fmadd d a b => enc32 0xBA000000 [(d.toNat, 18), (a.toNat, 11), (b.toNat, 4)]
  | .fmsub d a b => enc32 0xBA000001 [(d.toNat, 18), (a.toNat, 11), (b.toNat, 4)]
  | .fnmadd d a b => enc32 0xBA000002 [(d.toNat, 18), (a.toNat, 11), (b.toNat, 4)]
  | .fnmsub d a b => enc32 0xBA000003 [(d.toNat, 18), (a.toNat, 11), (b.toNat, 4)]
  | .cvt d a r t s => enc32 0xBC000000 [(d.toNat, 18), (a.toNat, 11), (r.code, 8), (t.code, 4), (s.code, 0)]
  | .exp2 d a => enc32 0xBE000000 [(d.toNat, 18), (a.toNat, 11)]
  | .log2 d a => enc32 0xBE000001 [(d.toNat, 18), (a.toNat, 11)]
  | .rcp d a => enc32 0xBE000002 [(d.toNat, 18), (a.toNat, 11)]
  | .rsqrt d a => enc32 0xBE000003 [(d.toNat, 18), (a.toNat, 11)]
  | .sin d a => enc32 0xBE000004 [(d.toNat, 18), (a.toNat, 11)]
  | .cos d a => enc32 0xBE000005 [(d.toNat, 18), (a.toNat, 11)]
  | .sint d a => enc32 0xBE000006 [(d.toNat, 18), (a.toNat, 11)]
  | .cost d a => enc32 0xBE000007 [(d.toNat, 18), (a.toNat, 11)]
  | .tanh d a => enc32 0xBE000008 [(d.toNat, 18), (a.toNat, 11)]
  | .sigm d a => enc32 0xBE000009 [(d.toNat, 18), (a.toNat, 11)]
  | .erf d a => enc32 0xBE00000A [(d.toNat, 18), (a.toNat, 11)]
  | .wadd w a b k t => enc32 0xC0000000 [(w.toNat, 21), (a.toNat, 17), (b.toNat, 13), (k.toNat, 10), (t.code, 6)]
  | .wsub w a b k t => enc32 0xC0000001 [(w.toNat, 21), (a.toNat, 17), (b.toNat, 13), (k.toNat, 10), (t.code, 6)]
  | .wmul w a b k t => enc32 0xC0000002 [(w.toNat, 21), (a.toNat, 17), (b.toNat, 13), (k.toNat, 10), (t.code, 6)]
  | .wmulh w a b k t => enc32 0xC0000003 [(w.toNat, 21), (a.toNat, 17), (b.toNat, 13), (k.toNat, 10), (t.code, 6)]
  | .wmin w a b k t => enc32 0xC0000004 [(w.toNat, 21), (a.toNat, 17), (b.toNat, 13), (k.toNat, 10), (t.code, 6)]
  | .wmax w a b k t => enc32 0xC0000005 [(w.toNat, 21), (a.toNat, 17), (b.toNat, 13), (k.toNat, 10), (t.code, 6)]
  | .wabs w a k t => enc32 0xC0000006 [(w.toNat, 21), (a.toNat, 17), (k.toNat, 10), (t.code, 6)]
  | .wavg w a b k t => enc32 0xC0000007 [(w.toNat, 21), (a.toNat, 17), (b.toNat, 13), (k.toNat, 10), (t.code, 6)]
  | .wsll w a b k t => enc32 0xC0000008 [(w.toNat, 21), (a.toNat, 17), (b.toNat, 13), (k.toNat, 10), (t.code, 6)]
  | .wsrl w a b k t => enc32 0xC0000009 [(w.toNat, 21), (a.toNat, 17), (b.toNat, 13), (k.toNat, 10), (t.code, 6)]
  | .wsra w a b k t => enc32 0xC000000A [(w.toNat, 21), (a.toNat, 17), (b.toNat, 13), (k.toNat, 10), (t.code, 6)]
  | .wand w a b k t => enc32 0xC000000B [(w.toNat, 21), (a.toNat, 17), (b.toNat, 13), (k.toNat, 10), (t.code, 6)]
  | .wor w a b k t => enc32 0xC000000C [(w.toNat, 21), (a.toNat, 17), (b.toNat, 13), (k.toNat, 10), (t.code, 6)]
  | .wxor w a b k t => enc32 0xC000000D [(w.toNat, 21), (a.toNat, 17), (b.toNat, 13), (k.toNat, 10), (t.code, 6)]
  | .wandn w a b k t => enc32 0xC000000E [(w.toNat, 21), (a.toNat, 17), (b.toNat, 13), (k.toNat, 10), (t.code, 6)]
  | .wadds w a b k t => enc32 0xC000000F [(w.toNat, 21), (a.toNat, 17), (b.toNat, 13), (k.toNat, 10), (t.code, 6)]
  | .wfadd w a b k t => enc32 0xC2000000 [(w.toNat, 21), (a.toNat, 17), (b.toNat, 13), (k.toNat, 10), (t.code, 6)]
  | .wfsub w a b k t => enc32 0xC2000001 [(w.toNat, 21), (a.toNat, 17), (b.toNat, 13), (k.toNat, 10), (t.code, 6)]
  | .wfmul w a b k t => enc32 0xC2000002 [(w.toNat, 21), (a.toNat, 17), (b.toNat, 13), (k.toNat, 10), (t.code, 6)]
  | .wfma w a b k t => enc32 0xC2000003 [(w.toNat, 21), (a.toNat, 17), (b.toNat, 13), (k.toNat, 10), (t.code, 6)]
  | .wfmin w a b k t => enc32 0xC2000004 [(w.toNat, 21), (a.toNat, 17), (b.toNat, 13), (k.toNat, 10), (t.code, 6)]
  | .wfmax w a b k t => enc32 0xC2000005 [(w.toNat, 21), (a.toNat, 17), (b.toNat, 13), (k.toNat, 10), (t.code, 6)]
  | .wfabs w a k t => enc32 0xC2000006 [(w.toNat, 21), (a.toNat, 17), (k.toNat, 10), (t.code, 6)]
  | .wfneg w a k t => enc32 0xC2000007 [(w.toNat, 21), (a.toNat, 17), (k.toNat, 10), (t.code, 6)]
  | .wcmpeq d a b k t => enc32 0xC4000000 [(d.toNat, 21), (a.toNat, 17), (b.toNat, 13), (k.toNat, 10), (t.code, 6)]
  | .wcmplt d a b k t => enc32 0xC4000001 [(d.toNat, 21), (a.toNat, 17), (b.toNat, 13), (k.toNat, 10), (t.code, 6)]
  | .wcmple d a b k t => enc32 0xC4000002 [(d.toNat, 21), (a.toNat, 17), (b.toNat, 13), (k.toNat, 10), (t.code, 6)]
  | .wfcmpeq d a b k t => enc32 0xC4000003 [(d.toNat, 21), (a.toNat, 17), (b.toNat, 13), (k.toNat, 10), (t.code, 6)]
  | .wfcmplt d a b k t => enc32 0xC4000004 [(d.toNat, 21), (a.toNat, 17), (b.toNat, 13), (k.toNat, 10), (t.code, 6)]
  | .wfcmple d a b k t => enc32 0xC4000005 [(d.toNat, 21), (a.toNat, 17), (b.toNat, 13), (k.toNat, 10), (t.code, 6)]
  | .kand d a b => enc32 0xC4000006 [(d.toNat, 21), (a.toNat, 17), (b.toNat, 13)]
  | .kor d a b => enc32 0xC4000007 [(d.toNat, 21), (a.toNat, 17), (b.toNat, 13)]
  | .kxor d a b => enc32 0xC4000008 [(d.toNat, 21), (a.toNat, 17), (b.toNat, 13)]
  | .knot d a => enc32 0xC4000009 [(d.toNat, 21), (a.toNat, 17)]
  | .kpop d a => enc32 0xC400000A [(d.toNat, 21), (a.toNat, 17)]
  | .wbcast w a k t => enc32 0xC6000000 [(w.toNat, 21), (a.toNat, 17), (k.toNat, 10), (t.code, 6)]
  | .wins w a b t => enc32 0xC6000001 [(w.toNat, 21), (a.toNat, 17), (b.toNat, 13), (t.code, 6)]
  | .wext d a b t => enc32 0xC6000002 [(d.toNat, 21), (a.toNat, 17), (b.toNat, 13), (t.code, 6)]
  | .wshuf w a b k t => enc32 0xC6000003 [(w.toNat, 21), (a.toNat, 17), (b.toNat, 13), (k.toNat, 10), (t.code, 6)]
  | .wrot w a b k t => enc32 0xC6000004 [(w.toNat, 21), (a.toNat, 17), (b.toNat, 13), (k.toNat, 10), (t.code, 6)]
  | .wzip w a b k t => enc32 0xC6000005 [(w.toNat, 21), (a.toNat, 17), (b.toNat, 13), (k.toNat, 10), (t.code, 6)]
  | .wunzip w a k t => enc32 0xC6000006 [(w.toNat, 21), (a.toNat, 17), (k.toNat, 10), (t.code, 6)]
  | .wsel w a b k t => enc32 0xC6000007 [(w.toNat, 21), (a.toNat, 17), (b.toNat, 13), (k.toNat, 10), (t.code, 6)]
  | .wrsum d a k t => enc32 0xC8000000 [(d.toNat, 21), (a.toNat, 17), (k.toNat, 10), (t.code, 6)]
  | .wrmin d a k t => enc32 0xC8000001 [(d.toNat, 21), (a.toNat, 17), (k.toNat, 10), (t.code, 6)]
  | .wrmax d a k t => enc32 0xC8000002 [(d.toNat, 21), (a.toNat, 17), (k.toNat, 10), (t.code, 6)]
  | .wrfsum d a k t => enc32 0xC8000003 [(d.toNat, 21), (a.toNat, 17), (k.toNat, 10), (t.code, 6)]
  | .wrfmin d a k t => enc32 0xC8000004 [(d.toNat, 21), (a.toNat, 17), (k.toNat, 10), (t.code, 6)]
  | .wrfmax d a k t => enc32 0xC8000005 [(d.toNat, 21), (a.toNat, 17), (k.toNat, 10), (t.code, 6)]
  | .wcvt w a s k t => enc32 0xCA000000 [(w.toNat, 21), (a.toNat, 17), (s.code, 13), (k.toNat, 10), (t.code, 6)]
  | .wnarrow w a b k t => enc32 0xCA000001 [(w.toNat, 21), (a.toNat, 17), (b.toNat, 13), (k.toNat, 10), (t.code, 6)]
  | .wwiden w a h k t => enc32 0xCA000002 [(w.toNat, 21), (a.toNat, 17), (h.toNat, 13), (k.toNat, 10), (t.code, 6)]
  | .wenc w a t => enc32 0xCA000003 [(w.toNat, 21), (a.toNat, 17), (t.code, 6)]
  | .wdec w a g t => enc32 0xCA000004 [(w.toNat, 21), (a.toNat, 17), (g.toNat, 13), (t.code, 6)]
  | .wld w n i => enc32 0xCC000000 [(w.toNat, 18), (n.toNat, 11), (i.toNat, 0)]
  | .wst w n i => enc32 0xCC000100 [(w.toNat, 18), (n.toNat, 11), (i.toNat, 0)]
  | .wldSync w n i => enc32 0xCC000200 [(w.toNat, 18), (n.toNat, 11), (i.toNat, 0)]
  | .wstFill w n i => enc32 0xCC000300 [(w.toNat, 18), (n.toNat, 11), (i.toNat, 0)]
  | .gangForm a n => enc32 0xCE000000 [(a.toNat, 11), (n.toNat, 0)]
  | .gangEnd => enc32 0xCE000100 []
  | .gangBar => enc32 0xCE000200 []
  | .push w h e => enc32 0xD0000000 [(w.toNat, 21), (h.toNat, 20), (e.code, 18)]
  | .pushm e a i => enc32 0xD0000100 [(e.code, 18), (a.toNat, 11), (i.toNat, 0)]
  | .engWait e d => enc32 0xD0000200 [(e.code, 18), (d.toNat, 11)]
  | .engPoll e d => enc32 0xD0000300 [(e.code, 18), (d.toNat, 11)]
  | .tcfgSet a n => enc32 0xD2000000 [(a.toNat, 11), (n.toNat, 0)]
  | .tcfgGet d n => enc32 0xD2000100 [(d.toNat, 18), (n.toNat, 0)]
  | .accLoad a t => enc32 0xD2000200 [(a.toNat, 11), (t.toNat, 0)]
  | .msgSend a b => enc32 0xD4000000 [(a.toNat, 11), (b.toNat, 4)]
  | .msgSendw a b => enc32 0xD4000001 [(a.toNat, 11), (b.toNat, 4)]
  | .msgBind d m n c => enc32 0xD4000002 [(d.toNat, 18), (m.toNat, 10), (n.toNat, 8), (c.toNat, 4)]
  | .msgWait c => enc32 0xD4000003 [(c.toNat, 4)]
  | .taskPush a => enc32 0xD6000000 [(a.toNat, 11)]
  | .taskSend a b => enc32 0xD6000001 [(a.toNat, 11), (b.toNat, 4)]
  | .retire => enc32 0xD6000002 []
  | .retireS a b => enc32 0xD6000003 [(a.toNat, 11), (b.toNat, 4)]
  | .taskAbort => enc32 0xD6000004 []
  | .tstamp d => enc32 0xD6000005 [(d.toNat, 18)]
  | .detList a b => enc32 0xD6000006 [(a.toNat, 11), (b.toNat, 4)]
  | .detWait a b => enc32 0xD6000007 [(a.toNat, 11), (b.toNat, 4)]
  | .thrSpawn d a => enc32 0xD8000000 [(d.toNat, 18), (a.toNat, 11)]
  | .thrExit => enc32 0xD8000100 []
  | .thrPark => enc32 0xD8000200 []
  | .thrWake a => enc32 0xD8000300 [(a.toNat, 11)]
  | .barInit a b => enc32 0xDA000000 [(a.toNat, 11), (b.toNat, 4)]
  | .barArr a => enc32 0xDA000001 [(a.toNat, 11)]
  | .barWait a => enc32 0xDA000002 [(a.toNat, 11)]
  | .barAw a => enc32 0xDA000003 [(a.toNat, 11)]
  | .redSend a t p => enc32 0xDA000004 [(a.toNat, 11), (t.toNat, 6), (p.toNat, 4)]
  | .redRecv w => enc32 0xDA000005 [(w.toNat, 18)]
  | .nestSet a b => enc32 0xDC000000 [(a.toNat, 11), (b.toNat, 4)]
  | .nestClaim d a => enc32 0xDC000001 [(d.toNat, 18), (a.toNat, 11)]
  | .nestNext d => enc32 0xDC000002 [(d.toNat, 18)]
  | .nestEnd a => enc32 0xDC000003 [(a.toNat, 11)]
  | .ctxOpen d a => enc32 0xDE000000 [(d.toNat, 18), (a.toNat, 11)]
  | .ctxClose a => enc32 0xDE000001 [(a.toNat, 11)]
  | .editIns d a b => enc32 0xDE000002 [(d.toNat, 18), (a.toNat, 11), (b.toNat, 4)]
  | .editDel d a => enc32 0xDE000003 [(d.toNat, 18), (a.toNat, 11)]
  | .editChg d a b => enc32 0xDE000004 [(d.toNat, 18), (a.toNat, 11), (b.toNat, 4)]
  | .ctxFork d a b => enc32 0xDE000005 [(d.toNat, 18), (a.toNat, 11), (b.toNat, 4)]
  | .ctxRope d a b => enc32 0xDE000006 [(d.toNat, 18), (a.toNat, 11), (b.toNat, 4)]
  | .dmapGet d a => enc32 0xE0000000 [(d.toNat, 18), (a.toNat, 11)]
  | .dmapMov a b => enc32 0xE0000001 [(a.toNat, 11), (b.toNat, 4)]
  | .settle a b => enc32 0xE0000002 [(a.toNat, 11), (b.toNat, 4)]
  | .ctxRd d a b => enc32 0xE0000003 [(d.toNat, 18), (a.toNat, 11), (b.toNat, 4)]
  | .ctxRel a => enc32 0xE0000004 [(a.toNat, 11)]
  | .beamMap a b => enc32 0xE0000005 [(a.toNat, 11), (b.toNat, 4)]
  | .ptbFill a b => enc32 0xE0000006 [(a.toNat, 11), (b.toNat, 4)]
  | .ptbInv a => enc32 0xE0000007 [(a.toNat, 11)]
  | .posXl d a b => enc32 0xE0000008 [(d.toNat, 18), (a.toNat, 11), (b.toNat, 4)]
  | .mfs d s => enc32 0xE2000000 [(d.toNat, 18), (s.code, 0)]
  | .mts d s => enc32 0xE2000800 [(d.toNat, 18), (s.code, 0)]
  | .trap e => enc32 0xE2001000 [(e.toNat, 0)]
  | .hret => enc32 0xE2001800 []
  | .tret => enc32 0xE2002000 []
  | .hcall d n => enc32 0xE2002800 [(d.toNat, 18), (n.toNat, 0)]
  | .nop => enc32 0xE2003000 []
  | .wfe => enc32 0xE2003800 []
  | .tlbInv d a => enc32 0xE4000000 [(d.toNat, 18), (a.toNat, 11)]
  | .tlbAll a => enc32 0xE4000100 [(a.toNat, 11)]
  | .tlbAllPart => enc32 0xE4000101 []
  | .istInv a => enc32 0xE4000200 [(a.toNat, 11)]
  | .klog a c => enc32 0xE4000300 [(a.toNat, 11), (c.toNat, 0)]
  | .tsave a n => enc32 0xE4000400 [(a.toNat, 11), (n.toNat, 0)]
  | .trest d a => enc32 0xE4000500 [(d.toNat, 18), (a.toNat, 11)]
  | .cMv d a => enc16 0x0000 [(d.toNat, 7), (a.toNat, 3)]
  | .cAdd d a => enc16 0x0800 [(d.toNat, 7), (a.toNat, 3)]
  | .cSub d a => enc16 0x1000 [(d.toNat, 7), (a.toNat, 3)]
  | .cAddi d i => enc16 0x1800 [(d.toNat, 7), (i.toNat, 0)]
  | .cLi d i => enc16 0x2000 [(d.toNat, 7), (i.toNat, 0)]
  | .cLdW d a i => enc16 0x2800 [(d.toNat, 7), (a.toNat, 3), (i.toNat, 0)]
  | .cLdD d a i => enc16 0x3000 [(d.toNat, 7), (a.toNat, 3), (i.toNat, 0)]
  | .cStW d a i => enc16 0x3800 [(d.toNat, 7), (a.toNat, 3), (i.toNat, 0)]
  | .cStD d a i => enc16 0x4000 [(d.toNat, 7), (a.toNat, 3), (i.toNat, 0)]
  | .cAnd d a => enc16 0x4800 [(d.toNat, 7), (a.toNat, 3)]
  | .cSll d i => enc16 0x5000 [(d.toNat, 7), (i.toNat, 0)]
  | .cBeqz a o => enc16 0x5800 [(a.toNat, 7), (o.toNat, 0)]
  | .cBnez a o => enc16 0x6000 [(a.toNat, 7), (o.toNat, 0)]
  | .cJ o => enc16 0x6800 [(o.toNat, 0)]
  | .cRet a => enc16 0x7000 [(a.toNat, 7)]
  | .cNop => enc16 0x7800 []
  | .mxMma tag sf bsgn asgn rows tile lso stride k wbo bstride ascl => encCmd 0x10000000 [(sf.toNat, 16), (tag.toNat, 0), (bsgn.toNat, 49), (asgn.toNat, 48), (rows.toNat, 40), (tile.toNat, 32), (lso.toNat, 64), (stride.toNat, 96), (k.toNat, 128), (wbo.toNat, 160), (bstride.toNat, 192), (ascl.toNat, 224)]
  | .mxLdb tag addr wbo len => encCmd 0x10100000 [(tag.toNat, 0), (addr.toNat, 32), (wbo.toNat, 96), (len.toNat, 128)]
  | .mxLdt tag sf type rows tile lso stride => encCmd 0x10200000 [(sf.toNat, 16), (tag.toNat, 0), (type.toNat, 48), (rows.toNat, 40), (tile.toNat, 32), (lso.toNat, 64), (stride.toNat, 96)]
  | .mxStt tag sf gf cf type rows tile cmp dst stride thr => encCmd 0x10300000 [(sf.toNat, 16), (gf.toNat, 17), (cf.toNat, 18), (tag.toNat, 0), (type.toNat, 48), (rows.toNat, 40), (tile.toNat, 32), (cmp.toNat, 64), (dst.toNat, 128), (stride.toNat, 192), (thr.toNat, 224)]
  | .mxZero tag tiles => encCmd 0x10400000 [(tag.toNat, 0), (tiles.toNat, 32)]
  | .mxQk tag sf desc => encCmd 0x10500000 [(sf.toNat, 16), (tag.toNat, 0), (desc.toNat, 64)]
  | .mxPv tag sf tile desc => encCmd 0x10600000 [(sf.toNat, 16), (tag.toNat, 0), (tile.toNat, 32), (desc.toNat, 64)]
  | .vxMap tag sf v => encCmd 0x20000000 [(sf.toNat, 16), (tag.toNat, 0), (v.n.toNat, 32), (v.dst.toNat, 64), (v.a.toNat, 96), (v.b.toNat, 128), (v.ctl.toNat, 160), (v.x.toNat, 192), (v.y.toNat, 224)]
  | .vxFma tag sf v => encCmd 0x20100000 [(sf.toNat, 16), (tag.toNat, 0), (v.n.toNat, 32), (v.dst.toNat, 64), (v.a.toNat, 96), (v.b.toNat, 128), (v.ctl.toNat, 160), (v.x.toNat, 192), (v.y.toNat, 224)]
  | .vxRed tag sf v => encCmd 0x20200000 [(sf.toNat, 16), (tag.toNat, 0), (v.n.toNat, 32), (v.dst.toNat, 64), (v.a.toNat, 96), (v.b.toNat, 128), (v.ctl.toNat, 160), (v.x.toNat, 192), (v.y.toNat, 224)]
  | .vxExpsum tag sf v => encCmd 0x20300000 [(sf.toNat, 16), (tag.toNat, 0), (v.n.toNat, 32), (v.dst.toNat, 64), (v.a.toNat, 96), (v.b.toNat, 128), (v.ctl.toNat, 160), (v.x.toNat, 192), (v.y.toNat, 224)]
  | .vxNorm tag sf v => encCmd 0x20400000 [(sf.toNat, 16), (tag.toNat, 0), (v.n.toNat, 32), (v.dst.toNat, 64), (v.a.toNat, 96), (v.b.toNat, 128), (v.ctl.toNat, 160), (v.x.toNat, 192), (v.y.toNat, 224)]
  | .vxRequant tag sf v => encCmd 0x20500000 [(sf.toNat, 16), (tag.toNat, 0), (v.n.toNat, 32), (v.dst.toNat, 64), (v.a.toNat, 96), (v.b.toNat, 128), (v.ctl.toNat, 160), (v.x.toNat, 192), (v.y.toNat, 224)]
  | .vxCmpst tag sf n a thr cmp dst => encCmd 0x20600000 [(sf.toNat, 16), (tag.toNat, 0), (n.toNat, 32), (a.toNat, 64), (thr.toNat, 96), (cmp.toNat, 128), (dst.toNat, 192)]
  | .vxTopk tag sf v => encCmd 0x20700000 [(sf.toNat, 16), (tag.toNat, 0), (v.n.toNat, 32), (v.dst.toNat, 64), (v.a.toNat, 96), (v.b.toNat, 128), (v.ctl.toNat, 160), (v.x.toNat, 192), (v.y.toNat, 224)]
  | .vxKsum tag sf v => encCmd 0x20800000 [(sf.toNat, 16), (tag.toNat, 0), (v.n.toNat, 32), (v.dst.toNat, 64), (v.a.toNat, 96), (v.b.toNat, 128), (v.ctl.toNat, 160), (v.x.toNat, 192), (v.y.toNat, 224)]
  | .vxCvt tag sf v => encCmd 0x20900000 [(sf.toNat, 16), (tag.toNat, 0), (v.n.toNat, 32), (v.dst.toNat, 64), (v.a.toNat, 96), (v.b.toNat, 128), (v.ctl.toNat, 160), (v.x.toNat, 192), (v.y.toNat, 224)]
  | .cpCopy tag sf ff tf src dst len shape => encCmd 0x30000000 [(sf.toNat, 16), (ff.toNat, 17), (tf.toNat, 18), (tag.toNat, 0), (src.toNat, 32), (dst.toNat, 96), (len.toNat, 160), (shape.toNat, 192)]
  | .cpGather tag sf ff tf src dst idx n esz => encCmd 0x30100000 [(sf.toNat, 16), (ff.toNat, 17), (tf.toNat, 18), (tag.toNat, 0), (src.toNat, 32), (dst.toNat, 96), (idx.toNat, 160), (n.toNat, 192), (esz.toNat, 224)]
  | .cpScatter tag sf ff tf src dst idx n esz => encCmd 0x30200000 [(sf.toNat, 16), (ff.toNat, 17), (tf.toNat, 18), (tag.toNat, 0), (src.toNat, 32), (dst.toNat, 96), (idx.toNat, 160), (n.toNat, 192), (esz.toNat, 224)]
  | .cpFill tag tf ef dst len pat => encCmd 0x30300000 [(tf.toNat, 18), (ef.toNat, 19), (tag.toNat, 0), (dst.toNat, 32), (len.toNat, 96), (pat.toNat, 128)]
  | .cpPut tag sf ff dev raddr laddr len => encCmd 0x30400000 [(sf.toNat, 16), (ff.toNat, 17), (tag.toNat, 0), (dev.toNat, 32), (raddr.toNat, 64), (laddr.toNat, 128), (len.toNat, 192)]
  | .cpGet tag sf ff dev raddr laddr len => encCmd 0x30500000 [(sf.toNat, 16), (ff.toNat, 17), (tag.toNat, 0), (dev.toNat, 32), (raddr.toNat, 64), (laddr.toNat, 128), (len.toNat, 192)]
  | .cpAmo tag sf dev raddr op lso => encCmd 0x30600000 [(sf.toNat, 16), (tag.toNat, 0), (dev.toNat, 32), (raddr.toNat, 64), (op.toNat, 128), (lso.toNat, 160)]
  | .cpIst tag core src iso len => encCmd 0x30700000 [(tag.toNat, 0), (core.toNat, 32), (src.toNat, 64), (iso.toNat, 128), (len.toNat, 160)]
  | .cpFrame tag slot layer part pos cnt stamp mode dst st => encCmd 0x30800000 [(tag.toNat, 0), (slot.toNat, 32), (layer.toNat, 40), (part.toNat, 48), (pos.toNat, 64), (cnt.toNat, 96), (stamp.toNat, 128), (mode.toNat, 184), (dst.toNat, 192), (st.toNat, 224)]
  | .queueEntry _ _ => []
  | .commandCompletion _ _ => []
  | .memoryReturn _ _ => []
  | .streamElementArrival _ _ => []
  | .windowAccess _ => []
  | .sfuResult _ => []
  | .sfuDiscardBlockEnd _ => []
  | .wcbDrainTimeout _ _ => []
  | .agentAnswer _ => []
  | .hostWindowWrite _ _ _ => []
  | .messageArrival _ => []
  | .heldMessageDeposit _ _ => []
  | .launchMessage _ _ => []
  | .launchRecordPlace _ _ => []
  | .taskDispatch _ => []
  | .footprintFetchDone _ _ => []
  | .stealRequest _ => []
  | .stealBackoffEnd _ => []
  | .successorStart _ _ => []
  | .taskCommit _ => []
  | .heldEffectSend _ => []
  | .directWrite _ => []
  | .reservationGrant _ => []
  | .reservationRevoke _ => []
  | .roundOpenArrival _ => []
  | .roundUpdateArrival _ => []
  | .roundDoneArrival _ => []
  | .roundUpdateResend _ => []
  | .heldUpdateApply _ => []
  | .barrierArrival _ _ _ => []
  | .barrierWaitArrival _ _ _ => []
  | .barrierWake _ _ _ => []
  | .reductionRoundComplete _ => []
  | .directoryRead _ => []
  | .directoryOwnership _ => []
  | .forwardRequest _ _ => []
  | .invalidation _ _ => []
  | .ownershipGrant _ _ => []
  | .writeBack _ _ => []
  | .replicationEpochEnd _ => []
  | .remoteAccess _ => []
  | .hostWrite _ _ _ => []
  | .hostRead _ _ _ => []
  | .instructionStoreWrite _ _ _ => []
  | .istInvArrival _ _ => []
  | .tlbInvArrival _ => []
  | .pageWalk _ => []
  | .walkReadReturn _ _ => []
  | .editApply _ => []
  | .windowAssembly _ => []
  | .recordPush _ => []
  | .commitNotice _ _ _ => []
  | .dmapReport _ => []
  | .gangFormation _ => []
  | .forwardedInstructionArrival _ _ => []
  | .gangTrapNotice _ _ _ => []
  | .deadlockWalk => []
  | .detachedCauseStart _ => []
  | .hypervisorEvent _ => []
  | .hcallReply _ _ _ => []
  | .hypervisorPreempt _ => []
  | .deviceReset => []
  | .bootStartWrite _ => []
  | .stagingReleaseWrite => []
  | .partitionStart _ => []
  | .partitionCoreEntryWrite _ _ _ => []
  | .spaceEntryWrite _ _ _ => []
  | .detsetWrite _ _ _ => []
  | .reductionEntryWrite _ _ _ => []
  | .registerWrite _ _ _ => []
  | .powerToleranceWrite _ => []
  | .coreClockGate _ => []
  | .coreWake _ => []
  | .dieRetentionEntry _ => []
  | .dieWake _ => []
  | .partitionPowerOff _ => []
  | .partitionWake _ => []
  | .hbmRefresh _ _ => []
  | .sramEccScrub _ => []
  | .hbmPatrolScrub _ => []
  | .telemetrySample _ => []
  | .uncorrectableError _ => []
  | .retryResult _ _ => []
  | .stealReply _ _ => []
  | .hypervisorResume _ _ => []
  | .partitionEnd _ => []
  | .powerLoss => []

/-- The 256 bits of a command from its sixteen halfwords. -/
def cmdOfHalves (hs : List Half) : BitVec 256 :=
  BitVec.ofNat 256 (hs.foldr (fun h n => n * 65536 + h.toNat) 0)

/-- The instruction bits that a cause of R86 reports: a compact instruction in `[15:0]`, a 32-bit one in `[31:0]`. -/
def bitsOf (i : Instr) : Dword :=
  match encode i with
  | [h] => h.zeroExtend 64
  | [h, g] => (h ++ g).zeroExtend 64
  | _ => 0

/-- The bytes of halfwords as the instruction store holds them, little-endian (R78). -/
def bytesOfHalves : List Half → List Byte
  | [] => []
  | h :: t => h.extractLsb' 0 8 :: h.extractLsb' 8 8 :: bytesOfHalves t

/-- Halfwords from bytes, little-endian (R78). -/
def halvesOfBytes : List Byte → List Half
  | a :: b :: t => (b ++ a) :: halvesOfBytes t
  | _ => []

/-- The halfwords of a word of the opcode table: a compact row gives 16 bits, any other row 32, whose bits
`[31:16]` are the first halfword (R78). A first halfword with bit 15 set that stands alone is followed by 0.
Log 19 (DEDUCED, safe). -/
def tableHalves (nbits w : Nat) : List Half :=
  if nbits ≤ 16 then [BitVec.ofNat 16 w, 0] else [BitVec.ofNat 16 (w / 65536), BitVec.ofNat 16 w]

/-- What the decoder reads from an instruction whose bits are `w`, numbered as the opcode table numbers them,
laid out in the instruction store's byte order and read back.
Log 19 (DEDUCED, safe). -/
noncomputable def decodeTableWord (nbits w : Nat) : Option Instr :=
  match decode (halvesOfBytes (bytesOfHalves (tableHalves nbits w))) with
  | .ok (i, _) => some i
  | .error _ => none

end Sys2Proof
end

