-- ==== Sys2Proof/Machine/Event.lean ====
section
/-!
DEFINITION. The steps of the machine as plain data of their own, so that the state can list the ones that are on their way
(messages, answers, completions, outside inputs) with the cycle each is due. Each constructor mirrors the row of the same
name of `Instr`, and `Step` gives it the meaning of that row.
-/
namespace Sys2Proof.Machine

/-- A step of the machine that no encoding names: the rows QUEUE_ENTRY to POWER_LOSS of the opcode table. -/
inductive Ev where
  /-- `QUEUE_ENTRY` (R158). -/
  | queueEntry (core : Nat) (e : Engine)
  /-- `COMMAND_COMPLETION` (R159). -/
  | commandCompletion (core : Nat) (e : Engine)
  /-- `MEMORY_RETURN` (R72). -/
  | memoryReturn (w : Who) (r : Option MemReply)
  /-- `STREAM_ELEMENT_ARRIVAL` (R214). -/
  | streamElementArrival (core gen : Nat)
  /-- `WINDOW_ACCESS` (R269). -/
  | windowAccess (w : Who)
  /-- `SFU_RESULT` (R135). -/
  | sfuResult (w : Who)
  /-- `SFU_DISCARD_BLOCK_END` (R136). -/
  | sfuDiscardBlockEnd (core : Nat)
  /-- `WCB_DRAIN_TIMEOUT` (R216). -/
  | wcbDrainTimeout (w : Who) (line : Nat)
  /-- `AGENT_ANSWER` (R327). -/
  | agentAnswer (w : Who)
  /-- `HOST_WINDOW_WRITE` (R289). -/
  | hostWindowWrite (part len : Nat) (data : BitVec 512)
  /-- `MESSAGE_ARRIVAL` (R295). -/
  | messageArrival (m : Msg)
  /-- `HELD_MESSAGE_DEPOSIT` (R295). -/
  | heldMessageDeposit (core cls : Nat)
  /-- `LAUNCH_MESSAGE` (R290). -/
  | launchMessage (core : Nat) (addr : Dword)
  /-- `LAUNCH_RECORD_PLACE` (R290). -/
  | launchRecordPlace (core : Nat) (r : RecCopy)
  /-- `TASK_DISPATCH` (R293). -/
  | taskDispatch (core : Nat)
  /-- `FOOTPRINT_FETCH_DONE` (R293). -/
  | footprintFetchDone (core gid : Nat)
  /-- `STEAL_REQUEST` (R294). -/
  | stealRequest (core : Nat)
  /-- `STEAL_BACKOFF_END` (R294). -/
  | stealBackoffEnd (core : Nat)
  /-- `SUCCESSOR_START` (R300). -/
  | successorStart (core gid : Nat)
  /-- `TASK_COMMIT` (R224). -/
  | taskCommit (die : Nat)
  /-- `HELD_EFFECT_SEND` (R229). -/
  | heldEffectSend (core : Nat)
  /-- `DIRECT_WRITE` (R226). -/
  | directWrite (d : DWrite)
  /-- `RESERVATION_GRANT` (R235). -/
  | reservationGrant (word : Nat)
  /-- `RESERVATION_REVOKE` (R235). -/
  | reservationRevoke (word : Nat)
  /-- `ROUND_OPEN_ARRIVAL` (R197). -/
  | roundOpenArrival (r : RoundMsg)
  /-- `ROUND_UPDATE_ARRIVAL` (R200). -/
  | roundUpdateArrival (r : RoundMsg)
  /-- `ROUND_DONE_ARRIVAL` (R198). -/
  | roundDoneArrival (r : RoundMsg)
  /-- `ROUND_UPDATE_RESEND` (R200). -/
  | roundUpdateResend (r : RoundMsg)
  /-- `HELD_UPDATE_APPLY` (R200). -/
  | heldUpdateApply (line : Nat)
  /-- `BARRIER_ARRIVAL` (R297). -/
  | barrierArrival (cluster bar : Nat) (w : Who)
  /-- `BARRIER_WAIT_ARRIVAL` (R297). -/
  | barrierWaitArrival (cluster bar : Nat) (w : Who)
  /-- `BARRIER_WAKE` (R297). -/
  | barrierWake (cluster bar phase : Nat)
  /-- `REDUCTION_ROUND_COMPLETE` (R298). -/
  | reductionRoundComplete (die : Nat)
  /-- `DIRECTORY_READ` (R240). -/
  | directoryRead (r : DirReq)
  /-- `DIRECTORY_OWNERSHIP` (R240). -/
  | directoryOwnership (r : DirReq)
  /-- `FORWARD_REQUEST` (R242). -/
  | forwardRequest (die line : Nat)
  /-- `INVALIDATION` (R241). -/
  | invalidation (die line : Nat)
  /-- `OWNERSHIP_GRANT` (R241). -/
  | ownershipGrant (die line : Nat)
  /-- `WRITE_BACK` (R240). -/
  | writeBack (die : Nat) (lw : LineWrite)
  /-- `REPLICATION_EPOCH_END` (R246). -/
  | replicationEpochEnd (die : Nat)
  /-- `REMOTE_ACCESS` (R251). -/
  | remoteAccess (a : RemoteOp)
  /-- `HOST_WRITE` (R252). -/
  | hostWrite (part : Nat) (addr : Nat) (bytes : List Byte)
  /-- `HOST_READ` (R372). -/
  | hostRead (part : Nat) (addr len : Nat)
  /-- `INSTRUCTION_STORE_WRITE` (R259). -/
  | instructionStoreWrite (core unit : Nat) (data : BitVec 512)
  /-- `IST_INV_ARRIVAL` (R378). -/
  | istInvArrival (core : Nat) (w : Who)
  /-- `TLB_INV_ARRIVAL` (R377). -/
  | tlbInvArrival (m : TlbInvMsg)
  /-- `PAGE_WALK` (R370). -/
  | pageWalk (die : Nat)
  /-- `WALK_READ_RETURN` (R406). -/
  | walkReadReturn (die walker : Nat)
  /-- `EDIT_APPLY` (R313). -/
  | editApply (e : EditReq)
  /-- `WINDOW_ASSEMBLY` (R318). -/
  | windowAssembly (p : PlaceId)
  /-- `RECORD_PUSH` (R318). -/
  | recordPush (p : PlaceId)
  /-- `COMMIT_NOTICE` (R318). -/
  | commitNotice (ctx : Nat) (recAddr : Dword) (succ : Option Dword)
  /-- `DMAP_REPORT` (R319). -/
  | dmapReport (r : ReportMsg)
  /-- `GANG_FORMATION` (R152). -/
  | gangFormation (leader : Who)
  /-- `FORWARDED_INSTRUCTION_ARRIVAL` (R153). -/
  | forwardedInstructionArrival (w : Who) (f : FwdInstr)
  /-- `GANG_TRAP_NOTICE` (R157). -/
  | gangTrapNotice (leader : Who) (member : Nat) (cause : Nat)
  /-- `DEADLOCK_WALK` (R307). -/
  | deadlockWalk
  /-- `DETACHED_CAUSE_START` (R385). -/
  | detachedCauseStart (core : Nat)
  /-- `HYPERVISOR_EVENT` (R386). -/
  | hypervisorEvent (e : HEvent)
  /-- `HCALL_REPLY` (R392). -/
  | hcallReply (w : Who) (status result : Dword)
  /-- `HYPERVISOR_PREEMPT` (R395). -/
  | hypervisorPreempt (w : Who)
  /-- `DEVICE_RESET` (R360). -/
  | deviceReset
  /-- `BOOT_START_WRITE` (R360). -/
  | bootStartWrite (p : ProvRecord)
  /-- `STAGING_RELEASE_WRITE` (R360). -/
  | stagingReleaseWrite
  /-- `PARTITION_START` (R363). -/
  | partitionStart (p : PartSpec)
  /-- `PARTITION_CORE_ENTRY_WRITE` (R366). -/
  | partitionCoreEntryWrite (part core : Nat) (v : Dword)
  /-- `SPACE_ENTRY_WRITE` (R366). -/
  | spaceEntryWrite (part space : Nat) (v : Dword)
  /-- `DETSET_WRITE` (R366). -/
  | detsetWrite (part idx : Nat) (v : Dword)
  /-- `REDUCTION_ENTRY_WRITE` (R366). -/
  | reductionEntryWrite (part core : Nat) (v : Dword)
  /-- `REGISTER_WRITE` (R366). -/
  | registerWrite (part off : Nat) (v : Dword)
  /-- `POWER_TOLERANCE_WRITE` (R399). -/
  | powerToleranceWrite (v : Word)
  /-- `CORE_CLOCK_GATE` (R399). -/
  | coreClockGate (core : Nat)
  /-- `CORE_WAKE` (R399). -/
  | coreWake (core : Nat)
  /-- `DIE_RETENTION_ENTRY` (R399). -/
  | dieRetentionEntry (die : Nat)
  /-- `DIE_WAKE` (R399). -/
  | dieWake (die : Nat)
  /-- `PARTITION_POWER_OFF` (R399). -/
  | partitionPowerOff (part : Nat)
  /-- `PARTITION_WAKE` (R399). -/
  | partitionWake (part : Nat)
  /-- `HBM_REFRESH` (R306). -/
  | hbmRefresh (die bank : Nat)
  /-- `SRAM_ECC_SCRUB` (R306). -/
  | sramEccScrub (die : Nat)
  /-- `HBM_PATROL_SCRUB` (R306). -/
  | hbmPatrolScrub (die : Nat)
  /-- `TELEMETRY_SAMPLE` (R306). -/
  | telemetrySample (die : Nat)
  /-- `UNCORRECTABLE_ERROR` (R396). -/
  | uncorrectableError (e : ErrLoc)
  /-- `RETRY_RESULT` (R397). -/
  | retryResult (e : ErrLoc) (ok : Bool)
  /-- `STEAL_REPLY` (R294). -/
  | stealReply (core : Nat) (r : Option RecCopy)
  /-- `HYPERVISOR_RESUME` (R386). -/
  | hypervisorResume (w : Who) (act : HAction)
  /-- `PARTITION_END` (R397). -/
  | partitionEnd (part : Nat)
  /-- `POWER_LOSS` (R398). -/
  | powerLoss
  deriving DecidableEq, Repr

end Sys2Proof.Machine
end

