-- ==== Sys2Proof/Machine/State.lean ====
section
/-!
DEFINITION. The state of the FV-2048A: everything the spec gives the machine, as plain data. Tables are sparse
(`SMap`): a key that is not listed has the value the table's reader gives it, named in each docstring. Memory is a list of
cells in one canonical form. The last part is `State.reset`, the machine right after reset (R360).
-/
namespace Sys2Proof.Machine

/-- Bytes by device-physical address, rising, with no cell equal to what an unlisted address reads as: HBM by canonical
address (R238), the second tier by its own address (R237). -/
abbrev Memory := List Host.Cell

/-- Privilege levels (R358). -/
inductive Level where
  | u | s | h
  deriving DecidableEq, Repr

/-- The synchronising forms of R269. -/
inductive SyncOp where
  | ldSync | ldTake | stFill | stWfill | feClr | feSet
  deriving DecidableEq, Repr

/-- What a fused reservation does at the head of its queue: `lrw`, `scq` and `rsv.drop` by the holder, the atomics of R270 and R272, and
`nest.claim` (R296). -/
inductive RsvOp where
  | lrw | scq | drop | add | and | or | xor | min | max | minZ | maxZ | swp | cas | fadd | nest
  deriving DecidableEq, Repr

/-- Where a load's data goes (R266, R149, R268): a general register, extended from a number of bytes, or a wide register. -/
inductive LoadDest where
  | g (d bytes : Nat) (sext : Bool)
  | w (d : Nat)
  | c (d : Nat)
  /-- a piece of an operand in memory, which the instruction keeps until it issues again with all of them -/
  | piece (va : Dword) (bytes : Nat)
  deriving DecidableEq, Repr

/-- One translated access to memory: virtual and canonical device-physical address, size in bytes, policy operand (R267),
and the page's replication policy, D bit and home (R367, R369). -/
structure Access where
  va : Dword
  pa : Nat
  size : Nat
  pol : Word
  repl : BitVec 2
  dpage : Bool
  home : BitVec 2
  harg : Byte
  tdie : BitVec 3
  deriving DecidableEq, Repr

/-- The requests a thread makes of a wave sequencer (R352, R353). -/
inductive SeqOp where
  | opn | close | ins | del | chg | fork | rope | dmapGet | dmapMov | settle | ctxRd | ptbFill
  deriving DecidableEq, Repr

/-- What an instruction that will issue again waits for. -/
inductive Obj where
  /-- the task must be secure (R230, R327) -/
  | secure
  /-- a speculative line needs a place in the L1 (R228) -/
  | place (line : Nat)
  /-- the page of an address must be translated (R370), for a store or not -/
  | walk (space : Nat) (va : Dword) (store : Bool)
  /-- the element at the head of a generator's read-ahead must arrive (R279) -/
  | stream (gen : Nat)
  /-- a word of a core's local store must be full (`arrive` streams, R279) -/
  | full (core off : Nat)
  /-- the lane of a class of a core must have room (R295) -/
  | lane (core cls : Nat)
  /-- the round of the die's reduction tree in progress must complete (R298) -/
  | nextRound
  /-- the total of the die's reduction tree must be there (R349) -/
  | total
  /-- an access of the instruction is on its way back or out: a piece of an operand, an element of a stream (R237, R265) -/
  | piece
  deriving DecidableEq, Repr

/-- Why a thread is out of rotation (R72), and what completes its instruction. -/
inductive Wait where
  /-- a load from memory: MEMORY_RETURN (R72) -/
  | load (a : Access) (dst : LoadDest)
  /-- an ordinary load or store through the cluster window: WINDOW_ACCESS (R265) -/
  | winLoad (core off bytes : Nat) (dst : LoadDest)
  | winStore (core off bytes : Nat) (v : Wide)
  /-- the store of an output stream's element through the cluster window (R265, R279); the instruction has completed -/
  | outStore (core off bytes : Nat) (v : Dword)
  /-- a synchronising form at a local-store word: WINDOW_ACCESS (R269) -/
  | sync (op : SyncOp) (core off d : Nat) (v : Word)
  /-- `wld.sync` (R150) -/
  | wideSync (w off : Nat)
  /-- a push outside a full queue: QUEUE_ENTRY (R158) -/
  | queue (e : Engine)
  /-- `msg.wait` (R295) -/
  | msg (cls : Nat)
  /-- `det.wait`: class, sender and sequence number (R343) -/
  | named (cls : Nat) (sender : Who) (num : Nat)
  /-- `msg.sendw`: the report of the deposit (R335) -/
  | report
  /-- `bar.wait`, `bar.aw`: the barrier and the phase, or none until BARRIER_WAIT_ARRIVAL binds one (R297); `arrive` tells a
  `bar.aw` -/
  | barrier (bar : Nat) (phase : Option Nat) (arrive : Bool)
  /-- `bar.init` on its way to its barrier, with the count (R348) -/
  | barInit (bar x : Nat)
  /-- `nest.set`: the acknowledgement of its direct write (R351) -/
  | ack
  /-- a load from a page of the control range on its way there: AGENT_ANSWER (R237) -/
  | control (pa d : Nat)
  /-- a request at a wave sequencer: AGENT_ANSWER (R352) -/
  | seq (op : SeqOp) (d : Nat) (a b : Dword)
  /-- the release that `ctx.open`, `ctx.fork`, the edits and `ctx.rope` perform first (R309, R313) -/
  | seqRel (op : SeqOp) (d : Nat) (a b : Dword) (fs : List Word)
  /-- an answer on its way with the registers it writes: AGENT_ANSWER (R327) -/
  | answer (ws : List (Nat × Dword))
  /-- an answer on its way with a wide register: AGENT_ANSWER (R149, R265) -/
  | wideAnswer (n : Nat) (v : Wide)
  /-- a reservation or fused form: RESERVATION_GRANT (R271). `word` is the canonical address -/
  | rsv (word : Nat) (op : RsvOp) (d : Nat) (b x : Dword)
  /-- `det.open` that finds four rounds, or awaits its answer (R197) -/
  | roundOpen (line : Nat)
  /-- `det.done` (R198) -/
  | roundDone (line : Nat)
  /-- `rel`, `acq`, `fence`, `fence.c`: the lines it drained must be acknowledged, and granted for `pkg` (R231, R250, R258) -/
  | release (scope : Scope) (rel acq cc : Bool)
  /-- an SFU request in the queue or in the unit (R135) -/
  | sfu (f d : Nat) (x : Word)
  /-- `gang.form` at its rendezvous (R152) -/
  | gangForm (n : Nat)
  /-- `gang.bar` (R155) -/
  | gangBar
  /-- `eng.wait` (R330) -/
  | engine (e : Engine) (d : Nat)
  /-- `tcfg.set` of the active slot: its slot and value, and the number of matrix commands pushed before it (R169, R332) -/
  | tcfg (slot : Nat) (v : Dword) (mx : Nat)
  /-- `acc.load`: its slot, the table read, and the numbers of matrix and vector commands pushed before it (R333) -/
  | accord (slot : Nat) (l : List Byte) (mx vx : Nat)
  /-- `tlb.inv`, `tlb.all`: acknowledgements outstanding, and the tasks that must end (R377) -/
  | tlbInv (acks : Nat) (tasks : List (Nat × Nat))
  /-- `tsave` of a slot into an area, until the slot's engine commands and round updates are done (R380) -/
  | tsave (slot : Nat) (va : Dword)
  /-- stopped by `tsave` (R380) -/
  | saved
  /-- `ist.inv` (R378) -/
  | istInv
  /-- `hcall` (R392) -/
  | hcall (d : Nat)
  /-- `wfe` (R393) -/
  | wfe
  /-- the thread's group waits for its footprint (R293) -/
  | footprint
  /-- the thread has retired; its slot is held until its group's last thread retires, and for a successor (R300, R339) -/
  | retired
  /-- its registers are about to be written through a return slot (R60) -/
  | landing
  /-- the instruction issues again when the object clears -/
  | retry (o : Obj)
  deriving DecidableEq, Repr

/-- Where a write to registers goes (R56, R62, R63, R112): an entry of the general file, a shadow register, an entry of the wide
file, a mask register, `fflags` whole, flags ORed into `fflags`, or a general register by the number a return names it by
(R279). -/
inductive RegDest where
  | file (i : Nat) | shadow (n : Nat) | wide (i : Nat) | mask (n : Nat) | flags | orFlags | reg (n : Nat)
  deriving DecidableEq, Repr

/-- The kinds of write to a register file (R60, R61): a result of fixed latency, a return (of memory, of a unit or of an agent),
and a message's deposit at a class, or for `det.wait` at none. -/
inductive WriteKind where
  | fixed | ret | deposit (cls : Option Nat)
  deriving DecidableEq, Repr

/-- A write to registers that has not been made (R60): a result of fixed latency with the cycle it is written in, or a return or
deposit with the cycle it reached the file. -/
structure RegWrite where
  due : Nat
  slot : Nat
  kind : WriteKind
  regs : List (RegDest × Wide)
  deriving DecidableEq, Repr

/-- The states of a slot that holds a thread (R54); a free slot is not listed. Handler state is a flag of the thread, since a
thread in handler state is in rotation and can wait. -/
inductive Run where
  | ready
  | waiting (w : Wait) (since : Nat)
  | trapped
  | parked (since : Nat)
  deriving DecidableEq, Repr

/-- A line of a thread's write-combining buffer (R216): its bytes, the cycle of its first store, and the attributes of its
latest store. -/
structure WcbLine where
  lw : LineWrite
  first : Nat
  acc : Access
  deriving DecidableEq, Repr

/-- One command on a report list (R329, R330): its number at its engine, its completion word once it has one, and the lines of
global memory it has written (R256). -/
structure Report where
  seq : Nat
  done : Option Word
  lines : List Nat
  deriving DecidableEq, Repr

/-- A thread's part in an ordered round (R197, R198): the line, the next sequence number, whether `det.done` was issued, the number of
the `det.open`, and whether the wait of its `det.open` or `det.done` was abandoned, so that the instruction issues again (R202). -/
structure Part where
  line : Nat
  next : Nat
  done : Bool
  tok : Nat
  again : Bool
  deriving DecidableEq, Repr

/-- A lease (R263): the number of its thread, the context, the frame, the copy, and the address of the copy that `ctx.rel` names. -/
structure Lease where
  num : Nat
  die : Nat
  idx : Nat
  frame : Nat
  copy : Nat
  addr : Dword
  stamp : Nat
  prior : Bool
  deriving DecidableEq, Repr

/-- A thread's place in a gang (R151): the gang's size, the member's index, and whether it has been told that the gang has
disbanded (R157). -/
structure Gang where
  n : Nat
  member : Nat
  ended : Bool
  deriving DecidableEq, Repr

/-- A thread (R54 to R70): the thread state that a slot holds. -/
structure Thread where
  pc : Half
  /-- length in bytes of the instruction in progress: 2 or 4 (R78) -/
  ilen : Nat
  run : Run
  handler : Bool
  level : Level
  compute : Bool
  openMode : Bool
  part : Nat
  space : Nat
  /-- the thread's task group on its core, and the thread's number in it -/
  gid : Nat
  num : Nat
  spawned : Bool
  /-- R56, R59: the window in the core's file, its limit, the start of its mirror extension, and the end of its allocation -/
  gbase : Nat
  glim : Nat
  gext : Nat
  galloc : Nat
  mirmask : Dword
  /-- R62: the wide group in the core's file -/
  wbase : Nat
  wcount : Nat
  /-- k1 to k7 (R62); a mask not listed is zero -/
  kregs : SMap Dword
  /-- h0 to h7 (R63); a shadow register not listed is zero -/
  hregs : SMap Dword
  gidx : BitVec 3
  gret : Half
  tstamp : Dword
  lidx : Dword
  detidx : Dword
  prio : BitVec 2
  inh : Half
  fmtp : Dword
  sclp : Dword
  mpol : Word
  frm : BitVec 2
  fen : BitVec 9
  fflags : BitVec 9
  lvec : Half
  cause : BitVec 7
  tpc : Half
  tval : Dword
  ix0 : Dword
  ix1 : Dword
  ix2 : Dword
  /-- word 0 of the format descriptor, latched at dispatch (R130), and whether its words 1 to 7 are not all zero (R99) -/
  fmtWord : Word
  fmtRest : Bool
  /-- the iteration fetcher's chunk length and counts (R351) -/
  nestL : Dword
  nestC0 : Word
  nestC1 : Word
  /-- at most four write-combining lines, oldest first (R216) -/
  wcb : List WcbLine
  /-- the dirty signature (R231) and the newest release-log entries acquired (R232) -/
  dirty : Signature
  acqClu : Nat
  acqDie : Nat
  /-- report lists of the matrix, vector and copy engines, oldest first (R329) -/
  repMx : List Report
  repVx : List Report
  repCp : List Report
  wakePending : Bool
  event : Bool
  /-- the cycle of the thread's last issue since it entered rotation (R71) -/
  lastIssue : Option Nat
  /-- causes of earlier events, delivered before the next instruction, oldest first (R160, R387 "next") -/
  next : List (Nat × Dword)
  gang : Option Gang
  /-- the forwarding queue, with the arrival cycle of each entry (R153) -/
  fq : List (Nat × FwdInstr)
  /-- the instruction in progress has been forwarded already, and issues again after a wait -/
  fwd : Bool
  /-- the word reserved, and the address it was reserved by (R271, R235) -/
  rsv : Option Nat
  rsvVa : Dword
  parts : List Part
  leases : List Lease
  /-- h2 was written by R384 step 1 or R385 (R391), the address of a fault-pending record of the thread, and the core that
  holds the record -/
  ended : Bool
  record : Option Dword
  recCore : Nat
  /-- halfwords fetched ahead that have since been overwritten (R259, R378), by halfword index -/
  ahead : SMap Half
  /-- pieces of an operand in memory that the instruction in progress has loaded, by address and size -/
  pieces : List (Dword × Nat × List Byte)
  /-- lines that it drained on a slot it has left since (R231), by core and flight -/
  away : List (Nat × Nat)
  deriving DecidableEq, Repr

/-- A line of an L1 or of a constant cache (R216, R257): its bytes and which are valid, its eviction class (R267: 0 streaming,
1 normal, 2 keep) and the number of its latest use. -/
structure CLine where
  data : LineData
  mask : LineMask
  cls : Nat
  use : Nat
  deriving DecidableEq, Repr

/-- A speculative line of a task group (R218). -/
structure SpecLine where
  gid : Nat
  lw : LineWrite
  acc : Access
  /-- it has been written through to its home, where only its task sees it (R228) -/
  through : Bool
  deriving DecidableEq, Repr

/-- A line on its way from a core to its home, not yet performed (R231, R241), with the cycle in which it left. -/
structure Flight where
  id : Nat
  sent : Nat
  w : Who
  lw : LineWrite
  acc : Access
  deriving DecidableEq, Repr

/-- A command in or before an engine's queue (R158): its number, bits, pushing thread and group, and what the engine takes
from the thread as the push issued (R161). -/
structure Cmd where
  seq : Nat
  bits : BitVec 256
  w : Who
  gid : Nat
  taskMode : Bool
  rm : BitVec 2
  fmtWord : Word
  space : Nat
  level : Level
  part : Nat
  pol : Word
  /-- whether the group claims the tiles, and its tile configuration slot (R168) -/
  claim : Bool
  cfg : Nat
  /-- whether words 1 to 7 of the format descriptor that the thread latched are not all zero (R99) -/
  fmtRest : Bool
  deriving DecidableEq, Repr

/-- What a command that has begun waits for: nothing, a local word under S (R162), a line that a round, a commit or a secure task holds
back at its home (R202, R224, R227), a place for a speculative line (R228), a PTB entry of a position, or a context's settled frames or
leases, by handle (R287). -/
inductive EngHold where
  | free
  | word (off : Nat)
  | line (home line : Nat)
  | place (line : Nat)
  | row (pos : Nat)
  | frames (handle : Nat)
  deriving DecidableEq, Repr

/-- The command in an engine's execution position (R158), and, once its work is done, what it reports (R159 to R161). -/
structure Running where
  cmd : Cmd
  /-- it has begun (R158, R164) -/
  started : Bool
  /-- its work is done, and its completion is on its way -/
  begun : Bool
  /-- the cycle in which it came to the position, and then the one in which it began -/
  since : Nat
  /-- the first cycle in which it gets further, and how many words it reaches in one (R254, R255); none: all that it has left -/
  next : Nat
  pace : Option Nat
  err : Option Nat
  moved : Bool
  flags : BitVec 9
  hold : EngHold
  /-- what it has read, in order, where `none` stands for a part that is done; how many effects it has made; the lines of global memory
  it will send; and the latency of its first global read (R165) -/
  log : List (Option Nat)
  acts : Nat
  out : List (Access × LineWrite)
  lat : Option Nat
  /-- lines of global memory it has written (R256) -/
  lines : List Nat
  /-- it waits for a reply of another device (R251) -/
  remote : Bool
  /-- spans of the local store, by offset and length: those that it has read or written, and those of its operands (R300) -/
  reach : List (Nat × Nat)
  areas : List (Nat × Nat)
  deriving DecidableEq, Repr

/-- An engine (R158): its queue of two, the commands that wait outside, its execution position, and how many commands have
been pushed to it. -/
structure Unit3 where
  queue : List Cmd
  outside : List Cmd
  exec : Option Running
  pushed : Nat
  deriving DecidableEq, Repr

/-- An element that an input stream has read ahead (R214, R279): its address, its value once it has arrived, or its fault, with
the value that the trap reports. -/
structure Ahead where
  addr : Dword
  val : Option Dword
  fault : Option Nat
  deriving DecidableEq, Repr

/-- An address generator (R64, R277): a slot that has claimed it, the descriptor and positions, the binding, the policy
operand at `bind`, the elements read ahead, and the words of its element that a pop has taken so far (R279). -/
structure Gen where
  owner : Option Nat
  base : Dword
  stride0 : Word
  stride1 : Word
  stride2 : Word
  count0 : Word
  count1 : Word
  count2 : Word
  pos0 : Word
  pos1 : Word
  pos2 : Word
  size : BitVec 3
  sext : Bool
  exhausted : Bool
  bound : Option (Nat × Dir)
  pol : Word
  ahead : List Ahead
  taken : List Word
  deriving DecidableEq, Repr

/-- A message held at a class, with its number among its sender's messages to the class (R205). -/
structure Held where
  num : Nat
  msg : Msg
  deriving DecidableEq, Repr

/-- A message class (R295): its binding, the messages it holds (at most four), its lane, how many messages each sender has
had arrive, the numbers taken by `det.wait`, and the threads that have sent to it (R307). -/
structure MsgClass where
  slot : Option Nat
  reg : Nat
  n : Nat
  named : Bool
  armed : Bool
  ready : Bool
  held : List Held
  lane : List Msg
  counts : SMap Nat
  taken : List (Nat × Nat)
  senders : List Who
  deriving DecidableEq, Repr

/-- An effect that a task-mode thread holds until commit (R229). -/
inductive Effect where
  | msg (m : Msg)
  | far (dev : Nat) (m : Msg)
  | push (r : RecCopy)
  | report (r : ReportMsg)
  | edit (e : EditReq)
  | detOpen (r : RoundMsg)
  | detAdd (r : RoundMsg)
  | detDone (r : RoundMsg)
  deriving DecidableEq, Repr

/-- Where a task group stands: its footprint is being fetched, its threads run, every thread has retired and the task waits to
commit, or its successor waits to start (R224, R293, R300). -/
inductive Phase where
  | fetch | running | retired | succeeding
  deriving DecidableEq, Repr

/-- A task group (R25, R221 to R230): its record and key, its signatures and held effects, its threads, pins and claim. -/
structure Group where
  task : RecCopy
  taskMode : Bool
  level : Level
  part : Nat
  space : Nat
  tstamp : Dword
  seq : Nat
  slots : List Nat
  /-- the next thread number (R345) -/
  threads : Nat
  phase : Phase
  rsig : Signature
  wsig : Signature
  secure : Bool
  unbounded : Bool
  held : List Effect
  leases : List Lease
  /-- pinned local-store ranges: offset and length -/
  pins : List (Nat × Nat)
  cfg : Nat
  claim : Bool
  /-- the successor's record and inheritance mask (R299), once thread 0 has named it -/
  succ : Option (RecCopy × Half)
  deriving DecidableEq, Repr

/-- An SFU request (R135): its thread, function, destination and operand, and the cycle in which it starts. -/
structure SfuReq where
  w : Who
  f : Nat
  d : Nat
  x : Word
  start : Nat
  deriving DecidableEq, Repr

/-- A detached cause (R385): the cause, its value, and the address of a record it leaves fault-pending. -/
structure Detached where
  cause : Nat
  tval : Dword
  record : Option Dword
  deriving DecidableEq, Repr

/-- A translation (R370): partition and space, the virtual page and the logarithm of its size, the device-physical frame, and
the attributes of R369. `writable` is that of both stages, `writable1` that of stage 1 alone (R368), and `gframe` the
guest-physical frame, which a GUEST_FAULT names. -/
structure TlbEntry where
  part : Nat
  space : Nat
  page : Nat
  bits : Nat
  frame : Nat
  gframe : Nat
  writable : Bool
  writable1 : Bool
  user : Bool
  dpage : Bool
  repl : BitVec 2
  home : BitVec 2
  harg : Byte
  tdie : BitVec 3
  deriving DecidableEq, Repr

/-- An entry of a stage-2 cache (R370): the partition, the guest-physical page and its size, the device-physical frame, and
the leaf's attributes. `cache` is the walker whose cache holds it. -/
structure S2Entry where
  cache : Nat
  part : Nat
  page : Nat
  bits : Nat
  frame : Nat
  writable : Bool
  tdie : BitVec 3
  deriving DecidableEq, Repr

/-- A PTB entry (R322). -/
structure PtbEntry where
  handle : Word
  first : Nat
  fill : Nat
  idx : Nat
  phys : Nat
  vlo : Nat
  vhi : Nat
  deriving DecidableEq, Repr

/-- What a steal request says that its core can host (R294): free slots, the taken parts of its files, whether the tiles are free, and the
pinned ranges. -/
structure Shape where
  free : Nat
  windows : List (Nat × Nat)
  wgroups : List (Nat × Nat)
  tiles : Bool
  pins : List (Nat × Nat)
  deriving DecidableEq, Repr

/-- A core (R17): a device core, or a lantern core (R359). -/
structure Core where
  /-- held in reset (R360), clock-gated, and the cycle since which it has been idle (R399) -/
  held : Bool
  gated : Bool
  idleSince : Nat
  /-- core clock cycles since core reset (R67) -/
  cyc : Dword
  /-- the general file: an entry not listed is zero -/
  gfile : SMap Dword
  /-- the wide file: an entry not listed is zero -/
  wfile : SMap Wide
  threads : SMap Thread
  groups : SMap Group
  nextGid : Nat
  dispatchSeq : Nat
  /-- the slot that issued most recently (R71), the first cycle in which no deferred read holds the port (R58), and one more than
  the cycle of the latest issue, 0 before any -/
  lastSlot : Nat
  portBusy : Nat
  issued : Nat
  /-- writes to the register files on their way, in the order in which they reached them (R60) -/
  writes : List RegWrite
  /-- one where the issuing instruction has a deferred read, which delays its results (R58) -/
  late : Nat
  /-- the instruction store by halfword index: a halfword not listed is zero -/
  ist : SMap Half
  /-- the local store by word index: a word not listed is zero -/
  lstore : SMap Word
  /-- full/empty bits by word index: a bit not listed is full (R269) -/
  fe : SMap Bool
  /-- threads that have issued a filling or emptying form on a word (R269), by word index -/
  fillers : SMap (List Who)
  /-- the weight buffer by byte: a byte not listed is zero -/
  wbuf : SMap Byte
  /-- tiles: element (j, r, c) at 1024 j + 32 r + c; an element not listed is zero -/
  tiles : SMap Word
  /-- tile configuration slots: a slot not listed holds 0x000A_23FF (R166) -/
  tcfg : SMap Dword
  /-- accord table slots: entry c of slot t at 256 t + c; an entry not listed is zero (R98) -/
  accord : SMap Word
  /-- the long accumulator of the vector engine: L and E (R105) -/
  lacc : Nat
  laccE : Bool
  l1 : SMap CLine
  spec : List SpecLine
  cc : SMap CLine
  uses : Nat
  flights : List Flight
  beam : SMap Word
  ptb : List PtbEntry
  tlb : List TlbEntry
  classes : SMap MsgClass
  deque : List RecCopy
  fixed : List RecCopy
  detached : List Detached
  gens : SMap Gen
  mx : Unit3
  vx : Unit3
  cp : Unit3
  sfu : List SfuReq
  /-- the last cycle of a block after a discard (R136) -/
  sfuBlocked : Nat
  /-- the queue of held effects of committed tasks, each with the lines its task had pending (R229) -/
  effects : List (Effect × List Nat)
  /-- victims still to try (R294), what the core could host when it sent its request, whether a request is out, and the end of a backoff -/
  victims : List Nat
  asked : Shape
  stealing : Bool
  backoff : Option Nat
  /-- the record that a steal grant dispatches (R294) -/
  granted : Option RecCopy
  /-- rotation in force (R366): 0 free, else the slot count N -/
  rot : Nat
  /-- private SRAM of a lantern core (R359) -/
  sram : Memory
  /-- poisoned local words, by word index, with the cause code (R397) -/
  poison : SMap Nat
  deriving DecidableEq, Repr

/-- A cluster barrier (R297): the expected count, the two tallies, the phase number, and the phase of each thread's latest
arrival, by 64 × core + slot. -/
structure Barrier where
  x : Nat
  cur : Nat
  carried : Nat
  phase : Nat
  arrived : SMap Nat
  deriving DecidableEq, Repr

/-- A release log (R232): the number of the next entry, and the last 64 entries, newest first. -/
structure RelLog where
  next : Nat
  entries : List Signature
  deriving DecidableEq, Repr

/-- A cluster (R18): its barriers, shared TLB, release log, and the window accesses begun in the present cycle. -/
structure Cluster where
  barriers : SMap Barrier
  tlb : List TlbEntry
  log : RelLog
  portCycle : Nat
  ports : Nat
  deriving DecidableEq, Repr

/-- A die copy (R239, R241): the granted bytes and their state (none while ownership is awaited for the first time), the pending
bytes over them, its class and use. -/
structure DieCopy where
  data : LineData
  state : Option Moesi
  /-- bytes of `data` that a grant has brought: all of them or none -/
  valid : LineMask
  /-- the bytes pending -/
  pend : LineMask
  pdata : LineData
  slice : Nat
  cls : Nat
  use : Nat
  deriving DecidableEq, Repr

/-- A directory transaction in progress (R242): the request, or the step of an agent that acts at the home itself, how many
acknowledgements it awaits, the first cycle in which all that have left have arrived, and whether it is a back-invalidation (R243). -/
structure Trans where
  req : DirReq
  agent : Option Ev
  acks : Nat
  due : Nat
  back : Bool
  deriving DecidableEq, Repr

/-- A home directory entry (R240): the dies that hold the line with their states, in order of grant; the transaction in
progress; and the requests behind it in arrival order, as the steps that bring them. -/
structure DirEntry where
  holders : List (Nat × Moesi)
  busy : Option Trans
  queue : List Ev
  deriving DecidableEq, Repr

/-- A line resident in an L2 slice of its home (R238, R267, R276): the slice, its class, the number of its latest use, and the spaces
that pin it, as 4,096 × partition + space.
Log 11 (DESIGN CHOICE, unsafe). -/
structure L2Line where
  slice : Nat
  cls : Nat
  use : Nat
  pins : List Nat
  deriving DecidableEq, Repr

/-- A request in a reservation queue (R235, R270), with the cycle in which it reaches the bank; `far` is the device and core of a
`cp.amo`, which no thread of this device waits for (R285). -/
structure RsvReq where
  due : Nat
  w : Who
  far : Option (Nat × Nat)
  op : RsvOp
  d : Nat
  b : Dword
  x : Dword
  acc : Access
  deriving DecidableEq, Repr

/-- The reservation queue of a doubleword at its home bank (R235): the holder, the cycle its word was forwarded, and the
waiters. -/
structure RsvQueue where
  holder : Option Who
  since : Nat
  queue : List RsvReq
  deriving DecidableEq, Repr

/-- An update held in a bank's buffer (R200). -/
structure HeldUpd where
  bank : Nat
  msg : RoundMsg
  deriving DecidableEq, Repr

/-- An open ordered round (R197 to R200): its bank, the participant count, the expected issuer, how many of its updates have
been applied, the issuers that have opened it with the numbers of their opens, and the counts of those that are done. -/
structure Round where
  bank : Nat
  n : Nat
  expected : Nat
  applied : Nat
  opened : SMap Who
  toks : SMap Nat
  accepted : SMap Nat
  dones : SMap Nat
  doneWho : SMap Who
  deriving DecidableEq, Repr

/-- A page walk (R370, R406): what it translates, the waiting threads, the stage-1 level and table, the guest-physical address
that stage 2 translates and the stage-2 level and table, and the stage-1 leaf once it is found. -/
structure Walk where
  part : Nat
  space : Nat
  va : Dword
  who : List Who
  started : Bool
  lvl1 : Nat
  tab1 : Nat
  gpa : Nat
  lvl2 : Nat
  tab2 : Nat
  inS2 : Bool
  leaf1 : Option Dword
  /-- the home die that the stage-2 leaf of the stage-1 table names for second-tier memory (R369, R406) -/
  tdie : BitVec 3
  deriving DecidableEq, Repr

/-- A contribution to a reduction round (R298, R349). -/
structure RedIn where
  v : Wide
  op : Nat
  f32 : Bool
  deriving DecidableEq, Repr

/-- The reduction tree of a die (R298): the contributions of the round in progress by local core number, and the total of a
completed one with whether its contributions differed in kind. -/
structure RedTree where
  sent : SMap RedIn
  total : Option (Wide × Bool)
  deriving DecidableEq, Repr

/-- A committed version of a frame (R261): its stamp and the order of its commit. -/
structure Ver where
  stamp : Nat
  ord : Nat
  deriving DecidableEq, Repr

/-- A frame's two copies (R310): the version each holds, and the leases on it (R263). -/
structure Frame where
  v0 : Option Ver
  v1 : Option Ver
  l0 : Nat
  l1 : Nat
  deriving DecidableEq, Repr

/-- An entry of a chain (R312). -/
structure ChainEnt where
  phys : Nat
  fill : Nat
  deriving DecidableEq, Repr

/-- A position-scaling segment (R312, R323): its first position and sixteen FP32 factors. -/
structure Segment where
  first : Nat
  factors : List Word
  deriving DecidableEq, Repr

/-- A chain image (R312) as the sequencer keeps it beside the copy in the store, with its place in the order of the images written. -/
structure Image where
  valid : Bool
  version : Nat
  ord : Nat
  chain : List ChainEnt
  segs : List Segment
  deriving DecidableEq, Repr

/-- Where a record of a place stands (R317, R318): it waits at the sequencer, is in a deque or has been dispatched, or has been
handed on by its predecessor. -/
inductive PlaceSt where
  | prepared | pushed | named
  deriving DecidableEq, Repr

/-- An outstanding record of a record place (R317): its stamp, the chain index of its frame in wave s, the copy of its record,
whether a predecessor names it at +8, whether its window is assembled, and where it stands. -/
structure Place where
  stamp : Nat
  j : Nat
  task : RecCopy
  byPred : Bool
  window : Bool
  st : PlaceSt
  deriving DecidableEq, Repr

/-- A wave (R316): its stamp, the chain it works on, and the status of each frame, by 65,536 × layer + index: 1 clean, 2
dirty and unreported, 3 reported moved (or moved at layer 0), 4 reported unmoved; a frame not listed is undecided. -/
structure Wave where
  stamp : Nat
  chain : List ChainEnt
  st : SMap Nat
  deriving DecidableEq, Repr

/-- A layer kernel table entry (R311). -/
structure LayerEnt where
  entry : Word
  flags : Word
  clusters : Half
  die : Nat
  fpo : Word
  fmt : Dword
  scl : Dword
  deriving DecidableEq, Repr

/-- An open context (R308 to R326). `trans` are the translations taken at the open. -/
structure Ctx where
  handle : Word
  part : Nat
  space : Nat
  layers : Nat
  lgb : Nat
  thresh : Half
  store : Dword
  cap : Nat
  width : Nat
  dk : Nat
  dv : Nat
  embed : Dword
  nemb : Nat
  table : List LayerEnt
  trans : List TlbEntry
  counter : Nat
  chain : List ChainEnt
  segs : List Segment
  img0 : Image
  img1 : Image
  frames : SMap Frame
  places : SMap Place
  waves : List Wave
  ord : Nat
  /-- edits that wait for a lease, in arrival order, and with their stamps those whose layer-1 records are not all prepared yet (R313) -/
  edits : List EditReq
  answers : List (Nat × EditReq)
  /-- the counter that it started with (R309, R324) -/
  born : Nat
  /-- moved reports that wait for a lease (R319) -/
  reports : List ReportMsg
  /-- for each block that lies in another context's store (R324): the base of that store's frames and of its token ids -/
  shared : SMap (Dword × Dword)
  deriving DecidableEq, Repr

/-- A compute die (R19). -/
structure Die where
  /-- the earliest cycle of the next commit point (R224), and the release log -/
  nextCommit : Nat
  log : RelLog
  dir : SMap DirEntry
  /-- snoop-filter sets: the lines tracked, oldest first (R243) -/
  snoop : SMap (List Nat)
  copies : SMap DieCopy
  l2 : SMap L2Line
  rsv : SMap RsvQueue
  rounds : SMap Round
  updates : List HeldUpd
  /-- det.open requests that wait for a round to close (R197) -/
  openQ : List RoundMsg
  /-- updates and `det.done` of an issuer whose `det.open` has not been let in, behind it (R202) -/
  behind : List Ev
  /-- the banks that have taken an arrival of a round in the present cycle, and that cycle (R200) -/
  bankCycle : Nat
  bankTook : List Nat
  walkers : SMap Walk
  walkQ : List Walk
  s2 : List S2Entry
  /-- the reduction trees of the die, one for each partition with cores on it (R298) -/
  red : SMap RedTree
  ctxs : SMap Ctx
  /-- generation of each descriptor place (R309) -/
  gens : SMap Nat
  /-- counter page (R249): created, collapsed, hits, raised, lowered, backinv, and the query addresses -/
  created : Dword
  collapsed : Dword
  hits : Dword
  raised : Dword
  lowered : Dword
  backinv : Dword
  qaddr : SMap Dword
  /-- the keeper's log (R398): entries by index, and the head index -/
  klog : SMap (BitVec 256)
  klogHead : Nat
  /-- the frame counter of R206, retention, and the cycle since which every core is gated (R399) -/
  frame : Nat
  retained : Bool
  gatedSince : Option Nat
  epoch : Nat
  uses : Nat
  deriving DecidableEq, Repr

/-- A region of 64 KiB (R245, R246): its adaptive degree, the counts of the epoch, and the policy of the page entry of its
latest access, which the counter page reports (R249). -/
structure Region where
  pol : BitVec 2
  degree : Nat
  r : Nat
  w : Nat
  c : Nat
  deriving DecidableEq, Repr

/-- A core entry of a partition control page (R366). `repl` 2 and `space` 1 are its reset values; `shown` is the value that the
repl field reads, which a lowering changes only once the die copies beyond the new size are gone. -/
structure CoreEntry where
  repl : Nat
  shown : Nat
  rot : Nat
  space : Nat
  deriving DecidableEq, Repr

/-- A space entry of a partition control page (R366). -/
structure SpaceEntry where
  quota : Nat
  root : Nat
  valid : Bool
  deriving DecidableEq, Repr

/-- A reduction entry of a partition control page (R366). -/
structure RedEntry where
  root : Bool
  part : Bool
  parent : Nat
  deriving DecidableEq, Repr

/-- A partition (R365, R366): what the hypervisor fixed, the fields of its control page, and its spill ring. -/
structure Partition where
  spec : PartSpec
  live : Bool
  off : Bool
  xsteal : Bool
  spill : Dword
  spillen : Word
  strap : Half
  detp : Bool
  detset : BitVec 2048
  /-- writes to detp or detset that wait for empty fixed lists: index and value, oldest first -/
  detPend : List (Nat × Dword)
  coreEnts : SMap CoreEntry
  /-- lines pinned by each space -/
  pins : SMap Nat
  spaces : SMap SpaceEntry
  redEnts : SMap RedEntry
  /-- writes to the reduction entries that wait for their die's round -/
  redPend : List (Nat × Dword)
  /-- homing mask sets by 256 × die + number: bit c is local core c (R234, R369) -/
  maskSets : SMap (BitVec 256)
  /-- cores of its clusters that were excluded after a lasting error when it was created (R397) -/
  barred : List Nat
  /-- the spill ring (R292): the index of its oldest record's place, and the copies that stand in it, oldest first; their bytes
  stand in memory -/
  ringHead : Nat
  ring : List (Option RecCopy)
  deriving DecidableEq, Repr

/-- How far the boot of R360 has come. -/
inductive BootSt where
  | rom | waiting | running | stopped
  deriving DecidableEq, Repr

/-- A posted host write that waits, in posted order (R252). -/
structure Posted where
  part : Nat
  window : Bool
  addr : Nat
  len : Nat
  bytes : List Byte
  deriving DecidableEq, Repr

/-- The management function, the boot and the host link (R360, R372, R399). -/
structure HostIf where
  boot : BootSt
  start : Bool
  status : Nat
  prov : ProvRecord
  /-- the core count of the device inventory that the hypervisor has given the host (R28) -/
  inventory : Nat
  /-- cores that the hypervisor excludes from partitions it creates, after a lasting error in their storage (R397) -/
  excluded : List Nat
  tolerance : Word
  posted : List Posted
  /-- completions of host reads: the bytes, or none for an unsupported request -/
  reads : List (Option (List Byte))
  /-- H-level events that have reached the lantern cores, oldest first (R386) -/
  events : List HEvent
  deriving DecidableEq, Repr

/-- A step on its way: the cycle it is due and what it is. -/
structure Sched where
  due : Nat
  ev : Ev
  deriving DecidableEq, Repr

/-- What the device keeps for a saved thread under the owner tag of its area (R263, R380, R381): its leases, its parts in ordered
rounds (R202), the iteration fetcher's chunk, its number and record, its group's tile configuration slot, whether it was
spawned, what R391 asks of its handler, the words that its `arrive` streams have taken of their elements (R279), and the lines it has drained
(R231). -/
structure SavedTag where
  leases : List Lease
  parts : List Part
  nestL : Dword
  nestC0 : Word
  nestC1 : Word
  num : Nat
  task : RecCopy
  cfg : Nat
  spawned : Bool
  ended : Bool
  record : Option Dword
  recCore : Nat
  taken : SMap (List Word)
  away : List (Nat × Nat)
  deriving DecidableEq, Repr

/-- The state of the machine. -/
structure State where
  /-- the cycle of R8 -/
  cycle : Nat
  /-- the thread whose instruction `exec` runs -/
  cur : Who
  /-- messages, answers and completions on their way, and inputs from outside -/
  agenda : List Sched
  /-- the model's own counter of free values -/
  fresh : Nat
  mem : Memory
  cores : SMap Core
  clusters : SMap Cluster
  dies : SMap Die
  regions : SMap Region
  parts : SMap Partition
  host : HostIf
  /-- poisoned lines with the cause code a read raises (R397), by line number -/
  poison : SMap Nat
  /-- die-to-die links lost until reset (R397) -/
  deadLinks : List Nat
  /-- messages and remote operations that have left over the Beacon link: device and content -/
  beacon : List (Nat × RemoteOp)
  beaconMsgs : List (Nat × Msg)
  /-- saved threads by owner tag, and the next tag -/
  tags : SMap SavedTag
  nextTag : Nat
  deriving DecidableEq, Repr

/-- Why the machine stops. No instruction of a program raises one in the states that `step` reaches. -/
inductive Fault where
  /-- `exec` was asked to run an instruction for a slot that holds no thread: raised by every instruction's prologue; safe, since
  the machine issues only for threads. -/
  | noThread
  deriving DecidableEq, Repr

/-- Why an instruction has no meaning. -/
inductive Refusal where
  /-- Raised by an arm of `exec` for an instruction without a meaning, by its mnemonic; safe. -/
  | notModelled (mnemonic : String)
  deriving DecidableEq, Repr

/-- An engine with nothing to do. -/
def Unit3.empty : Unit3 := { queue := [], outside := [], exec := none, pushed := 0 }

/-- A core at its reset, out of reset or held in it (R360, R365).
Log 2 (DESIGN CHOICE, unsafe). -/
def Core.fresh (held : Bool) : Core :=
  { held, gated := false, idleSince := 0, cyc := 0, gfile := [], wfile := [], threads := [], groups := [],
    nextGid := 0, dispatchSeq := 0, lastSlot := 63, portBusy := 0, issued := 0, writes := [], late := 0, ist := [], lstore := [], fe := [], fillers := [],
    wbuf := [], tiles := [], tcfg := [], accord := [], lacc := 0, laccE := false, l1 := [], spec := [], cc := [], uses := 0, flights := [],
    beam := [], ptb := [], tlb := [], classes := [], deque := [], fixed := [], detached := [], gens := [],
    mx := Unit3.empty, vx := Unit3.empty, cp := Unit3.empty, sfu := [], sfuBlocked := 0, effects := [], victims := [],
    asked := { free := 0, windows := [], wgroups := [], tiles := false, pins := [] },
    stealing := false, backoff := none, granted := none, rot := 0, sram := [], poison := [] }

/-- The release log after reset. -/
def RelLog.empty : RelLog := { next := 0, entries := [] }

/-- A cluster after reset (R297: every barrier is unlisted and reads as its reset state). -/
def Cluster.fresh : Cluster := { barriers := [], tlb := [], log := RelLog.empty, portCycle := 0, ports := 0 }

/-- A die after reset.
Log 2 (DESIGN CHOICE, unsafe). -/
def Die.fresh : Die :=
  { nextCommit := 0, log := RelLog.empty, dir := [], snoop := [], copies := [], l2 := [], rsv := [], rounds := [],
    updates := [], openQ := [], behind := [], bankCycle := 0, bankTook := [], walkers := [], walkQ := [], s2 := [], red := [], ctxs := [],
    gens := [], created := 0, collapsed := 0, hits := 0, raised := 0, lowered := 0, backinv := 0, qaddr := [], klog := [],
    klogHead := 0, frame := 0, retained := false, gatedSince := none, epoch := 0, uses := 0 }

/-- The provisioning record before boot has read one: no device number, no fenced core. -/
def ProvRecord.none : ProvRecord := { device := 0, fenced := [], beacon := false }

/-- The management function after reset (R360, R399): boot status 0, latency tolerance 0.
Log 2 (DESIGN CHOICE, unsafe). -/
def HostIf.fresh : HostIf :=
  { boot := .rom, start := false, status := 0, prov := ProvRecord.none, inventory := 0, excluded := [], tolerance := 0, posted := [], reads := [],
    events := [] }

/-- The machine right after reset (R360): no core is listed, so every device core is held in reset; memory has nothing
listed; and the boot ROM's first step is due.
Log 2 (DESIGN CHOICE, unsafe). -/
def State.reset : State :=
  { cycle := 0, cur := { core := 0, slot := 0 }, agenda := [{ due := 0, ev := .deviceReset }], fresh := 0, mem := [],
    cores := [], clusters := [], dies := [], regions := [], parts := [], host := HostIf.fresh, poison := [],
    deadLinks := [], beacon := [], beaconMsgs := [], tags := [], nextTag := 0 }

end Sys2Proof.Machine
end

