-- ==== Sys2Proof/Machine/Sparse.lean ====
section
/-!
DEFINITION. Reading and writing sparse tables and memory. A table keeps its keys rising; memory also lists no byte equal to
what an unlisted address reads as, so that equal memories are equal data.
-/
namespace Sys2Proof.Machine

variable {α : Type}

/-- The entry of a key, if it is listed. -/
def smGet : SMap α → Nat → Option α
  | [], _ => none
  | (k, v) :: t, a => if a = k then some v else smGet t a

/-- The entry of a key, or the table's default. -/
def smGetD (m : SMap α) (a : Nat) (d : α) : α := (smGet m a).getD d

/-- Writes the entry of a key. -/
def smSet : SMap α → Nat → α → SMap α
  | [], a, x => [(a, x)]
  | (k, v) :: t, a, x => if a < k then (a, x) :: (k, v) :: t else if a = k then (a, x) :: t else (k, v) :: smSet t a x

/-- Removes a key. -/
def smDel : SMap α → Nat → SMap α
  | [], _ => []
  | (k, v) :: t, a => if a = k then smDel t a else (k, v) :: smDel t a

/-- Changes the entries of a table, by key. -/
def smMap (f : Nat → α → α) (m : SMap α) : SMap α := m.map fun p => (p.1, f p.1 p.2)

/-- Keeps the entries that satisfy a test. -/
def smFilter (f : Nat → α → Bool) (m : SMap α) : SMap α := m.filter fun p => f p.1 p.2

/-- Whether the keys rise strictly from a lower bound. -/
def risesFrom : Nat → SMap α → Bool
  | _, [] => true
  | lo, (k, _) :: t => decide (lo ≤ k) && risesFrom (k + 1) t

/-- What a byte that memory does not list reads as: zero. Boot step 5 scrubs HBM to zero (R360); log 1.
Log 1 (DESIGN CHOICE, unsafe). -/
def unlistedByte : Byte := 0

/-- The canonical form of memory: addresses rise strictly, and no cell equals what an unlisted address reads as. -/
def Memory.wf (m : Memory) : Bool := risesFrom 0 m && m.all fun c => c.2 != unlistedByte

/-- One byte of memory.
Log 1 (DESIGN CHOICE, unsafe). -/
def memGet (m : Memory) (a : Nat) : Byte := smGetD m a unlistedByte

/-- Writes one byte, keeping the canonical form. -/
def memSet (m : Memory) (a : Nat) (b : Byte) : Memory :=
  if b = unlistedByte then smDel m a else smSet m a b

/-- Bytes from an address upward. -/
def memBytes (m : Memory) (a n : Nat) : List Byte := (List.range n).map fun i => memGet m (a + i)

/-- Writes bytes from an address upward. -/
def memPut (m : Memory) : Nat → List Byte → Memory
  | _, [] => m
  | a, b :: t => memPut (memSet m a b) (a + 1) t

/-- A little-endian value from bytes, the first in the lowest bits (R5). -/
def leNat : List Byte → Nat
  | [] => 0
  | b :: t => b.toNat + 256 * leNat t

/-- The n bytes of a value, lowest first (R5). -/
def leBytes : Nat → Nat → List Byte
  | 0, _ => []
  | n + 1, v => BitVec.ofNat 8 v :: leBytes n (v / 256)

/-- The line of memory with a line number (R222). -/
def memLine (m : Memory) (l : Nat) : LineData := BitVec.ofNat 1024 (leNat (memBytes m (l * 128) 128))

/-- Byte i of a line. -/
def lineByte (d : LineData) (i : Nat) : Byte := d.extractLsb' (8 * i) 8

/-- A byte mask with n bits from bit i. -/
def maskOf (i n : Nat) : LineMask := BitVec.ofNat 128 ((2 ^ n - 1) * 2 ^ i)

/-- The data bits that a byte mask covers. -/
def spread (m : LineMask) : LineData :=
  BitVec.ofNat 1024 (leNat ((List.range 128).map fun i => if m.getLsbD i then 0xFF#8 else 0#8))

/-- Lays the masked bytes of a write over a line. -/
def overlay (d : LineData) (lw : LineData) (m : LineMask) : LineData :=
  (d &&& ~~~ (spread m)) ||| (lw &&& spread m)

/-- Writes the masked bytes of a line to memory. -/
def memPutLine (m : Memory) (lw : LineWrite) : Memory :=
  (List.range 128).foldl
    (fun m i => if lw.mask.getLsbD i then memSet m (lw.line * 128 + i) (lineByte lw.data i) else m) m

/-- A write of n bytes, at an address, as a write of its line (accesses never cross a line: R265). -/
def lineWriteOf (pa n v : Nat) : LineWrite :=
  { line := pa / 128, data := BitVec.ofNat 1024 (v % 2 ^ (8 * n) * 2 ^ (8 * (pa % 128))), mask := maskOf (pa % 128) n }

/-- Two writes of one line, the second later. -/
def mergeWrites (a b : LineWrite) : LineWrite :=
  { line := a.line, data := overlay a.data b.data b.mask, mask := a.mask ||| b.mask }

/-- n bytes of a line from byte i, as a number. -/
def lineNat (d : LineData) (i n : Nat) : Nat := d.toNat / 2 ^ (8 * i) % 2 ^ (8 * n)

end Sys2Proof.Machine
end

