-- ==== Sys2Proof/Machine/Access.lean ====
section
/-!
DEFINITION. Reading and writing the parts of the state by name: cores, threads, dies, clusters and partitions; the agenda;
task records; distances and latencies (R14, R23, R24); the keeper's log (R398); the causes of R387.
-/
namespace Sys2Proof.Machine

/-- The core of a number. One that is not listed is held in reset. -/
def State.core (s : State) (n : Nat) : Core := smGetD s.cores n (Core.fresh true)
/-- Writes a core. -/
def State.setCore (s : State) (n : Nat) (c : Core) : State := { s with cores := smSet s.cores n c }
/-- Changes a core. -/
def State.modCore (s : State) (n : Nat) (f : Core → Core) : State := s.setCore n (f (s.core n))
/-- The thread of a slot, if the slot is not free (R54). -/
def State.thread (s : State) (w : Who) : Option Thread := smGet (s.core w.core).threads w.slot
/-- Writes the thread of a slot. -/
def State.setThread (s : State) (w : Who) (t : Thread) : State :=
  s.modCore w.core fun c => { c with threads := smSet c.threads w.slot t }
/-- Changes the thread of a slot, if there is one. -/
def State.modThread (s : State) (w : Who) (f : Thread → Thread) : State :=
  match s.thread w with
  | some t => s.setThread w (f t)
  | none => s
/-- The die of a number. -/
def State.die (s : State) (n : Nat) : Die := smGetD s.dies n Die.fresh
/-- Changes a die. -/
def State.modDie (s : State) (n : Nat) (f : Die → Die) : State := { s with dies := smSet s.dies n (f (s.die n)) }
/-- The cluster of a number, 16 × die + cluster. -/
def State.cluster (s : State) (n : Nat) : Cluster := smGetD s.clusters n Cluster.fresh
/-- Changes a cluster. -/
def State.modCluster (s : State) (n : Nat) (f : Cluster → Cluster) : State :=
  { s with clusters := smSet s.clusters n (f (s.cluster n)) }
/-- The task group of a core by its number there. -/
def State.group (s : State) (core gid : Nat) : Option Group := smGet (s.core core).groups gid
/-- Changes a task group, if it is there. -/
def State.modGroup (s : State) (core gid : Nat) (f : Group → Group) : State :=
  match s.group core gid with
  | some g => s.modCore core fun c => { c with groups := smSet c.groups gid (f g) }
  | none => s

/-- The die of a core (R16). -/
def dieOf (core : Nat) : Nat := core / 256 % 8
/-- The cluster of a core in the package, 16 × die + cluster (R16). -/
def clusterOf (core : Nat) : Nat := core / 16
/-- The local number of a core on its die, cluster × 16 + core (R206, R234). -/
def localOf (core : Nat) : Nat := core % 256
/-- Whether a core number is that of a lantern core. -/
def isLantern (core : Nat) : Bool := decide (Config.cores ≤ core)

/-- A partition that the hypervisor has given nothing. -/
def noSpec : PartSpec :=
  { part := 0, clusters := 0, s2root := 0, ranges := [], imgBase := 0, imgLen := 0, maskSet := 0, exports := [],
    devices := [] }

/-- A partition whose control page has its reset values (R366). -/
def Partition.fresh (spec : PartSpec) : Partition :=
  { spec, live := false, off := false, xsteal := false, spill := 0, spillen := 0, strap := 0, detp := false, detset := 0,
    detPend := [], coreEnts := [], pins := [], spaces := [], redEnts := [], redPend := [], maskSets := [], barred := [], ringHead := 0,
    ring := [] }

/-- The partition of a number. -/
def State.part (s : State) (p : Nat) : Partition := smGetD s.parts p (Partition.fresh noSpec)
/-- Changes a partition. -/
def State.modPart (s : State) (p : Nat) (f : Partition → Partition) : State :=
  { s with parts := smSet s.parts p (f (s.part p)) }

/-- A core entry of a control page that has not been written (R366). -/
def CoreEntry.reset : CoreEntry := { repl := 2, shown := 2, rot := 0, space := 1 }
/-- The entry of a core in its partition's control page. -/
def Partition.coreEnt (p : Partition) (core : Nat) : CoreEntry := smGetD p.coreEnts core CoreEntry.reset

/-- The live partition that a core belongs to (R365: a cluster belongs to at most one). -/
def State.partOf (s : State) (core : Nat) : Option Nat :=
  (s.parts.find? fun p => p.2.live && p.2.spec.clusters.getLsbD (clusterOf core)).map (·.1)

/-- Whether a core is fenced out by the provisioning record (R362). -/
def State.isFenced (s : State) (core : Nat) : Bool := s.host.prov.fenced.contains core

/-- The cores that the device reports as fenced, and the ones that are usable (R28, R364, R397). -/
def State.badCores (s : State) : List Nat := (List.range Config.cores).filter fun c => s.isFenced c || s.host.excluded.contains c
def State.goodCores (s : State) : List Nat := (List.range Config.cores).filter fun c => !(s.isFenced c || s.host.excluded.contains c)

/-- The usable cores of a partition, ascending (R358, R362, R397).
Log 95 (DEDUCED, unsafe). -/
def State.usable (s : State) (p : Nat) : List Nat :=
  (List.range Config.cores).filter fun c =>
    (s.part p).spec.clusters.getLsbD (clusterOf c) && !s.isFenced c && !(s.part p).barred.contains c

/-- Mesh hops between two dies: columns plus rows (R14). -/
def hops (a b : Nat) : Nat :=
  (a % 4 - b % 4) + (b % 4 - a % 4) + ((a / 4 - b / 4) + (b / 4 - a / 4))

/-- Unloaded latency of an L2 access from one die to another (R23, R24). -/
def latDie (a b : Nat) : Nat :=
  if hops a b = 0 then Config.latL2 else Config.latL2Hop + Config.latHop * (hops a b - 1)

/-- Unloaded one-way time of a message (R335). -/
def latMsg (a b : Nat) : Nat := 64 + Config.latHop * hops a b

/-- Puts a step in the agenda, due a number of cycles from now.
Log 111 (DEDUCED, unsafe). -/
def State.after (s : State) (n : Nat) (ev : Ev) : State :=
  { s with agenda := s.agenda ++ [{ due := s.cycle + n, ev }] }

/-- As `after`, with the free number of cycles that contention adds to a path (R23, R24, R306; log 6).
Log 6 (DESIGN CHOICE, safe). -/
def State.afterFree (s : State) (n : Nat) (ev : Ev) : State :=
  { s with
    agenda := s.agenda ++ [{ due := s.cycle + n + Config.extraCycles s.fresh, ev }],
    fresh := s.fresh + 1 }

/-- The sender and the receiver of a step that keeps its place behind earlier ones of the same route (R200, R209, R229): requests of
a core to a home bank, or to the sequencer of a die, and its writes of one line. -/
def Ev.route : Ev → Option (Nat × Nat)
  | .roundOpenArrival m | .roundUpdateArrival m | .roundDoneArrival m => some (m.w.core, m.bank)
  | .editApply e => some (e.core, 4096 + (e.opnd.extractLsb' 44 3).toNat)
  | .dmapReport r => some (r.core, 4096 + (r.opnd.extractLsb' 44 3).toNat)
  | .directWrite d =>
    (match d.src with
    | .thread w | .engine w => some (2 ^ 16 + w.core, d.lw.line)
    | .commit core _ => some (2 ^ 16 + core, d.lw.line)
    | .host | .remote => none)
  | _ => none

/-- As `afterFree`, but no earlier than the steps of the same route that are on their way.
Log 6 (DESIGN CHOICE, safe). -/
def State.afterRoute (s : State) (n : Nat) (ev : Ev) : State :=
  let last := s.agenda.foldl (fun m x => if x.ev.route == ev.route then Nat.max m x.due else m) 0
  { s with
    agenda := s.agenda ++ [{ due := Nat.max last (s.cycle + n + Config.extraCycles s.fresh), ev }],
    fresh := s.fresh + 1 }

/-- The `det.open` by which the issuer of an update or a `det.done` takes part in its round (R197). -/
def Ev.tok : Ev → Option Nat
  | .roundUpdateArrival r | .roundUpdateResend r | .roundDoneArrival r => some r.tok
  | _ => none

/-- The bank that an arrival of an ordered round reaches, and its issuer index (R200). -/
def Ev.bank : Ev → Option (Nat × Nat)
  | .roundOpenArrival r | .roundUpdateArrival r | .roundUpdateResend r | .roundDoneArrival r => some (r.bank, r.idx)
  | _ => none

/-- Removes from the agenda the steps that satisfy a test. -/
def State.unschedule (s : State) (f : Ev → Bool) : State :=
  { s with agenda := s.agenda.filter fun x => !f x.ev }

/-- The cause codes of R387. -/
abbrev cIllegalOpcode : Nat := 0x00
abbrev cReservedField : Nat := 0x01
abbrev cRegLimit : Nat := 0x02
abbrev cNoWideState : Nat := 0x03
abbrev cPrivileged : Nat := 0x04
abbrev cSoftwareTrap : Nat := 0x07
abbrev cPageFaultLoad : Nat := 0x10
abbrev cPageFaultStore : Nat := 0x11
abbrev cMisaligned : Nat := 0x12
abbrev cLocalBound : Nat := 0x14
abbrev cStreamUnderflow : Nat := 0x15
abbrev cStreamOverflow : Nat := 0x16
abbrev cFpInvalid : Nat := 0x20
abbrev cLongAccSat : Nat := 0x21
abbrev cAccordOrder : Nat := 0x22
abbrev cRange : Nat := 0x23
abbrev cIntSat : Nat := 0x24
abbrev cFpInexact : Nat := 0x25
abbrev cFpUnderflow : Nat := 0x26
abbrev cFpOverflow : Nat := 0x27
abbrev cFpDivzero : Nat := 0x28
abbrev cRsvRevoked : Nat := 0x30
abbrev cBarOverflow : Nat := 0x31
abbrev cDeadlock : Nat := 0x32
abbrev cGangDisbanded : Nat := 0x33
abbrev cSuccShape : Nat := 0x34
abbrev cSuccTileShape : Nat := 0x35
abbrev cMsgUnbound : Nat := 0x36
abbrev cDetRound : Nat := 0x37
abbrev cSpillFull : Nat := 0x38
abbrev cPtbMiss : Nat := 0x40
abbrev cCtxInvalid : Nat := 0x42
abbrev cChainFull : Nat := 0x43
abbrev cEditRange : Nat := 0x44
abbrev cCmdMalformed : Nat := 0x50
abbrev cEnginePageFault : Nat := 0x51
abbrev cTileCfg : Nat := 0x52
abbrev cHcall : Nat := 0x60
abbrev cPreempt : Nat := 0x61
abbrev cPartitionViolation : Nat := 0x62
abbrev cGuestFault : Nat := 0x63
abbrev cSramUncorrectable : Nat := 0x70
abbrev cHbmUncorrectable : Nat := 0x71
abbrev cLinkLasting : Nat := 0x72
abbrev cWalkerLasting : Nat := 0x73
abbrev cTierUncorrectable : Nat := 0x74
abbrev cLanternUncorrectable : Nat := 0x75

/-- The kinds of a keeper's-log entry (R398). -/
abbrev kTrap : Nat := 0
abbrev kLasting : Nat := 1
abbrev kTransient : Nat := 2
abbrev kPower : Nat := 3
abbrev kEdit : Nat := 4
abbrev kPartition : Nat := 5
abbrev kSoftware : Nat := 6
abbrev kDropped : Nat := 7

/-- The 32 bytes of a keeper's-log entry (R398).
Log 69 (DEDUCED, unsafe). -/
def klogEntry (time kind code part slot core : Nat) (value whre : Dword) : BitVec 256 :=
  BitVec.ofNat 256 (time % 2 ^ 64
    + (core % 2048 * 2 ^ 16 + slot % 64 * 2 ^ 32 + part % 128 * 2 ^ 40 + code % 256 * 2 ^ 48 + kind % 256 * 2 ^ 56) * 2 ^ 64
    + value.toNat * 2 ^ 128 + whre.toNat * 2 ^ 192)

/-- Appends an entry to a die's keeper's log; the head wraps from 4,095 to 0 (R398).
Log 69 (DEDUCED, unsafe). -/
def State.klog (s : State) (die kind code part slot core : Nat) (value whre : Dword) : State :=
  s.modDie die fun d =>
    { d with
      klog := smSet d.klog d.klogHead (klogEntry s.cycle kind code part slot core value whre),
      klogHead := (d.klogHead + 1) % 4096 }

/-- A footprint range as its 16 bytes give it (R75): base, local offset and length. -/
structure FpRange where
  base : Dword
  off : Nat
  len : Nat
  resv : Bool
  deriving DecidableEq, Repr

/-- A footprint range from its two doublewords. -/
def fpRange (base w : Dword) : FpRange :=
  { base, off := (w.extractLsb' 24 24).toNat, len := (w.extractLsb' 0 24).toNat, resv := w.extractLsb' 48 16 != 0#16 }

end Sys2Proof.Machine

namespace Sys2Proof

/-! The fields of a task record (R75, R76). -/

/-- A doubleword of a record, by its byte offset. -/
def RecCopy.dw (r : RecCopy) (off : Nat) : Dword := r.bits.extractLsb' (8 * off) 64
/-- The kernel entry, a halfword offset. -/
def RecCopy.entry (r : RecCopy) : Word := r.bits.extractLsb' 0 32
/-- The flags word. -/
def RecCopy.flags (r : RecCopy) : Word := r.bits.extractLsb' 32 32
def RecCopy.prio (r : RecCopy) : Nat := (r.flags.extractLsb' 0 2).toNat
def RecCopy.isOpen (r : RecCopy) : Bool := r.flags.getLsbD 2
def RecCopy.isDet (r : RecCopy) : Bool := r.flags.getLsbD 3
def RecCopy.threads (r : RecCopy) : Nat := (r.flags.extractLsb' 4 4).toNat + 1
def RecCopy.regs (r : RecCopy) : Nat := (r.flags.extractLsb' 8 8).toNat
/-- Wide registers per thread. -/
def RecCopy.wide (r : RecCopy) : Nat := 4 * (r.flags.extractLsb' 16 4).toNat
def RecCopy.tcfg (r : RecCopy) : Nat := (r.flags.extractLsb' 20 4).toNat
def RecCopy.hasR2 (r : RecCopy) : Bool := r.flags.getLsbD 24
def RecCopy.tstamp (r : RecCopy) : Dword := r.dw 8
def RecCopy.lidx (r : RecCopy) : Dword := r.dw 16
def RecCopy.arg (r : RecCopy) : Dword := r.dw 24
def RecCopy.fmtp (r : RecCopy) : Dword := r.dw 48
def RecCopy.sclp (r : RecCopy) : Dword := r.dw 56

/-- Range 1 of a record. -/
def RecCopy.range1 (r : RecCopy) : Machine.FpRange := Machine.fpRange (r.dw 32) (r.dw 40)

/-- Threads of a record are compute threads if its shape has at least 4 wide registers (R55). -/
def RecCopy.compute (r : RecCopy) : Bool := decide (4 ≤ r.wide)

end Sys2Proof

namespace Sys2Proof.Machine

/-- The validity rules of R76 for a record and its range 2, if it has one. -/
def recordValid (r : RecCopy) (r2 : Option FpRange) : Bool :=
  let rs := r.range1 :: r2.toList
  let live := rs.filter fun x => x.len != 0
  decide (r.entry.toNat < 32768)
    && r.flags.extractLsb' 25 7 == 0#7
    && decide (8 ≤ r.regs) && decide (r.regs ≤ 128) && decide (r.wide ≤ 16)
    && rs.all (fun x => !x.resv && x.base.toNat % 4 == 0 && x.off % 4 == 0 && x.len % 4 == 0)
    && live.all (fun x => decide (x.off + x.len ≤ Config.localBytes))
    && decide ((live.map (·.len)).foldl (· + ·) 0 ≤ 262144)
    && (match live with
        | [a, b] => decide (a.off + a.len ≤ b.off) || decide (b.off + b.len ≤ a.off)
        | _ => true)

/-- The order key of R221 compares lexicographically. -/
def keyLt (a b : Nat × Nat × Nat × Nat) : Bool :=
  decide (a.1 < b.1) || (a.1 == b.1 && (decide (a.2.1 < b.2.1) || (a.2.1 == b.2.1 &&
    (decide (a.2.2.1 < b.2.2.1) || (a.2.2.1 == b.2.2.1 && decide (a.2.2.2 < b.2.2.2))))))

/-- The order key of a group on its core (R221): timestamp, core, slot of thread 0, dispatch sequence. -/
def Group.key (g : Group) (core : Nat) : Nat × Nat × Nat × Nat :=
  (g.tstamp.toNat, core, g.slots.headD 0, g.seq)

/-- Puts a record in a fixed list in ascending logical index (R203). -/
def insertFixed (r : RecCopy) : List RecCopy → List RecCopy
  | [] => [r]
  | x :: t => if r.lidx.toNat < x.lidx.toNat then r :: x :: t else x :: insertFixed r t

end Sys2Proof.Machine
end

