-- ==== Sys2Proof/Machine/Lines.lean ====
section
/-!
DEFINITION. Lines in a core: signatures (R222), eviction classes (R267), the L1 and its speculative lines (R218, R228), and
the invalidations of acquires and commits (R224, R232).
-/
namespace Sys2Proof.Machine

/-- Bits `[hi:lo]` of a number. -/
def natBits (n lo len : Nat) : Nat := n / 2 ^ lo % 2 ^ len

/-- Ha of R222. -/
def sigHa (l : Nat) : Nat :=
  natBits l 0 10 ^^^ natBits l 10 10 ^^^ natBits l 20 10 ^^^ natBits l 30 10 ^^^ natBits l 40 5

/-- Hb of R222. -/
def sigHb (l : Nat) : Nat :=
  natBits l 5 10 ^^^ natBits l 15 10 ^^^ natBits l 25 10 ^^^ natBits l 35 10 ^^^ (natBits l 0 5 * 32)

/-- Adds a line to a signature (R222). -/
def sigAdd (g : Signature) (l : Nat) : Signature :=
  g ||| BitVec.ofNat 2048 (2 ^ sigHa l) ||| BitVec.ofNat 2048 (2 ^ (1024 + sigHb l))

/-- Whether a line is a member of a signature (R222). -/
def sigHas (g : Signature) (l : Nat) : Bool := g.getLsbD (sigHa l) && g.getLsbD (1024 + sigHb l)

/-- Whether two signatures intersect (R222). -/
def sigMeet (r w : Signature) : Bool :=
  (r &&& w).extractLsb' 0 1024 != 0#1024 && (r &&& w).extractLsb' 1024 1024 != 0#1024

/-- The 8-bit line hash of R267. -/
def lineHash (l : Nat) : Nat :=
  natBits l 0 8 ^^^ natBits l 8 8 ^^^ natBits l 16 8 ^^^ natBits l 24 8 ^^^ natBits l 32 8 ^^^ natBits l 40 5

/-- The eviction class an access gives its line (R267): 2 keep, 1 normal, 0 streaming. -/
def lineClass (pol : Word) (l : Nat) : Nat :=
  if lineHash l < (pol.extractLsb' 0 8).toNat then 2
  else if lineHash l < (pol.extractLsb' 8 8).toNat then 1 else 0

/-- Bit 16 of a policy operand: a load that misses does not allocate in the L1 (R267). -/
def polBypass (pol : Word) : Bool := pol.getLsbD 16
/-- Bit 17 of a policy operand: no die copy is allocated (R267). -/
def polNorep (pol : Word) : Bool := pol.getLsbD 17

/-- The canonical line number of an access (R222, R238). -/
def Access.line (a : Access) : Nat := a.pa / 128

/-- The home die of a line (R237): the stack's die, or the die its page names. -/
def Access.homeDie (a : Access) : Nat :=
  if a.pa < 0x8000000000 then a.pa / 2 ^ 36 % 8 else a.tdie.toNat

/-- The home die of a line of HBM by its number (R237). -/
def lineHome (l : Nat) (tdie : Nat) : Nat := if l < 2 ^ 32 then l / 2 ^ 29 % 8 else tdie

/-- The L1 set of a line: the low seven bits of its number, since 64 KiB in four ways of 128-byte lines make 128 sets (R17).
The spec names no index; log 16.
Log 16 (DESIGN CHOICE, unsafe). -/
def l1Set (l : Nat) : Nat := l % 128

/-- The line that a cache chooses as its victim (R267): of the lowest class, the least recently used; `rank` is its class and its use. -/
def victim {α : Type} (rank : α → Nat × Nat) : List (Nat × α) → Option (Nat × α)
  | [] => none
  | x :: t =>
    match victim rank t with
    | none => some x
    | some y =>
      if (rank x.2).1 < (rank y.2).1 || ((rank x.2).1 == (rank y.2).1 && decide ((rank x.2).2 < (rank y.2).2)) then some x else some y

/-- The line that a set of an L1 or of a constant cache gives up. -/
def victimOf (l : List (Nat × CLine)) : Option Nat := (victim (fun x : CLine => (x.cls, x.use)) l).map (·.1)

/-- The non-speculative lines of an L1 in the set of a line. -/
def Core.setLines (c : Core) (l : Nat) : List (Nat × CLine) := c.l1.filter fun p => l1Set p.1 == l1Set l

/-- The speculative lines that lie in the L1 (R228). -/
def Core.specs (c : Core) : List SpecLine := c.spec.filter fun x => !x.through

/-- The speculative lines of an L1 in the set of a line (R228). -/
def Core.setSpecs (c : Core) (l : Nat) : List SpecLine := c.specs.filter fun x => l1Set x.lw.line == l1Set l

/-- Whether an L1 has a place for a speculative line (R228). -/
def Core.specRoom (c : Core) (l : Nat) : Bool := decide (c.specs.length < 256) && decide ((c.setSpecs l).length < 3)

/-- Frees a way of the set of a line when all four are taken, and tells whether one is free then. -/
def Core.makeWay (c : Core) (l : Nat) : Core × Bool :=
  let specs := (c.setSpecs l).filter fun x => !(c.setLines l).any (·.1 == x.lw.line)
  if (c.setLines l).length + specs.length < 4 then (c, true)
  else match victimOf (c.setLines l) with
    | some v => ({ c with l1 := smDel c.l1 v }, true)
    | none => (c, false)

/-- Puts bytes of a line in the L1 as non-speculative data, over the bytes already there (R216, R72). -/
def Core.l1Put (c : Core) (l : Nat) (data : LineData) (mask : LineMask) (cls : Nat) : Core :=
  match smGet c.l1 l with
  | some x =>
    { c with
      l1 := smSet c.l1 l { data := overlay x.data data mask, mask := x.mask ||| mask, cls, use := c.uses },
      uses := c.uses + 1 }
  | none =>
    let (c', ok) := c.makeWay l
    if ok then
      { c' with l1 := smSet c'.l1 l { data := overlay 0 data mask, mask, cls, use := c.uses }, uses := c.uses + 1 }
    else c

/-- Drops a line from the L1 and the constant cache (R241); speculative lines stay (R402). -/
def Core.dropLine (c : Core) (l : Nat) : Core := { c with l1 := smDel c.l1 l, cc := smDel c.cc l }

/-- Drops the non-speculative and constant-cache lines that satisfy a test (R224 step 2, R232 step 2, R257). -/
def Core.dropLines (c : Core) (f : Nat → Bool) : Core :=
  { c with l1 := c.l1.filter fun p => !f p.1, cc := c.cc.filter fun p => !f p.1 }

/-- Puts a task store in the L1 as a speculative line of its group (R218), if R228 has a place for it.
Log 32 (DEDUCED, unsafe). -/
def Core.specPut (c : Core) (gid : Nat) (lw : LineWrite) (acc : Access) : Option Core :=
  if c.spec.any fun x => x.gid == gid && x.lw.line == lw.line then
    some { c with
      spec := c.spec.map fun x =>
        if x.gid == gid && x.lw.line == lw.line then { x with lw := mergeWrites x.lw lw, acc } else x }
  else if c.specRoom lw.line then
    let (c', _) := c.makeWay lw.line
    some { c' with spec := c'.spec ++ [{ gid, lw, acc, through := false }] }
  else none

/-- Writes a store of a secure, unbounded task through to its home, where it stays invisible until the commit (R228). -/
def Core.specThrough (c : Core) (gid : Nat) (lw : LineWrite) (acc : Access) : Core :=
  { c with spec := c.spec ++ [{ gid, lw, acc, through := true }] }

/-- Whether every line that blocks a speculative store belongs to its own group (R228). -/
def Core.specOwnOnly (c : Core) (gid : Nat) (l : Nat) : Bool :=
  if c.specs.length < 256 then (c.setSpecs l).all fun x => x.gid == gid else c.specs.all fun x => x.gid == gid

/-- The groups whose lines block a speculative store (R228). -/
def Core.specBlockers (c : Core) (l : Nat) : List Nat :=
  ((if c.specs.length < 256 then c.setSpecs l else c.specs).map (·.gid)).eraseDups

end Sys2Proof.Machine
end

