-- ==== Sys2Proof/Machine/Translate.lean ====
section
/-!
DEFINITION. Two-stage translation (R367 to R370, R406): page-table entries, walks read by read, the TLBs, device-physical
ranges and canonical addresses (R237, R238), homing (R234), the outcome of translating one access (R264, R368), and
the lines of write-combining buffers on their way home (R216).
-/
namespace Sys2Proof.Machine

/-- The lowest address bit that a level's index takes (R367). -/
def lvlShift : Nat → Nat
  | 0 => 16
  | 1 => 21
  | 2 => 30
  | _ => 39

/-- The index of an address at a level (R367). -/
def lvlIndex (l a : Nat) : Nat := a / 2 ^ lvlShift l % (if l = 0 then 32 else 512)

/-- What a table entry is at its level (R367, R368). -/
inductive PteKind where
  | bad
  | table (addr : Nat)
  | leaf (addr : Nat)
  deriving DecidableEq, Repr

/-- Reads a table entry: `s2` asks for the further zero bits of a stage-2 leaf (R368). -/
def pteKind (e : Dword) (l : Nat) (s2 : Bool) : PteKind :=
  let size := (e.extractLsb' 52 4).toNat
  if e.getLsbD 0 = false then .bad
  else if size = 15 then
    let a := (e.extractLsb' 8 44).toNat * 256
    if l = 0 || e.extractLsb' 56 8 != 0#8 || e.extractLsb' 1 7 != 0#7 then .bad
    else if a % (if l = 1 then 256 else 4096) = 0 then .table a else .bad
  else
    let a := (e.extractLsb' 16 36).toNat * 65536
    if size ≠ l || 2 < size || e.extractLsb' 59 5 != 0#5 || a % 2 ^ lvlShift l ≠ 0 then .bad
    else if s2 && e.extractLsb' 2 14 != 0#14 then .bad
    else .leaf a

/-- A stage-2 lookup in the cache that serves a guest-physical address (R370). -/
def s2Find (c : List S2Entry) (part gpa : Nat) : Option S2Entry :=
  c.find? fun e => e.part == part && e.cache == gpa / 2 ^ 21 % 32 && e.page == gpa / 2 ^ e.bits

/-- Fills a stage-2 cache; each holds 64 entries and gives up its least recently filled one (R370). -/
def s2Fill (c : List S2Entry) (e : S2Entry) : List S2Entry :=
  let mine := c.filter fun x => x.cache == e.cache
  if mine.length < 64 then e :: c else e :: (mine.dropLast ++ c.filter fun x => x.cache != e.cache)

/-- What a walk comes to after a read. -/
inductive WalkRes where
  /-- another entry is to be read -/
  | more (w : Walk)
  | done (e : TlbEntry)
  /-- a stage-1 fault (R368) -/
  | fault1
  /-- a stage-2 fault at a guest-physical address (R368) -/
  | fault2 (gpa : Nat)
  deriving DecidableEq, Repr

/-- The combined translation that a walk ends with (R369). -/
def walkEntry (w : Walk) (leaf : Dword) (l1 : Nat) (x : S2Entry) : TlbEntry :=
  let bits := Nat.min (lvlShift l1) x.bits
  let dp := x.frame * 2 ^ x.bits + w.gpa % 2 ^ x.bits
  { part := w.part, space := w.space, page := w.va.toNat / 2 ^ bits, bits, frame := dp / 2 ^ bits,
    gframe := w.gpa / 2 ^ bits, writable := leaf.getLsbD 1 && x.writable, writable1 := leaf.getLsbD 1,
    user := leaf.getLsbD 2, dpage := leaf.getLsbD 3, repl := leaf.extractLsb' 4 2, home := leaf.extractLsb' 6 2,
    harg := leaf.extractLsb' 8 8, tdie := x.tdie }

/-- Goes on once stage 2 has translated the walk's guest-physical address: to the stage-1 entry there, or to the end. -/
def walkAfterS2 (w : Walk) (x : S2Entry) : WalkRes :=
  match w.leaf1 with
  | some leaf => .done (walkEntry w leaf w.lvl1 x)
  | none => .more { w with inS2 := false, tdie := x.tdie, tab1 := x.frame * 2 ^ x.bits + w.gpa % 2 ^ x.bits }

/-- Starts the stage-2 translation of the walk's guest-physical address; a hit takes the place of its reads (R370). -/
def walkS2 (c : List S2Entry) (s2root : Nat) (w : Walk) : WalkRes :=
  if 2 ^ 48 ≤ w.gpa then .fault2 w.gpa
  else match s2Find c w.part w.gpa with
    | some x => walkAfterS2 w x
    | none => .more { w with inS2 := true, lvl2 := 3, tab2 := s2root }

/-- The device-physical address of the entry that a walk reads next (R406). -/
def Walk.readAddr (w : Walk) : Nat := if w.inS2 then w.tab2 + 8 * lvlIndex w.lvl2 w.gpa else w.tab1

/-- Takes one table entry into a walk (R367, R368): the next state of the walk, and a stage-2 entry to cache, if one was
found. -/
def walkTake (c : List S2Entry) (s2root : Nat) (w : Walk) (e : Dword) : WalkRes × Option S2Entry :=
  if w.inS2 then
    match pteKind e w.lvl2 true with
    | .bad => (.fault2 w.gpa, none)
    | .table a => (.more { w with lvl2 := w.lvl2 - 1, tab2 := a }, none)
    | .leaf a =>
      let x : S2Entry :=
        { cache := w.gpa / 2 ^ 21 % 32, part := w.part, page := w.gpa / 2 ^ lvlShift w.lvl2, bits := lvlShift w.lvl2,
          frame := a / 2 ^ lvlShift w.lvl2, writable := e.getLsbD 1, tdie := e.extractLsb' 56 3 }
      (walkAfterS2 w x, some x)
  else
    match pteKind e w.lvl1 false with
    | .bad => (.fault1, none)
    | .table a =>
      (walkS2 c s2root { w with lvl1 := w.lvl1 - 1, gpa := a + 8 * lvlIndex (w.lvl1 - 1) w.va.toNat }, none)
    | .leaf a =>
      (walkS2 c s2root { w with leaf1 := some e, gpa := a + w.va.toNat % 2 ^ lvlShift w.lvl1 }, none)

/-- The stage-2 root table of a partition (R366). -/
def State.s2root (s : State) (part : Nat) : Nat := (s.part part).spec.s2root.toNat

/-- A walk before it has started. -/
def Walk.new (part space : Nat) (va : Dword) (who : List Who) : Walk :=
  { part, space, va, who, started := false, lvl1 := 3, tab1 := 0, gpa := 0, lvl2 := 3, tab2 := 0, inS2 := false,
    leaf1 := none, tdie := 0 }

/-- Starts a walk (R366, R367): an address with bits [63:48] set, or a space that is not valid, faults at stage 1. -/
def State.walkStart (s : State) (die : Nat) (w : Walk) : WalkRes :=
  let sp := smGetD (s.part w.part).spaces w.space { quota := 0, root := 0, valid := false }
  if 2 ^ 48 ≤ w.va.toNat || !sp.valid then .fault1
  else walkS2 (s.die die).s2 (s.s2root w.part)
    { w with started := true, lvl1 := 3, gpa := sp.root + 8 * lvlIndex 3 w.va.toNat }

/-- Where a device-physical address lies (R237, R238). -/
inductive Where where
  /-- storage, by canonical address; `ilv` is true for the interleaved window -/
  | stored (pa : Nat) (ilv : Bool)
  | control (pa : Nat)
  | nowhere
  deriving DecidableEq, Repr

/-- Bytes of second-tier memory attached in all (R373), 8 TB at most (R21).
Log 104 (DESIGN CHOICE, safe). -/
def tierTotal : Nat := Nat.min 8000000000000 ((List.range 8).foldl (fun n k => n + Config.tierBytes k) 0)

/-- Decodes a device-physical address (R237). -/
def whereIs (dp : Nat) : Where :=
  if dp < 0x8000000000 then
    if dp % 2 ^ 36 < Config.stackBytes then .stored dp false else .nowhere
  else if 0x10000000000 ≤ dp && dp < 0x18000000000 then
    let o := dp - 0x10000000000
    let off := o / 1024 * 128 + o % 128
    if off < Config.stackBytes then .stored (o / 128 % 8 * 2 ^ 36 + off) true else .nowhere
  else if 0x8000000000000 ≤ dp && dp < 0x8080000000000 then
    if dp - 0x8000000000000 < tierTotal then .stored dp false else .nowhere
  else if 0xFFFFFFE000000 ≤ dp && dp < 0x10000000000000 then .control dp
  else .nowhere

/-- The core mask of a homing mask set of a partition on a die (R234, R369). -/
def State.maskSet (s : State) (part die num : Nat) : Option (BitVec 256) :=
  smGet (s.part part).maskSets (256 * die + num)

/-- F of R234. -/
def foldLine (l : Nat) : Nat := natBits l 0 16 ^^^ natBits l 16 16 ^^^ natBits l 32 13

/-- The local cores of a mask, ascending.
Log 26 (DEDUCED, unsafe). -/
def maskCores (m : BitVec 256) : List Nat := (List.range 256).filter fun i => m.getLsbD i

/-- The slice that homing picks for a line on a die (R234, R238), if the mask set names one.
Log 26 (DEDUCED, unsafe). -/
def State.slicePick (s : State) (part die line : Nat) (home : BitVec 2) (harg : Byte) : Option Nat :=
  if home = 1#2 then some harg.toNat
  else match s.maskSet part die harg.toNat with
    | some m =>
      let cs := maskCores m
      if cs.isEmpty || cs.any (fun c => s.isFenced (256 * die + c)) then none
      else cs[foldLine line % cs.length]?
    | none => none

/-- The outcome of translating one access. -/
inductive Xlate where
  | ok (a : Access)
  /-- a page of the control range (R237) -/
  | control (pa : Nat)
  /-- in no TLB of the core -/
  | miss
  | fault (cause : Nat) (tval : Dword)
  deriving DecidableEq, Repr

/-- The entry of a list of translations that covers an address. -/
def tlbFind (l : List TlbEntry) (part space : Nat) (va : Dword) : Option TlbEntry :=
  l.find? fun e => e.part == part && e.space == space && e.page == va.toNat / 2 ^ e.bits

/-- Puts a translation in a TLB of n entries, most recent first. A full one gives up the entry that was filled longest ago: the spec states
the counts of R17 and R18, and a replacement rule for the stage-2 caches only.
Log 121 (DESIGN CHOICE, safe). -/
def tlbFill (l : List TlbEntry) (e : TlbEntry) (n : Nat) : List TlbEntry :=
  (e :: l.filter fun x => !(x.part == e.part && x.space == e.space && x.page == e.page && x.bits == e.bits)).take n

/-- The cause of a translation fault by the kind of the access (R264). -/
def pfCause (store : Bool) : Nat := if store then cPageFaultStore else cPageFaultLoad

/-- Applies a translation to an access (R368, R234, R237, R245): `user` is false at S. -/
def State.applyXlate (s : State) (e : TlbEntry) (va : Dword) (size : Nat) (store user : Bool) (pol : Word) : Xlate :=
  let pf : Xlate := .fault (pfCause store) va
  let off := va.toNat % 2 ^ e.bits
  if user && !e.user then pf
  else if store && !e.writable1 then pf
  else if store && !e.writable then .fault cGuestFault (BitVec.ofNat 64 (e.gframe * 2 ^ e.bits + off))
  else match whereIs (e.frame * 2 ^ e.bits + off) with
    | .nowhere => pf
    | .control pa => .control pa
    | .stored pa ilv =>
      let a : Access :=
        { va, pa, size, pol, repl := e.repl, dpage := e.dpage, home := e.home, harg := e.harg, tdie := e.tdie }
      if e.home = 3#2 || e.repl = 3#2 || (e.home == 2#2) != ilv then pf
      else if (s.slicePick e.part a.homeDie a.line e.home e.harg).isNone then pf
      else .ok a

/-- The space a thread's addresses belong to (R367): space 0 at S. -/
def Thread.spc (t : Thread) : Nat := if t.level = .u then t.space else 0

/-- Translates an address for a thread through its core's TLB (R264, R370); at H, an address is device-physical (R359). -/
def State.xlate (s : State) (w : Who) (t : Thread) (va : Dword) (size : Nat) (store : Bool) (pol : Word) : Xlate :=
  if t.level = .h then
    match whereIs va.toNat with
    | .stored pa _ =>
      .ok { va, pa, size, pol, repl := 1, dpage := false, home := 0, harg := 0, tdie := 0 }
    | .control pa => .control pa
    | .nowhere => .fault (pfCause store) va
  else match tlbFind (s.core w.core).tlb t.part t.spc va with
    | some e => s.applyXlate e va size store (t.level == .u) pol
    | none => .miss

/-- A walk made at once, with fuel for its reads (R370: at most 24), for the agents that hold no thread.
Log 23 (DEDUCED, unsafe). -/
def State.walkAll (s : State) (die : Nat) : Nat → WalkRes → WalkRes
  | 0, r => r
  | n + 1, .more w =>
    let e := BitVec.ofNat 64 (leNat (memBytes s.mem (match whereIs w.readAddr with | .stored p _ => p | _ => 0) 8))
    let r := match whereIs w.readAddr with
      | .stored _ _ => (walkTake (s.die die).s2 (s.s2root w.part) w e).1
      | _ => if w.inS2 then .fault2 w.gpa else .fault1
    s.walkAll die n r
  | _ + 1, r => r

/-- The translation of an address for an agent that holds no thread (R370): core TLB, cluster TLB, then a walk; or the cause and
value of its fault.
Log 24 (DEDUCED, unsafe). -/
def State.findNow (s : State) (core part space : Nat) (va : Dword) (store : Bool) : Except (Nat × Dword) TlbEntry :=
  match tlbFind (s.core core).tlb part space va with
  | some e => .ok e
  | none =>
    match tlbFind (s.cluster (clusterOf core)).tlb part space va with
    | some e => .ok e
    | none =>
      match s.walkAll (dieOf core) 25 (s.walkStart (dieOf core) (Walk.new part space va [])) with
      | .done e => .ok e
      | .fault2 g => .error (cGuestFault, BitVec.ofNat 64 g)
      | _ => .error (pfCause store, va)

/-- Translates at once for an engine, the dispatcher or the sequencer (R370). -/
def State.xlateNow (s : State) (core part space : Nat) (va : Dword) (size : Nat) (store user : Bool) (pol : Word) : Xlate :=
  match s.findNow core part space va store with
  | .ok e => s.applyXlate e va size store user pol
  | .error (cause, tval) => .fault cause tval

/-- The sets of the replica partition of a core's slice (R366, R402); zero where it has none. -/
def State.replSets (s : State) (core : Nat) : Nat :=
  match s.partOf core with
  | some p =>
    let r := ((s.part p).coreEnt core).repl
    if r = 0 then 0 else if r = 1 then 64 else 128
  | none => 128

/-- The slice of a core's die that may hold a die copy of an access's line (R239). -/
def State.copySlice (s : State) (core : Nat) (a : Access) : Option Nat :=
  let die := dieOf core
  if die = a.homeDie then none
  else match s.slicePick ((s.partOf core).getD 0) die a.line a.home a.harg with
    | some k => if s.replSets (256 * die + k) = 0 then none else some k
    | none => none

/-- Cycles that an access takes longer because a line lies on its die in another slice than the one its page names (R238). -/
def State.sliceLate (s : State) (die line slice : Nat) : Nat :=
  match smGet (s.die die).copies line with
  | some c => if c.slice = slice then 0 else 40
  | none =>
    match smGet (s.die die).l2 line with
    | some x => if x.slice = slice then 0 else 40
    | none => 0

/-- Sends bytes of a line from a core toward its home as a direct write (R226): a flight until it is performed, behind the core's earlier
flights of the line (R209). The slot of `w` is that of the thread, plus 128 for a write of an engine command, or 64 for a line of a committed
task. -/
def State.sendLine (s : State) (w : Who) (lw : LineWrite) (acc : Access) (src : WriteSrc) : State :=
  let c := s.core w.core
  let die := dieOf w.core
  let d : DWrite := { src, die, id := c.uses, lw }
  (s.setCore w.core { c with flights := c.flights ++ [{ id := c.uses, sent := s.cycle, w, lw, acc }], uses := c.uses + 1 }).afterRoute
    (match s.copySlice w.core acc with
      | some k => Config.latL2 + s.sliceLate die lw.line k
      | none => latDie die acc.homeDie)
    (.directWrite d)

/-- Drains one write-combining line into the L1 and on to the home (R216). -/
def State.drainLine (s : State) (w : Who) (x : WcbLine) : State :=
  (s.modCore w.core fun c => c.l1Put x.lw.line x.lw.data x.lw.mask (lineClass x.acc.pol x.lw.line)).sendLine
    w x.lw x.acc (.thread w)

/-- Drains lines of a thread's write-combining buffer (R216): those that satisfy a test, oldest first. -/
def State.drainWcb (s : State) (w : Who) (f : Nat → Bool) : State :=
  match s.thread w with
  | none => s
  | some t =>
    let out := t.wcb.filter fun x => f x.lw.line
    out.foldl (fun s x => s.drainLine w x) (s.modThread w fun t => { t with wcb := t.wcb.filter fun x => !f x.lw.line })

/-- Drains a thread's whole write-combining buffer. -/
def State.drainAll (s : State) (w : Who) : State := s.drainWcb w fun _ => true

end Sys2Proof.Machine
end

