-- ==== Sys2Proof/Machine/Deque.lean ====
section
/-!
DEFINITION. Detached causes (R385), and the records that a core holds for dispatch: its deque and the partition's spill ring (R291,
R292), and its fixed list (R203). A deque never holds more than 256 records.
-/
namespace Sys2Proof.Machine

/-- Queues a detached cause at a core (R385); with the queue full it is only logged, and the record it leaves fault-pending is
dropped. -/
def State.detach (s : State) (core cause : Nat) (tval : Dword) (record : Option Dword) : State :=
  let s1 := s.klog (dieOf core) kTrap cause ((s.partOf core).getD 0) 0 core tval 0
  if (s1.core core).detached.length < 8 then
    s1.modCore core fun c => { c with detached := c.detached ++ [{ cause, tval, record }] }
  else match record with
    | some a =>
      (s1.modCore core fun c => { c with deque := c.deque.filter fun r => !(r.addr == a && r.faulted) }).klog (dieOf core)
        kDropped cause ((s.partOf core).getD 0) 0 core tval a
    | none => s1

/-- The supervisor-space address of the i-th place of a partition's spill ring from its oldest record on (R292, R366).
Log 44 (DEDUCED, unsafe). -/
def Partition.ringAddr (p : Partition) (i : Nat) : Dword :=
  p.spill + BitVec.ofNat 64 ((p.ringHead + i) % Nat.max 1 p.spillen.toNat * 64)

/-- The number under which the direct writes of a partition's spill ring go to their homes. -/
def ringId (part : Nat) : Nat := 2 ^ 20 + part

/-- Writes records to the newest end of the spill ring (R292), as direct writes; none where it has no room for them all, or where a place
does not translate.
Log 44 (DEDUCED, unsafe). -/
def State.spillTo (s : State) (core part : Nat) : List RecCopy → Option State
  | [] => some s
  | r :: rest =>
    let p := s.part part
    if p.spillen.toNat ≤ p.ring.length then none
    else match s.xlateNow core part 0 (p.ringAddr p.ring.length) 64 true false 0x0000FF00#32 with
      | .ok a =>
        ((s.after 0 (.directWrite { src := .remote, die := a.homeDie, id := ringId part, lw := lineWriteOf a.pa 64 r.bits.toNat })).modPart
          part fun p => { p with ring := p.ring ++ [some r] }).spillTo core part rest
      | _ => none

/-- Adds a record to a deque, by an operation that puts it there: a full one first moves its 32 oldest records to the ring, and with the ring
full the record is not queued (R291, R292).
Log 44 (DEDUCED, unsafe). -/
def State.dequeAdd (s : State) (core : Nat) (r : RecCopy) (put : List RecCopy → List RecCopy) : State :=
  let c := s.core core
  if c.deque.length < Config.dequeSize then s.modCore core fun c => { c with deque := put c.deque }
  else match s.spillTo core ((s.partOf core).getD 0) (c.deque.take 32) with
    | some s1 => s1.modCore core fun c => { c with deque := put (c.deque.drop 32) }
    | none => s.detach core cSpillFull r.addr none

/-- Adds a record at the tail of a deque (R291). -/
def State.addDeque (s : State) (core : Nat) (r : RecCopy) : State := s.dequeAdd core r fun l => l ++ [r]

/-- Puts a record back: at the head of its core's deque, or at its place in the fixed list (R225, R293). -/
def State.putBack (s : State) (core : Nat) (r : RecCopy) : State :=
  if r.isDet then s.modCore core fun c => { c with fixed := insertFixed r c.fixed } else s.dequeAdd core r fun l => r :: l

end Sys2Proof.Machine
end

