-- ==== Sys2Proof/Machine/Abort.lean ====
section
/-!
DEFINITION. What stops: leases dropped (R263), special-function requests discarded (R136), waits abandoned, slots freed,
gangs disbanded (R157), and a task aborted (R225), which a direct write or a commit brings about (R226, R227).
-/
namespace Sys2Proof.Machine

/-- Drops one lease at the sequencer that holds its frame (R263). -/
def State.dropLease (s : State) (l : Lease) : State :=
  s.modDie l.die fun d =>
    match smGet d.ctxs l.idx with
    | none => d
    | some c =>
      match smGet c.frames l.frame with
      | none => d
      | some f =>
        let f' := if l.copy = 0 then { f with l0 := f.l0 - 1 } else { f with l1 := f.l1 - 1 }
        { d with ctxs := smSet d.ctxs l.idx { c with frames := smSet c.frames l.frame f' } }

/-- Drops leases in turn. -/
def State.dropLeases (s : State) (ls : List Lease) : State := ls.foldl (fun s l => s.dropLease l) s

/-- The earliest start of a request behind others (R135): at most four start in a cycle, in order, none in or before `lo`. -/
def sfuSlot (q : List SfuReq) (lo : Nat) : Nat :=
  match q.getLast? with
  | none => lo + 1
  | some r =>
    if r.start ≤ lo then lo + 1
    else if (q.filter fun x => x.start == r.start).length < 4 then r.start else r.start + 1

/-- Gives requests that have not started their starts again, behind those that have (R136). -/
def sfuAgain (lo : Nat) : List SfuReq → List SfuReq → List SfuReq
  | done, [] => done
  | done, r :: t => sfuAgain lo (done ++ [{ r with start := sfuSlot done lo }]) t

/-- Schedules the results of the requests of a core (R135: a request started in cycle s is written in s + 6). -/
def State.sfuSchedule (s : State) (core : Nat) : State :=
  let mine := fun ev => match ev with | Ev.sfuResult w => w.core == core | _ => false
  let s' := s.unschedule mine
  { s' with agenda := s'.agenda ++ (s.core core).sfu.map fun r => { due := r.start + 6, ev := .sfuResult r.w } }

/-- Discards the special-function request of a thread, if it has one, and blocks starts for 12 cycles (R136). -/
def State.dropSfu (s : State) (w : Who) : State :=
  let c := s.core w.core
  if c.sfu.any fun r => r.w == w then
    let q := c.sfu.filter fun r => r.w != w
    let blocked := s.cycle + 12
    let q' := sfuAgain blocked (q.filter fun r => decide (r.start ≤ s.cycle)) (q.filter fun r => decide (s.cycle < r.start))
    ((s.setCore w.core { c with sfu := q', sfuBlocked := blocked }).sfuSchedule w.core).after 13
      (.sfuDiscardBlockEnd w.core)
  else s

/-- Whether an agenda step is an answer that a thread waits for. -/
def Ev.answers (w : Who) : Ev → Bool
  | .memoryReturn x _ => x == w
  | .windowAccess x => x == w
  | .agentAnswer x => x == w
  | .barrierWaitArrival _ _ x => x == w
  | .hcallReply x _ _ => x == w
  | .editApply e => e.w == some w
  | .dmapReport r => r.w == some w
  | _ => false

/-- A request with its waiting thread forgotten. -/
def forgetReq (w : Who) (r : DirReq) : DirReq := if r.w == some w then { r with w := none } else r

/-- A read request with its waiting thread forgotten. -/
def Ev.forget (w : Who) : Ev → Ev
  | .directoryRead r => .directoryRead (forgetReq w r)
  | e => e

/-- Takes a thread out of the queues of a home die. -/
def Die.forget (w : Who) (d : Die) : Die :=
  { d with
    rsv := smMap (fun _ q => { q with queue := q.queue.filter fun r => r.w != w || r.op == .drop }) d.rsv,
    ctxs := smMap (fun _ c =>
      { c with edits := c.edits.filter fun e => e.w != some w, reports := c.reports.filter fun r => r.w != some w }) d.ctxs,
    dir := smMap (fun _ e =>
      { e with
        busy := e.busy.map fun t => { t with req := forgetReq w t.req },
        queue := e.queue.map (Ev.forget w) }) d.dir }

/-- Takes the commands of a thread that wait outside an engine's queue out of it. -/
def Unit3.forget (u : Unit3) (w : Who) : Unit3 := { u with outside := u.outside.filter fun c => c.w != w }

/-- A thread whose wait in `det.open` or `det.done` is abandoned: the instruction issues again without repeating what the bank has
recorded (R202). -/
def Thread.abandonRound (t : Thread) : Thread :=
  let mark := fun l => { t with parts := t.parts.map fun p => if p.line == l then { p with again := true } else p }
  match t.run with
  | .waiting (.roundOpen l) _ | .waiting (.roundDone l) _ => mark l
  | _ => t

/-- Withdraws the `det.open` that a thread waits in, if the bank has not recorded it. -/
def State.withdrawOpen (s : State) (w : Who) : State :=
  match (s.thread w).map fun t => t.run with
  | some (Run.waiting (Wait.roundOpen l) _) =>
    let mine := fun r : RoundMsg => r.w == w && r.line == l
    let s1 := s.unschedule fun e => match e with | .roundOpenArrival r => mine r | _ => false
    { s1 with dies := smMap (fun _ d => { d with openQ := d.openQ.filter fun r => !mine r }) s1.dies }
  | _ => s

/-- Abandons what a thread waits for (R307, R380): the instruction has not completed and issues again. -/
def State.cancelWait (s : State) (w : Who) : State :=
  let s1 := (((s.withdrawOpen w).modThread w Thread.abandonRound).unschedule (Ev.answers w)).dropSfu w
  let s2 := s1.modCore w.core fun c =>
    { c with mx := c.mx.forget w, vx := c.vx.forget w, cp := c.cp.forget w }
  { s2 with
    agenda := s2.agenda.map fun x => { x with ev := x.ev.forget w },
    dies := smMap (fun _ d => d.forget w) s2.dies }

/-- Forgets what an instruction has loaded of its operands: it begins anew when it issues again. -/
def State.dropPieces (s : State) (w : Who) : State := s.modThread w fun t => { t with pieces := [] }

/-- Drops the reservation a thread holds, as `rsv.drop` does, and forgets its place in a queue (R271). The bank hands the
word on in its own step. -/
def State.dropRsv (s : State) (w : Who) : State :=
  { s with
    dies := smMap (fun _ d =>
      { d with rsv := smMap (fun _ q =>
        { q with holder := q.holder.filter (· != w), queue := q.queue.filter fun r => r.w != w }) d.rsv }) s.dies }

/-- A generator that no thread has claimed (R64, R277). -/
def Gen.free : Gen :=
  { owner := none, base := 0, stride0 := 0, stride1 := 0, stride2 := 0, count0 := 1, count1 := 1, count2 := 1, pos0 := 0,
    pos1 := 0, pos2 := 0, size := 3, sext := false, exhausted := false, bound := none, pol := 0, ahead := [], taken := [] }

/-- Unbinds the classes of a slot; held messages stay held (R302). -/
def Core.unbindClasses (c : Core) (slot : Nat) : Core :=
  { c with
    classes := smMap (fun _ k =>
      if k.slot == some slot then { k with slot := none, armed := false, ready := false, named := false } else k) c.classes }

/-- Frees the generators of a slot (R302). -/
def Core.freeGens (c : Core) (slot : Nat) : Core := { c with gens := smFilter (fun _ g => g.owner != some slot) c.gens }

/-- An arrival of a thread that has ended on its way to a barrier (R297): it is counted, and recorded for no thread. The slot stands above 63 in
it. -/
def Ev.orphan (w : Who) : Ev → Ev
  | .barrierArrival k n x => .barrierArrival k n (if x = w then { w with slot := w.slot + Config.slots } else x)
  | e => e

/-- Forgets the barrier arrivals of the thread of a slot (R297: they are the thread's). -/
def State.forgetArrivals (s : State) (w : Who) : State :=
  ({ s with agenda := s.agenda.map fun x => { x with ev := x.ev.orphan w } } : State).modCluster (clusterOf w.core) fun k =>
    { k with barriers := smMap (fun _ b => { b with arrived := smDel b.arrived (64 * w.core + w.slot) }) k.barriers }

/-- Frees a slot: its thread, leases, generators and class bindings go (R339, R346). -/
def State.freeSlot (s : State) (w : Who) : State :=
  match s.thread w with
  | none => s
  | some t =>
    let s1 := (((s.cancelWait w).dropRsv w).forgetArrivals w).dropLeases t.leases
    let drop := fun ev => match ev with
      | Ev.wcbDrainTimeout x _ => x == w
      | Ev.forwardedInstructionArrival x _ => x == w
      | _ => false
    (s1.unschedule drop).modCore w.core fun c =>
      let c' := (c.unbindClasses w.slot).freeGens w.slot
      { c' with threads := smDel c'.threads w.slot, writes := c'.writes.filter fun x => x.slot != w.slot }

/-- The members of a gang, by the leader's core (R151): one slot of n consecutive cores. -/
def gangWho (w : Who) (g : Gang) (j : Nat) : Who := { core := w.core - g.member + j, slot := w.slot }

/-- Tells the followers that a gang has disbanded: each issues what is in its queue, then resumes at `gret` (R157). -/
def State.endFollowers (s : State) (leader : Who) (n : Nat) : State :=
  (List.range n).foldl
    (fun s j => if j = 0 then s else s.modThread { leader with core := leader.core + j } fun t =>
      { t with gang := t.gang.map fun g => { g with ended := true } }) s

/-- A member of a gang traps or is pre-empted (R157): it leaves the gang; the leader learns of it 2j cycles later. -/
def State.leaveGang (s : State) (w : Who) (cause : Nat) : State :=
  match s.thread w with
  | none => s
  | some t =>
    match t.gang with
    | none => s
    | some g =>
      let s1 := s.modThread w fun t => { t with gang := none, gidx := 0, fq := [] }
      if g.member = 0 then s1.endFollowers w g.n
      else if g.ended then s1
      else s1.after (2 * g.member) (.gangTrapNotice (gangWho w g 0) g.member cause)

/-- An engine of a core. -/
def Core.unit (c : Core) : Engine → Unit3
  | .mx => c.mx
  | .vx => c.vx
  | .cp => c.cp

/-- Writes an engine of a core. -/
def Core.setUnit (c : Core) (k : Engine) (u : Unit3) : Core :=
  match k with
  | .mx => { c with mx := u }
  | .vx => { c with vx := u }
  | .cp => { c with cp := u }

/-- A thread's report list for an engine (R329). -/
def Thread.reports (t : Thread) : Engine → List Report
  | .mx => t.repMx
  | .vx => t.repVx
  | .cp => t.repCp

/-- Writes a report list. -/
def Thread.setReports (t : Thread) (k : Engine) (l : List Report) : Thread :=
  match k with
  | .mx => { t with repMx := l }
  | .vx => { t with repVx := l }
  | .cp => { t with repCp := l }

/-- A command's tag (R87). -/
def Cmd.tag (c : Cmd) : Nat := (c.bits.extractLsb' 0 16).toNat
/-- The completion word (R159). -/
def completionWord (tag status : Nat) (moved : Bool) : Word := BitVec.ofNat 32 (tag + status * 2 ^ 16 + moved.toNat * 2 ^ 24)

/-- Enters a completion word in a report list. -/
def reportDone (seq : Nat) (v : Word) (lines : List Nat) (l : List Report) : List Report :=
  l.map fun r => if r.seq = seq then { r with done := some v, lines } else r

/-- The commands of a group that an engine has not begun (R164). -/
def Unit3.unbegun (u : Unit3) (gid : Nat) : List Cmd :=
  (u.queue ++ u.outside ++ ((u.exec.filter fun r => !r.started).map (·.cmd)).toList).filter fun c => c.gid == gid

/-- Discards the commands of a group that an engine has not begun (R164); one that has begun runs on. -/
def Unit3.dropGroup (u : Unit3) (gid : Nat) : Unit3 :=
  { u with
    queue := u.queue.filter fun c => c.gid != gid,
    outside := u.outside.filter fun c => c.gid != gid,
    exec := u.exec.filter fun r => r.started || r.cmd.gid != gid }

/-- A kept thread hears of its discarded commands, which complete with status 2 (R160, R164). -/
def Core.tellDropped (c : Core) (gid slot : Nat) (k : Engine) (t : Thread) : Thread :=
  ((c.unit k).unbegun gid).foldl
    (fun t x => if x.w.slot = slot then t.setReports k (reportDone x.seq (completionWord x.tag 2 false) [] (t.reports k)) else t) t

/-- Whether a group is an uncommitted task (R221). -/
def Group.uncommitted (g : Group) : Bool :=
  g.taskMode && (g.phase == .fetch || g.phase == .running || g.phase == .retired)

/-- The task groups of a die: core, number and group. -/
def State.dieGroups (s : State) (die : Nat) : List (Nat × Nat × Group) :=
  (s.cores.filter fun p => dieOf p.1 == die && !isLantern p.1).flatMap fun p => p.2.groups.map fun q => (p.1, q.1, q.2)

/-- The uncommitted task of a list with the smallest order key (R221). -/
def oldestTask : List (Nat × Nat × Group) → Option (Nat × Nat × Group)
  | [] => none
  | x :: t =>
    match oldestTask t with
    | none => some x
    | some y => if keyLt (y.2.2.key y.1) (x.2.2.key x.1) then some y else some x

/-- Makes the oldest uncommitted task of a die secure, if no task of the die is (R227). -/
def State.secureUp (s : State) (die : Nat) : State :=
  let gs := (s.dieGroups die).filter fun x => x.2.2.uncommitted
  if gs.any fun x => x.2.2.secure then s
  else match oldestTask gs with
    | some (c, i, _) => s.modGroup c i fun g => { g with secure := true }
    | none => s

/-- Aborts a task group (R225): its speculative lines, held effects, leases, threads and unbegun commands go; one thread may
be kept, to run a handler, with no lease (R263) and no part in a round, since its `det.open` was held (R202). A gang that one of its
threads leads or follows loses it without a trap of its own; the spec names no cause for that, and the leader's GANG_DISBANDED
carries PREEMPT here.
Log 116 (DESIGN CHOICE, unsafe). -/
def State.killGroup (s : State) (core gid : Nat) (keep : Option Nat) : State :=
  match s.group core gid with
  | none => s
  | some g =>
    let s1 := g.slots.foldl (fun s i =>
      if keep = some i || ((s.thread { core, slot := i }).map (·.gid)) != some gid then s else ((s.leaveGang { core, slot := i } cPreempt).freeSlot { core, slot := i })) s
    let kept := match keep with
      | some i => ((s1.thread { core, slot := i }).map (·.leases)).getD []
      | none => []
    let s2 := (s1.dropLeases g.leases).dropLeases kept
    let s3 := match keep with
      | some i => s2.modThread { core, slot := i } fun t =>
          [Engine.mx, .vx, .cp].foldl (fun t k => (s2.core core).tellDropped gid i k t) { t with leases := [], parts := [] }
      | none => s2
    s3.modCore core fun c =>
      { c with
        spec := c.spec.filter fun x => x.gid != gid, groups := smDel c.groups gid, mx := c.mx.dropGroup gid,
        vx := c.vx.dropGroup gid, cp := c.cp.dropGroup gid }

/-- Aborts a task and returns its record to be run again (R225); `mark` leaves it fault-pending (R384). -/
def State.abortGroup (s : State) (core gid : Nat) (mark : Bool) (keep : Option Nat) : State :=
  match s.group core gid with
  | none => s
  | some g =>
    ((s.killGroup core gid keep).putBack core { g.task with faulted := mark, again := true }).secureUp (dieOf core)

/-- Whether a group holds a line in a signature. -/
def Group.holds (g : Group) (line : Nat) : Bool := sigHas g.rsig line || sigHas g.wsig line

/-- Whether a secure task of a die, other than the writer's own, makes a direct write of a line wait there (R227). -/
def State.writeBlocked (s : State) (die line : Nat) (own : Option (Nat × Nat)) : Bool :=
  (s.dieGroups die).any fun x => x.2.2.uncommitted && x.2.2.secure && x.2.2.holds line && own != some (x.1, x.2.1)

/-- Whether a secure task of a die makes another agent's load of a line wait at the home (R227). -/
def State.readBlocked (s : State) (die line : Nat) (own : Option (Nat × Nat)) : Bool :=
  (s.dieGroups die).any fun x =>
    x.2.2.uncommitted && x.2.2.secure && sigHas x.2.2.wsig line && own != some (x.1, x.2.1)

/-- Aborts every uncommitted task of a die, other than a secure one, that holds a line (R226). -/
def State.abortHolders (s : State) (die line : Nat) : State :=
  ((s.dieGroups die).filter fun x => x.2.2.uncommitted && !x.2.2.secure && x.2.2.holds line).foldl
    (fun s x => s.abortGroup x.1 x.2.1 false none) s

/-- The group a thread belongs to, by core and number. -/
def State.ownGroup (s : State) (w : Who) : Option (Nat × Nat) := (s.thread w).map fun t => (w.core, t.gid)

end Sys2Proof.Machine
end

