-- ==== Sys2Proof/Machine/Mem.lean ====
section
/-!
DEFINITION. A thread's accesses: local stores and their full/empty bits (R212, R213, R264), loads through the thread's own bytes
and the L1 (R211, R216, R218), stores by mode (R266), and the coherent value of a line (R236, R241), with the line pulled home
for a write there (R226, R240). Alignment, range and translation are checked in the order of R265.
-/
namespace Sys2Proof.Machine

/-- What an instruction's body comes to. -/
inductive Res where
  /-- completed; the pc advances by the instruction's length -/
  | done (s : State)
  /-- completed; the pc is this one -/
  | jump (s : State) (pc : Half)
  /-- a cause with restart point "at" (R387): no effect -/
  | trap (cause : Nat) (tval : Dword)
  /-- completed, then a cause with restart point "after" -/
  | after (s : State) (cause : Nat) (tval : Dword)
  /-- leaves rotation (R72); the answer completes the instruction -/
  | wait (s : State) (w : Wait)
  /-- leaves rotation and issues again when the object clears; `mark` makes the task unbounded (R228) -/
  | retry (o : Obj) (mark : Bool)
  /-- leaves rotation until a piece of an operand in memory has been loaded, and issues again -/
  | piece (w : Wait)
  /-- the body has settled where the thread stands -/
  | left (s : State)
  deriving Repr

/-- Where an address of R264 leads. -/
inductive AddrPlace where
  | memory
  | own (off : Nat)
  | window (core off : Nat)
  | bad
  deriving DecidableEq, Repr

/-- Decodes an address of a core (R264). A lantern core has no local store (R359). -/
def placeOf (core : Nat) (va : Dword) : AddrPlace :=
  let a := va.toNat
  if a < Config.lb then .memory
  else if isLantern core then .bad
  else
    let o := a - Config.lb
    if o < Config.localBytes then .own o
    else if o < 0x1000000 then .bad
    else
      let x := o - 0x1000000
      let c := x / 0x100000
      let off := x % 0x100000
      if c ≤ 15 && off < Config.localBytes then
        if 16 * clusterOf core + c = core then .own off else .window (16 * clusterOf core + c) off
      else .bad

/-- A word of a local store. -/
def Core.lword (c : Core) (i : Nat) : Word := smGetD c.lstore i 0
/-- The full/empty bit of a word (R213): true is full. -/
def Core.isFull (c : Core) (i : Nat) : Bool := smGetD c.fe i true
/-- Writes a full/empty bit. -/
def Core.setFull (c : Core) (i : Nat) (b : Bool) : Core := { c with fe := if b then smDel c.fe i else smSet c.fe i false }
/-- Writes a word of a local store; a poisoned word is clean again (R397). -/
def Core.setLword (c : Core) (i : Nat) (v : Word) : Core :=
  { c with lstore := if v = 0 then smDel c.lstore i else smSet c.lstore i v, poison := smDel c.poison i }

/-- n words of a local store from a word index, as one number. -/
def Core.lwords (c : Core) (i : Nat) : Nat → Nat
  | 0 => 0
  | n + 1 => (c.lword i).toNat + 2 ^ 32 * c.lwords (i + 1) n

/-- Writes n words of a number to a local store. -/
def Core.setLwords (c : Core) (i : Nat) : Nat → Nat → Core
  | 0, _ => c
  | n + 1, v => (c.setLword i (BitVec.ofNat 32 v)).setLwords (i + 1) n (v / 2 ^ 32)

/-- n bytes of a local store, n a size of R265, at an aligned offset. -/
def Core.lread (c : Core) (o n : Nat) : Nat :=
  if n < 4 then (c.lword (o / 4)).toNat / 2 ^ (8 * (o % 4)) % 2 ^ (8 * n) else c.lwords (o / 4) (n / 4)

/-- Writes n bytes to a local store at an aligned offset, leaving full/empty bits alone (R213). -/
def Core.lwrite (c : Core) (o n v : Nat) : Core :=
  if n < 4 then
    let w := (c.lword (o / 4)).toNat
    let old := w / 2 ^ (8 * (o % 4)) % 2 ^ (8 * n)
    let x := BitVec.ofNat 32 (w - old * 2 ^ (8 * (o % 4)) + v % 2 ^ (8 * n) * 2 ^ (8 * (o % 4)))
    { c with lstore := if x = 0 then smDel c.lstore (o / 4) else smSet c.lstore (o / 4) x }
  else c.setLwords (o / 4) (n / 4) v

/-- Writes n bytes as an engine does: every word touched is set full (R162). -/
def Core.engineWrite (c : Core) (o n v : Nat) : Core :=
  (List.range ((o % 4 + n + 3) / 4)).foldl (fun c i => c.setFull (o / 4 + i) true) (c.lwrite o n v)

/-- The cause of the first poisoned word of a span of a local store (R397). -/
def Core.poisoned (c : Core) (o n : Nat) : Option Nat :=
  (c.poison.find? fun p => o / 4 ≤ p.1 && decide (p.1 * 4 < o + n)).map (·.2)

/-- Whether a thread buffers its stores in a task (R218): it runs in task mode and its group is there. -/
def State.taskOf (s : State) (w : Who) (t : Thread) : Option Group := if t.openMode then none else s.group w.core t.gid

/-- The bytes of a line that a thread reads first (R211, R216): its task's speculative bytes, or its combined ones. -/
def State.ownBytes (s : State) (w : Who) (t : Thread) (line : Nat) : LineWrite :=
  let none' : LineWrite := { line, data := 0, mask := 0 }
  if t.openMode then ((t.wcb.find? fun x => x.lw.line == line).map (·.lw)).getD none'
  else (((s.core w.core).spec.find? fun x => x.gid == t.gid && x.lw.line == line).map (·.lw)).getD none'

/-- The bytes of a line that other task groups of a core have stored: a load of them is served from the L2 (R218). -/
def Core.othersMask (c : Core) (own : Option Nat) (line : Nat) : LineMask :=
  c.spec.foldl (fun m x => if x.lw.line == line && own != some x.gid then m ||| x.lw.mask else m) 0

/-- The bytes of a line that its task has written through to the home, which no L1 holds (R228). -/
def Core.throughMask (c : Core) (own : Option Nat) (line : Nat) : LineMask :=
  c.spec.foldl (fun m x => if x.through && x.lw.line == line && own == some x.gid then m ||| x.lw.mask else m) 0

/-- The bytes of a line that a thread's load finds in the core (R211, R216, R218): its own bytes over the L1's, but for the bytes that
other task groups have stored. -/
def State.coreBytes (s : State) (w : Who) (t : Thread) (line : Nat) : LineWrite :=
  let own := s.ownBytes w t line
  let gid := if t.openMode then none else some t.gid
  let c := s.core w.core
  let l1 := smGet c.l1 line
  let data := overlay ((l1.map (·.data)).getD 0) own.data own.mask
  let mask := (((l1.map (·.mask)).getD 0 &&& ~~~ c.othersMask gid line) ||| own.mask) &&& ~~~ c.throughMask gid line
  { line, data := overlay 0 data mask, mask }

/-- Joins a line to the read signature of a thread's task (R223). -/
def State.joinRead (s : State) (w : Who) (t : Thread) (line : Nat) : State :=
  if t.openMode then s else s.modGroup w.core t.gid fun g => { g with rsig := sigAdd g.rsig line }

/-- Joins a line to the write signature of a thread's task (R223). -/
def State.joinWrite (s : State) (w : Who) (t : Thread) (line : Nat) : State :=
  if t.openMode then s else s.modGroup w.core t.gid fun g => { g with wsig := sigAdd g.wsig line }

/-- Marks an L1 line as used, with the class of the access (R267). -/
def Core.touch (c : Core) (line : Nat) (pol : Word) : Core :=
  match smGet c.l1 line with
  | some x => { c with l1 := smSet c.l1 line { x with cls := lineClass pol line, use := c.uses }, uses := c.uses + 1 }
  | none => c

/-- What a load finds. -/
inductive LoadRes where
  | hit (s : State) (v : Nat)
  /-- the line is not all there; the read signature has been joined -/
  | miss (s : State) (a : Access)
  | window (core off : Nat)
  | control (pa : Nat)
  | stop (r : Res)
  deriving Repr

/-- A load of n bytes of a thread, up to the data that the core holds (R264 to R266). -/
def State.load (s : State) (w : Who) (t : Thread) (va : Dword) (n : Nat) (pol : Word) : LoadRes :=
  if va.toNat % n ≠ 0 then .stop (.trap cMisaligned va)
  else match placeOf w.core va with
    | .bad => .stop (.trap cLocalBound va)
    | .window c off => .window c off
    | .own off =>
      match (s.core w.core).poisoned off n with
      | some cause => .stop (.trap cause va)
      | none => .hit s ((s.core w.core).lread off n)
    | .memory =>
      match s.xlate w t va n false pol with
      | .fault cause tval => .stop (.trap cause tval)
      | .miss => .stop (.retry (.walk t.spc va false) false)
      | .control pa => .control pa
      | .ok a =>
        let b := s.coreBytes w t a.line
        let need := maskOf (a.pa % 128) n
        match smGet s.poison a.line with
        | some cause => .stop (.trap cause va)
        | none =>
          let s1 := s.joinRead w t a.line
          if b.mask &&& need = need then
            .hit (s1.modCore w.core fun c => c.touch a.line pol) (lineNat b.data (a.pa % 128) n)
          else .miss s1 a

/-- What a store comes to. -/
inductive StoreRes where
  | ok (s : State)
  | window (core off : Nat)
  | control (pa : Nat)
  | stop (r : Res)
  deriving Repr

/-- Puts an open-mode store in the write-combining buffer (R216), and its line in the dirty signature (R231). A fifth line
drains one, which the spec does not specify.
Log 12 (DESIGN CHOICE, safe). -/
def State.wcbPut (s : State) (w : Who) (a : Access) (lw : LineWrite) : State :=
  match s.thread w with
  | none => s
  | some t =>
    if t.wcb.any fun x => x.lw.line == lw.line then
      s.modThread w fun t =>
        { t with
          dirty := sigAdd t.dirty lw.line,
          wcb := t.wcb.map fun x => if x.lw.line == lw.line then { x with lw := mergeWrites x.lw lw, acc := a } else x }
    else
      let s1 :=
        if t.wcb.length < 4 then s
        else match t.wcb[Config.pick s.fresh % t.wcb.length]? with
          | some x => { s with fresh := s.fresh + 1 }.drainWcb w fun l => l == x.lw.line
          | none => s
      (s1.modThread w fun t =>
        { t with dirty := sigAdd t.dirty lw.line, wcb := t.wcb ++ [{ lw, first := s.cycle, acc := a }] }).after 256
        (.wcbDrainTimeout w lw.line)

/-- A store to memory by the mode of its thread (R216, R218, R228).
Log 32 (DEDUCED, unsafe). -/
def State.storeMem (s : State) (w : Who) (t : Thread) (a : Access) (lw : LineWrite) : StoreRes :=
  if t.openMode then .ok (s.wcbPut w a lw)
  else match s.group w.core t.gid with
    | none => .ok (s.wcbPut w a lw)
    | some g =>
      let c := s.core w.core
      if g.unbounded && !g.secure then .stop (.retry .secure false)
      else match c.specPut t.gid lw a with
        | some c' => .ok ((s.setCore w.core c').joinWrite w t lw.line)
        | none =>
          if g.unbounded then
            .ok ((s.setCore w.core (c.specThrough t.gid lw a)).joinWrite w t lw.line)
          else .stop (.retry (.place lw.line) (c.specOwnOnly t.gid lw.line))

/-- A store of n bytes of a thread (R264 to R266). -/
def State.store (s : State) (w : Who) (t : Thread) (va : Dword) (n v : Nat) (pol : Word) : StoreRes :=
  if va.toNat % n ≠ 0 then .stop (.trap cMisaligned va)
  else match placeOf w.core va with
    | .bad => .stop (.trap cLocalBound va)
    | .window c off => .window c off
    | .own off => .ok (s.modCore w.core fun c => c.lwrite off n v)
    | .memory =>
      match s.xlate w t va n true pol with
      | .fault cause tval => .stop (.trap cause tval)
      | .miss => .stop (.retry (.walk t.spc va true) false)
      | .control pa => .control pa
      | .ok a => s.storeMem w t a (lineWriteOf a.pa n v)

/-- Enters a signature in a release log (R232). -/
def RelLog.push (l : RelLog) (g : Signature) : RelLog := { next := l.next + 1, entries := (g :: l.entries).take 64 }

/-- The die that holds a line E, M or O, as its home directory records (R240). -/
def State.ownerOf (s : State) (home line : Nat) : Option Nat :=
  match smGet (s.die home).dir line with
  | some e => (e.holders.find? fun h => h.2 != Moesi.s).map (·.1)
  | none => none

/-- The write-back of a line that is on its way from a die (R240). -/
def State.backOf (s : State) (die line : Nat) : Option LineWrite :=
  s.agenda.findSome? fun x => match x.ev with
    | .writeBack d lw => if d == die && lw.line == line then some lw else none
    | _ => none

/-- The granted bytes of a die copy (R240). -/
def State.grantedOf (s : State) (die line : Nat) : Option LineWrite :=
  ((smGet (s.die die).copies line).map fun c => ({ line, data := c.data, mask := c.valid } : LineWrite)).filter fun x => x.mask != 0

/-- The value of a line that the home serves (R240, R241): its owner's granted bytes, or those that the owner has written back and that are
on their way (R242), or the storage. -/
def State.homeValue (s : State) (home line : Nat) : LineData :=
  match s.ownerOf home line with
  | some d =>
    match s.grantedOf d line <|> s.backOf d line with
    | some x => overlay (memLine s.mem line) x.data x.mask
    | none => memLine s.mem line
  | none => memLine s.mem line

/-- The value of a line visible on a die (R241): the granted bytes of its die copy, or the home's, under the pending ones. -/
def State.dieValue (s : State) (die home line : Nat) : LineData :=
  if die = home then s.homeValue home line
  else match smGet (s.die die).copies line with
    | some c => overlay (overlay (s.homeValue home line) c.data c.valid) c.pdata c.pend
    | none => s.homeValue home line

/-- The bytes of a core's own lines on their way home, laid over a line in the order they left (R209). -/
def State.overFlights (s : State) (core line : Nat) (d : LineData) : LineData :=
  (s.core core).flights.foldl (fun d f => if f.lw.line = line then overlay d f.lw.data f.lw.mask else d) d

/-- The value that a load of a thread reads at its serving point: the die's value, the core's own lines on their way, and the
thread's own bytes. -/
def State.viewLine (s : State) (w : Who) (t : Thread) (a : Access) : LineData :=
  let b := s.ownBytes w t a.line
  overlay (s.overFlights w.core a.line (s.dieValue (dieOf w.core) a.homeDie a.line)) b.data b.mask

/-- Writes bytes of a line to its storage; a poisoned line that is written whole is clean again (R397).
Log 30 (DEDUCED, unsafe). -/
def State.perform (s : State) (lw : LineWrite) : State :=
  { s with
    mem := memPutLine s.mem lw,
    poison := if lw.mask = BitVec.allOnes 128 then smDel s.poison lw.line else s.poison }

/-- Drops a line from every L1 and constant cache of a die (R241). -/
def State.dropLineDie (s : State) (die line : Nat) : State :=
  { s with cores := smMap (fun c x => if dieOf c == die && !isLantern c then x.dropLine line else x) s.cores }

/-- Takes a die's granted copy of a line from it (R226, R241): its tasks that hold the line abort, its L1s drop it, and pending bytes stay
pending. `collapse` counts an S copy that an ownership grant removes (R249).
Log 124 (DEDUCED, unsafe). -/
def State.dropCopy (s : State) (die line : Nat) (collapse : Bool) : State :=
  ((s.abortHolders die line).dropLineDie die line).modDie die fun d =>
    match smGet d.copies line with
    | none => d
    | some c =>
      { d with
        copies := if c.pend = 0 then smDel d.copies line else smSet d.copies line { c with state := none, valid := 0 },
        collapsed := if collapse && c.state == some Moesi.s then d.collapsed + 1 else d.collapsed }

/-- A region that has not been touched (R245). -/
def Region.fresh : Region := { pol := 0, degree := 1, r := 0, w := 0, c := 0 }

/-- The degree of a region under the policy of a page entry (R245). -/
def Region.effective (r : Region) (pol : BitVec 2) : Nat := if pol = 1#2 then 0 else if pol = 2#2 then 7 else r.degree

/-- Changes a region's controller (R246), and notes the policy of the latest access. -/
def State.modRegion (s : State) (line : Nat) (f : Region → Region) : State :=
  { s with regions := smSet s.regions (line / 512) (f (smGetD s.regions (line / 512) Region.fresh)) }

/-- Takes every die copy of a line back to its home at once, for an agent that acts there (R226, R240, R247).
Log 30 (DEDUCED, unsafe). -/
def State.pullHome (s : State) (home line : Nat) : State :=
  match smGet (s.die home).dir line with
  | none => s
  | some e =>
    let v := s.homeValue home line
    let s1 := if (s.ownerOf home line).isSome then s.perform { line, data := v, mask := BitVec.allOnes 128 } else s
    let s2 := s1.unschedule fun ev => match ev with | .writeBack _ lw => lw.line == line | _ => false
    let s3 := e.holders.foldl (fun s h => s.dropCopy h.1 line true) s2
    let s4 := if e.holders.any fun h => h.2 == .s then s3.modRegion line fun g => { g with c := g.c + 1 } else s3
    s4.modDie home fun d => { d with dir := smSet d.dir line { e with holders := [] } }

/-- A write performed at once at a home (R226): the line is pulled home, its holders there abort, and the bytes are written. -/
def State.writeHome (s : State) (home : Nat) (lw : LineWrite) : State :=
  ((s.pullHome home lw.line).abortHolders home lw.line).perform lw

end Sys2Proof.Machine
end

