-- ==== Sys2Proof/Machine/Directory.lean ====
section
/-!
DEFINITION. The home directory (R240 to R247): requests served one transaction a line in the order in which they reach the home, agents
that act at the home itself, forwards, invalidations, grants and back-invalidations; the residence of lines in the L2 of their home (R267)
and in die copies (R402).
-/
namespace Sys2Proof.Machine

/-- The home die of a line whose directory entry may exist (R237).
Log 83 (DESIGN CHOICE, unsafe). -/
def State.homeOf (s : State) (line : Nat) : Nat :=
  if line < 2 ^ 32 then line / 2 ^ 29 % 8
  else ((s.dies.find? fun p => (smGet p.2.dir line).isSome).map (·.1)).getD 0

/-! The L2 of the home. -/

/-- The second-tier port that serves an offset of the second-tier window: port k's memory follows that of port k − 1 (R373). -/
def tierPort (off : Nat) : Nat :=
  ((List.range 8).find? fun k => decide (off < (List.range (k + 1)).foldl (fun n j => n + Config.tierBytes j) 0)).getD 7

/-- Hops from a die to the end die of its row that is linked to the I/O die of a port (R14, R15): io 0 has ports 0 to 3 and is linked to
column 0, io 1 has ports 4 to 7 and is linked to column 3. -/
def hopsToPort (die port : Nat) : Nat := if port < Config.perIoDie then die % 4 else 3 - die % 4

/-- Cycles that an access adds when it misses the L2 of its home (R23, R24). -/
def missTime (home line : Nat) : Nat :=
  if line < 2 ^ 32 then Config.latMiss
  else Config.latTier - Config.latL2 + Config.latHop * hopsToPort home (tierPort (line * 128 - 0x8000000000000))

/-- Cycles that the L2 of the home adds to an access of a line (R24, R244): none where the line is resident there. -/
def State.missLat (s : State) (home line : Nat) : Nat := if (smGet (s.die home).l2 line).isSome then 0 else missTime home line

/-- The lines of an L2 slice in the set of a line.
Log 105 (DESIGN CHOICE, safe). -/
def Die.l2Mates (d : Die) (slice line : Nat) : List (Nat × L2Line) :=
  d.l2.filter fun p => p.2.slice == slice && Config.l2Set p.1 == Config.l2Set line

/-- The lines of a home's L2 with one more of a slice (R267): a full set gives up a line that is not pinned.
Log 11 (DESIGN CHOICE, unsafe). -/
def Die.l2Put (d : Die) (slice line cls : Nat) : SMap L2Line :=
  match smGet d.l2 line with
  | some x => smSet d.l2 line { x with cls, use := d.uses }
  | none =>
    let put := fun l => smSet l line { slice, cls, use := d.uses, pins := [] }
    let mates := d.l2Mates slice line
    if mates.length < 2 * Config.l2HalfWays then put d.l2
    else match victim (fun x : L2Line => (x.cls, x.use)) (mates.filter fun p => p.2.pins.isEmpty) with
      | some v => put (smDel d.l2 v.1)
      | none => d.l2

/-- Makes a line resident in the L2 of its home and gives it the class of its latest access there (R238, R267).
Log 11 (DESIGN CHOICE, unsafe). -/
def State.l2Touch (s : State) (home slice line cls : Nat) : State :=
  s.modDie home fun d => { d with l2 := d.l2Put slice line cls, uses := d.uses + 1 }

/-! Entries, queues and turns. -/

/-- One leg of a directory transaction between two dies (R244): 70 cycles, and 12 for each hop beyond the first, so that a
round trip takes 140 and 24 more a hop (R24).
Log 29 (DEDUCED, unsafe). -/
def latLeg (a b : Nat) : Nat := if a = b then 0 else 70 + 12 * (hops a b - 1)

/-- A directory entry that records no copy. -/
def DirEntry.empty : DirEntry := { holders := [], busy := none, queue := [] }

/-- The directory entry of a line at a die. -/
def State.dirEntry (s : State) (home line : Nat) : DirEntry := smGetD (s.die home).dir line DirEntry.empty

/-- Writes a directory entry. -/
def State.setDir (s : State) (home line : Nat) (e : DirEntry) : State :=
  s.modDie home fun d => { d with dir := smSet d.dir line e }

/-- The event of a request. -/
def dirEv (r : DirReq) : Ev := if r.own then .directoryOwnership r else .directoryRead r

/-- When a transaction ends, the request at the head of the line's queue is served (R242). -/
def State.dirNext (s : State) (home line : Nat) : State :=
  let e := s.dirEntry home line
  match e.busy, e.queue with
  | none, ev :: _ => if s.agenda.any fun x => x.ev == ev then s else s.after 0 ev
  | _, _ => s

/-- A request waits in the queue of its line (R242). -/
def State.joinLine (s : State) (home line : Nat) (ev : Ev) : State :=
  let e := s.dirEntry home line
  if e.queue.contains ev then s else s.setDir home line { e with queue := e.queue ++ [ev] }

/-- A request that is no more leaves the queue of its line. -/
def State.leaveLine (s : State) (home line : Nat) (ev : Ev) : State :=
  match smGet (s.die home).dir line with
  | none => s
  | some e =>
    if e.queue.contains ev || e.busy.any (fun t => t.agent == some ev) then
      (s.setDir home line { e with queue := e.queue.erase ev, busy := e.busy.filter fun t => t.agent != some ev }).dirNext home line
    else s

/-- Whether a line is held at its home by a secure task of one's own (R227): its own accesses do not wait behind those that it holds
back.
Log 29 (DEDUCED, unsafe). -/
def State.mineSecure (s : State) (home line : Nat) (own : Option (Nat × Nat)) : Bool :=
  match own with
  | none => false
  | some (core, gid) =>
    dieOf core == home && (match s.group core gid with
      | some g => g.uncommitted && g.secure && g.holds line
      | none => false)

/-- Whether a step applies an update of an ordered round, for which every other request of the line waits (R202). -/
def Ev.ofRound : Ev → Bool
  | .roundUpdateArrival _ | .heldUpdateApply _ => true
  | _ => false

/-- Whether it is the turn of a request of a line (R242): no transaction is in progress, or its own has gathered its acknowledgements; and no
request stands before it. -/
def State.turn (s : State) (home line : Nat) (ev : Ev) (own : Option (Nat × Nat)) : Bool :=
  match smGet (s.die home).dir line with
  | none => true
  | some e =>
    match e.busy with
    | some t => t.agent == some ev && t.acks == 0 && decide (t.due ≤ s.cycle)
    | none => e.queue.isEmpty || e.queue.head? == some ev || ev.ofRound || s.mineSecure home line own

/-- Whether a read that an agent makes at once at a home waits for the line's transaction or for requests before it (R242). -/
def State.lineTaken (s : State) (home line : Nat) (own : Option (Nat × Nat)) : Bool :=
  match smGet (s.die home).dir line with
  | none => false
  | some e => e.busy.isSome || (!e.queue.isEmpty && !s.mineSecure home line own)

/-- The request of a back-invalidation, or of an agent that acts at the home itself. -/
def homeReq (home line : Nat) : DirReq :=
  { die := home, home, line, own := true, w := none, policy := 0, norep := true, slice := none, hslice := 0, cls := 0 }

/-- A transaction that begins. -/
def Trans.begin (req : DirReq) (agent : Option Ev) (back : Bool) : Trans := { req, agent, acks := 0, due := 0, back }

/-- Applies a write-back that is on its way (R242), and records that its die holds no copy. -/
def State.takeBack (s : State) (home die line : Nat) : State :=
  match s.backOf die line with
  | some lw =>
    let e := s.dirEntry home line
    let s1 := s.unschedule fun ev => match ev with | .writeBack d x => d == die && x.line == line | _ => false
    (if (e.holders.find? fun h => h.1 == die && h.2 != .s).isSome then s1.perform lw else s1).setDir home line
      { e with holders := e.holders.filter fun h => h.1 != die }
  | none => s

/-- Whether a state is one whose holder hands its data over. -/
def Moesi.dirty (x : Moesi) : Bool := x == .m || x == .o

/-- Sends invalidations to the dies that hold a line, for a transaction that ends with the last of them (R240, R243). An M or O holder that
hands its data over does so in 60 cycles a leg (R244).
Log 29 (DEDUCED, unsafe). -/
def State.sendInvals (s : State) (home line : Nat) (t : Trans) (hs : List (Nat × Moesi)) : State :=
  let e := s.dirEntry home line
  let s1 := s.setDir home line { e with busy := some { t with acks := hs.length, due := s.cycle } }
  hs.foldl (fun s h => s.afterFree (latLeg home h.1 - (if !t.back && Moesi.dirty h.2 then 10 else 0)) (.invalidation h.1 line)) s1

/-- Begins a back-invalidation of a line from some of its holders (R243). -/
def State.backInval (s : State) (home line : Nat) (hs : List (Nat × Moesi)) : State :=
  (s.modDie home fun d => { d with backinv := d.backinv + 1 }).sendInvals home line (Trans.begin (homeReq home line) none true) hs

/-! The snoop filter. -/

/-- Whether a snoop-filter set tracks a line, or has room for it (R243). -/
def State.snoopRoom (s : State) (home line : Nat) : Bool :=
  let l := smGetD (s.die home).snoop (line % 65536) []
  l.contains line || decide (l.length < 16)

/-- Allocates a snoop-filter entry (R243). -/
def State.snoopAdd (s : State) (home line : Nat) : State :=
  s.modDie home fun d =>
    let l := smGetD d.snoop (line % 65536) []
    if l.contains line then d else { d with snoop := smSet d.snoop (line % 65536) (l ++ [line]) }

/-- Frees a snoop-filter entry. -/
def State.snoopDel (s : State) (home line : Nat) : State :=
  s.modDie home fun d =>
    { d with snoop := smSet d.snoop (line % 65536) ((smGetD d.snoop (line % 65536) []).filter (· != line)) }

/-- Evicts the oldest entry of the snoop-filter set of a line (R243), if no transaction holds it. -/
def State.snoopEvict (s : State) (home line : Nat) : State :=
  match smGetD (s.die home).snoop (line % 65536) [] with
  | v :: _ =>
    let e := s.dirEntry home v
    if e.busy.isSome then s
    else if e.holders.isEmpty then s.snoopDel home v
    else s.backInval home v e.holders
  | [] => s

/-! Die copies. -/

/-- Evicts a die copy (R402): the die's L1s and constant caches drop the line first; an M or O copy is written back. -/
def State.evictCopy (s : State) (die line : Nat) (c : DieCopy) : State :=
  let s1 := (s.dropLineDie die line).modDie die fun d => { d with copies := smDel d.copies line }
  if c.state.any Moesi.dirty then
    s1.afterFree (latLeg die (s.homeOf line)) (.writeBack die { line, data := c.data, mask := c.valid })
  else s1

/-- Makes room for a line in the replica partition of a slice (R402), unless every copy of the set is pending. -/
def State.copyRoom (s : State) (die slice line : Nat) : Option State :=
  let sets := Nat.max 1 (s.replSets (256 * die + slice))
  let mine := (s.die die).copies.filter fun p => p.2.slice == slice && p.1 % sets == line % sets && p.1 != line
  if mine.length < 8 || (smGet (s.die die).copies line).isSome then some s
  else match victim (fun c : DieCopy => (c.cls, c.use)) (mine.filter fun p => p.2.pend == 0) with
    | some (l, c) => some (s.evictCopy die l c)
    | none => none

/-- Whether the replication degree admits another S copy for a request (R245). -/
def State.admits (s : State) (e : DirEntry) (r : DirReq) : Bool :=
  let deg := (smGetD s.regions (r.line / 512) Region.fresh).effective r.policy
  r.die != r.home && !r.norep && r.slice.isSome && decide ((e.holders.filter fun h => h.2 == .s && h.1 != r.die).length < deg)

/-- Grants a copy of a line to a die (R240, R249): the die copy, in the slice where it lies if it is placed already (R238), and its record
at the home. -/
def State.grantCopy (s : State) (r : DirReq) (data : LineData) (g : Moesi) : State :=
  match r.slice with
  | none => s
  | some k =>
    match s.copyRoom r.die k r.line with
    | none => s
    | some s1 =>
      let e := s1.dirEntry r.home r.line
      let s2 := s1.modDie r.die fun d =>
        let c : DieCopy :=
          { data, state := some g, valid := BitVec.allOnes 128, pend := 0, pdata := 0, slice := k, cls := r.cls, use := d.uses }
        let c' := match smGet d.copies r.line with
          | some x => { c with pend := x.pend, pdata := x.pdata, slice := x.slice }
          | none => c
        { d with copies := smSet d.copies r.line c', uses := d.uses + 1,
                 created := if g = .s then d.created + 1 else d.created }
      (s2.setDir r.home r.line { e with holders := e.holders.filter (fun h => h.1 != r.die) ++ [(r.die, g)] }).snoopAdd
        r.home r.line

/-! Requests. -/

/-- Sends the answer of a read to the thread that waits for it (R240). -/
def State.answerRead (s : State) (r : DirReq) (data : LineData) (g : Option Moesi) (more : Nat) : State :=
  match r.w with
  | some w => s.afterFree (latDie r.die r.home - latDie r.die r.home / 2 - 1 + more) (.memoryReturn w (some { line := r.line, data, grant := g }))
  | none => s

/-- Serves a read that no M, O or E holder must answer (R240, R267). -/
def State.serveRead (s : State) (r : DirReq) : State :=
  let e := s.dirEntry r.home r.line
  let data := s.homeValue r.home r.line
  let g : Moesi := if e.holders.isEmpty && r.policy != 2#2 then .e else .s
  let more := s.missLat r.home r.line
  let s1 := s.l2Touch r.home r.hslice r.line r.cls
  if s1.admits e r then (s1.grantCopy r data g).answerRead r data (some g) more else s1.answerRead r data none more

/-- The copies of a line that its region's degree no longer admits, the most recently granted ones (R246). -/
def State.excess (s : State) (home line : Nat) : List (Nat × Moesi) :=
  ((s.dirEntry home line).holders.filter fun h => h.2 == .s).drop (smGetD s.regions (line / 512) Region.fresh).degree

/-- Serves a request for ownership (R240, R247). One of the home die itself is the removal of copies beyond a lowered degree (R246). -/
def State.serveOwn (s : State) (r : DirReq) : State :=
  let e := s.dirEntry r.home r.line
  if r.die = r.home then
    match s.excess r.home r.line with
    | [] => s.dirNext r.home r.line
    | hs => s.backInval r.home r.line hs
  else
    let others := e.holders.filter fun h => h.1 != r.die
    let s1 := ((s.abortHolders r.home r.line).dropLineDie r.home r.line).snoopAdd r.home r.line
    let s2 := s1.modRegion r.line fun g =>
      { g with pol := r.policy, w := g.w + 1, c := if others.any (fun h => h.2 == .s) then g.c + 1 else g.c }
    if others.isEmpty then
      let more := if e.holders.isEmpty then s.missLat r.home r.line else 0
      ((s2.setDir r.home r.line { e with busy := some (Trans.begin r none false) }).l2Touch r.home r.hslice r.line r.cls).afterFree
        (latDie r.die r.home - latDie r.die r.home / 2 + more) (.ownershipGrant r.die r.line)
    else s2.sendInvals r.home r.line (Trans.begin r none false) others

/-- Serves the request whose turn it is (R240, R242). -/
def State.dirServe (s : State) (r : DirReq) : State :=
  let s0 := s.takeBack r.home r.die r.line
  if r.own then s0.serveOwn r
  else
    let e := s0.dirEntry r.home r.line
    let s1 := s0.modRegion r.line fun g => { g with pol := r.policy, r := if r.die != r.home then g.r + 1 else g.r }
    match s1.grantedOf r.die r.line, e.holders.find? fun h => h.1 == r.die with
    | some x, some _ => (s1.answerRead r x.data none 0).dirNext r.home r.line
    | _, _ =>
      let e1 := { e with holders := e.holders.filter fun h => h.1 != r.die }
      let s2 := s1.setDir r.home r.line e1
      match e1.holders.find? fun h => h.2 != .s with
      | some (o, _) =>
        (s2.setDir r.home r.line { e1 with busy := some { Trans.begin r none false with acks := 1 } }).afterFree
          (50 + latLeg r.home o) (.forwardRequest o r.line)
      | none => (s2.serveRead r).dirNext r.home r.line

/-- Whether an access of an agent at a home waits there for a secure task (R227) or for an ordered round (R202). -/
def State.homeHolds (s : State) (home line : Nat) (own : Option (Nat × Nat)) (write : Bool) : Bool :=
  (if write then s.writeBlocked home line own else s.readBlocked home line own) || (smGet (s.die home).rounds line).isSome

/-- A request reaches the home (R242): it waits behind a transaction, behind earlier requests, for a secure task of the home die
(R227), for an ordered round (R202), and for room in the snoop filter (R243). -/
def State.dirRequest (s : State) (r : DirReq) : State :=
  let ev := dirEv r
  let own := r.w.bind s.ownGroup
  let e := s.dirEntry r.home r.line
  let far := r.die != r.home
  if !s.turn r.home r.line ev own then s.joinLine r.home r.line ev
  else if (far || !r.own) && s.homeHolds r.home r.line own r.own then (s.joinLine r.home r.line ev).after 1 ev
  else if far && (r.own || s.admits e r) && !s.snoopRoom r.home r.line then
    ((s.joinLine r.home r.line ev).snoopEvict r.home r.line).after 1 ev
  else (s.setDir r.home r.line { e with queue := e.queue.erase ev }).dirServe r

/-! Loads. -/

/-- Whether the die of a core has every byte of an access without asking another die (R239, R240). -/
def State.dieHas (s : State) (die : Nat) (a : Access) : Bool :=
  if die = a.homeDie then
    match s.ownerOf die a.line with
    | some d => d == die
    | none => true
  else match smGet (s.die die).copies a.line with
    | some c => maskOf (a.pa % 128) a.size &&& ~~~ (c.valid ||| c.pend) == 0
    | none => false

/-- The slice that homing picks for an access on a die, for a core of the die (R234). -/
def State.sliceFor (s : State) (core die : Nat) (a : Access) : Nat :=
  (s.slicePick ((s.partOf core).getD 0) die a.line a.home a.harg).getD 0

/-- A load's request to the home directory (R240). -/
def State.readReq (s : State) (w : Who) (a : Access) : DirReq :=
  { die := dieOf w.core, home := a.homeDie, line := a.line, own := false, w := some w, policy := a.repl, norep := polNorep a.pol,
    slice := s.copySlice w.core a, hslice := s.sliceFor w.core a.homeDie a, cls := lineClass a.pol a.line }

/-- Unloaded latency of a read that the die of a core serves (R23, R24, R238): by its die copy, or as the line's home. -/
def State.ownLat (s : State) (core : Nat) (a : Access) : Nat :=
  let die := dieOf core
  Config.latL2 + s.sliceLate die a.line (s.sliceFor core die a) + if die = a.homeDie then s.missLat die a.line else 0

/-- Unloaded latency of a read that a unit of a core makes (R23, R24). -/
def State.readLat (s : State) (core : Nat) (a : Access) : Nat :=
  if s.dieHas (dieOf core) a then s.ownLat core a else latDie (dieOf core) a.homeDie + s.missLat a.homeDie a.line

/-- Sends a read for a line that the L1 misses (R72, R240): to the die's own L2, or to the home directory. -/
def State.sendRead (s : State) (w : Who) (a : Access) : State :=
  let die := dieOf w.core
  if s.dieHas die a then s.afterFree (s.ownLat w.core a - 1) (.memoryReturn w none)
  else s.afterFree (latDie die a.homeDie / 2) (.directoryRead (s.readReq w a))

/-! Writes at the home. -/

/-- An agent that writes a line at its home itself asks for its turn (R242, R247): a core of the home die, one whose die may hold no copy
(R239), another device, the host, or a bank. The line is its own once no copy of it is left, and else it waits. `held`
tells that a secure task or a round holds the write back, `arb` that it is a line that the die's own arbiter has committed, which aborts
nothing (R224). -/
def State.claim (s : State) (home line : Nat) (ev : Ev) (own : Option (Nat × Nat)) (held arb : Bool) : Except State State :=
  let e := s.dirEntry home line
  if !s.turn home line ev own then .error (if e.busy.any fun t => t.agent == some ev then s else s.joinLine home line ev)
  else if e.busy.isSome then .ok (s.setDir home line { e with busy := none })
  else if held then .error ((s.joinLine home line ev).after 1 ev)
  else
    let s1 := s.setDir home line { e with queue := e.queue.erase ev }
    if e.holders.isEmpty then .ok s1
    else
      let s2 := (if arb then s1 else s1.abortHolders home line).dropLineDie home line
      let s3 := if e.holders.any fun h => h.2 == .s then s2.modRegion line fun g => { g with c := g.c + 1 } else s2
      .error (s3.sendInvals home line (Trans.begin (homeReq home line) (some ev) false) e.holders)

/-- An agent whose turn it is writes at the home (R226): tasks that hold the line abort, and the next request is served. -/
def State.writeMine (s : State) (home : Nat) (lw : LineWrite) : State := (s.writeHome home lw).dirNext home lw.line

/-! Writes from outside the cores. -/

/-- Whether an event is a direct write of a line for an agent outside the cores. -/
def Ev.outLine (src : WriteSrc) (id : Nat) : Ev → Bool
  | .directWrite d => d.src == src && d.id == id
  | _ => false

/-- Whether a direct write of an agent outside the cores is still to be performed (R251, R252). -/
def State.outWriting (s : State) (src : WriteSrc) (id : Nat) : Bool :=
  s.agenda.any (fun x => x.ev.outLine src id) || s.dies.any fun p => p.2.dir.any fun q =>
    q.2.queue.any (Ev.outLine src id) || q.2.busy.any fun t => t.agent.any (Ev.outLine src id)

/-- Sends a direct write of a line for an agent outside the cores to the line's home (R251, R252). -/
def State.outWrite (s : State) (src : WriteSrc) (id : Nat) (lw : LineWrite) : State :=
  s.after 0 (.directWrite { src, die := s.homeOf lw.line, id, lw })

end Sys2Proof.Machine
end

