-- ==== Sys2Proof/Machine/Control.lean ====
section
/-!
DEFINITION. The pages of the control range: partition control pages (R366), counter pages (R249) and the keeper's log (R398):
where an address lies, what an aligned doubleword load reads, and the step that an aligned doubleword store makes.
-/
namespace Sys2Proof.Machine

/-- A page of the control range and the offset in it (R237). -/
inductive CtrlPage where
  | part (p off : Nat)
  | klog (die off : Nat)
  | counter (die off : Nat)
  | none
  deriving DecidableEq, Repr

/-- The page that a control address lies on. -/
def ctrlPage (pa : Nat) : CtrlPage :=
  if pa < 0xFFFFFFF000000 then .part ((pa - 0xFFFFFFE000000) / 0x20000) ((pa - 0xFFFFFFE000000) % 0x20000)
  else if pa < 0xFFFFFFF200000 then
    .klog ((pa - 0xFFFFFFF000000) / 0x40000) ((pa - 0xFFFFFFF000000) % 0x40000)
  else if 0xFFFFFFFF00000 ≤ pa && pa < 0xFFFFFFFF80000 then
    .counter ((pa - 0xFFFFFFFF00000) / 0x10000) ((pa - 0xFFFFFFFF00000) % 0x10000)
  else .none

/-- Unloaded latency of an access to a control page (R237). -/
def ctrlLat (core pa : Nat) : Nat :=
  match ctrlPage pa with
  | .klog d _ | .counter d _ => latDie (dieOf core) d
  | _ => Config.latL2Hop + Config.latHop * (dieOf core % 4)

/-- A doubleword of a partition control page (R366). -/
def State.readPart (s : State) (p off : Nat) : Dword :=
  let x := s.part p
  let member := fun c => x.spec.clusters.getLsbD (clusterOf c)
  if off = 0 then BitVec.ofNat 64 p
  else if off = 8 then x.spec.clusters.extractLsb' 0 64
  else if off = 0x10 then x.spec.clusters.extractLsb' 64 64
  else if off = 0x18 then BitVec.ofNat 64 (x.spec.s2root.toNat / 4096 % 2 ^ 40 * 4096)
  else if off = 0x20 then BitVec.ofNat 64 x.xsteal.toNat
  else if off = 0x28 then x.spill
  else if off = 0x30 then x.spillen.zeroExtend 64
  else if off = 0x38 then x.strap.zeroExtend 64
  else if off = 0x40 then BitVec.ofNat 64 x.detp.toNat
  else if 0x100 ≤ off && off < 0x200 then x.detset.extractLsb' (64 * ((off - 0x100) / 8)) 64
  else if 0x1000 ≤ off && off < 0x5000 then
    let c := (off - 0x1000) / 8
    if member c then
      let e := x.coreEnt c
      BitVec.ofNat 64 (e.space + (s.isFenced c).toNat * 2 ^ 12 + 2 ^ 13 + e.rot * 2 ^ 16 + e.shown * 2 ^ 24)
    else 0
  else if 0x5000 ≤ off && off < 0x9000 then
    let i := (off - 0x5000) / 4
    BitVec.ofNat 64 (smGetD x.pins i 0 % 2 ^ 32 + smGetD x.pins (i + 1) 0 % 2 ^ 32 * 2 ^ 32)
  else if 0x10000 ≤ off && off < 0x18000 then
    let e := smGetD x.spaces ((off - 0x10000) / 8) { quota := 0, root := 0, valid := false }
    BitVec.ofNat 64 (e.valid.toNat + e.root / 4096 * 4096 + e.quota * 2 ^ 52)
  else if 0x18000 ≤ off && off < 0x1C000 then
    let c := (off - 0x18000) / 8
    if member c then
      let e := smGetD x.redEnts c { root := false, part := false, parent := 0 }
      BitVec.ofNat 64 (e.parent % 256 + e.part.toNat * 2 ^ 16 + e.root.toNat * 2 ^ 17)
    else 0
  else 0

/-- A doubleword of a counter page (R249). -/
def State.readCounter (s : State) (die off : Nat) : Dword :=
  let d := s.die die
  if off = 0 then d.created
  else if off = 8 then d.collapsed
  else if off = 0x10 then d.hits
  else if off = 0x18 then d.raised
  else if off = 0x20 then d.lowered
  else if off = 0x28 then d.backinv
  else if 0x1000 ≤ off && off < 0x2000 then
    let q := smGetD d.qaddr ((off - 0x1000) / 16) 0
    if off % 16 = 0 then q
    else
      let line := match whereIs q.toNat with | .stored pa _ => pa / 128 | _ => q.toNat / 128
      let r := smGetD s.regions (line / 512) Region.fresh
      BitVec.ofNat 64 (r.effective r.pol + (r.pol == 1#2 || r.pol == 2#2).toNat * 16)
  else 0

/-- A doubleword of a keeper's log (R398). -/
def State.readKlog (s : State) (die off : Nat) : Dword :=
  let d := s.die die
  if off < 0x20000 then (smGetD d.klog (off / 32) 0).extractLsb' (64 * (off / 8 % 4)) 64
  else if off = 0x20000 then BitVec.ofNat 64 d.klogHead
  else 0

/-- What an aligned doubleword load of the control range reads; none where no page lies.
Log 34 (DEDUCED, unsafe). -/
def State.ctrlRead (s : State) (pa : Nat) : Option Dword :=
  match ctrlPage pa with
  | .part p off => some (s.readPart p off)
  | .counter d off => some (s.readCounter d off)
  | .klog d off => some (s.readKlog d off)
  | .none => none

/-- The step that an aligned doubleword store to the control range makes. A counter page is named as 128 + die, and a keeper's
log as 136 + die, in REGISTER_WRITE.
Log 34 (DEDUCED, unsafe). -/
def ctrlWrite (pa : Nat) (v : Dword) : Option Ev :=
  match ctrlPage pa with
  | .part p off =>
    if 0x1000 ≤ off && off < 0x5000 then some (.partitionCoreEntryWrite p ((off - 0x1000) / 8) v)
    else if 0x10000 ≤ off && off < 0x18000 then some (.spaceEntryWrite p ((off - 0x10000) / 8) v)
    else if 0x18000 ≤ off && off < 0x1C000 then some (.reductionEntryWrite p ((off - 0x18000) / 8) v)
    else if 0x100 ≤ off && off < 0x200 then some (.detsetWrite p ((off - 0x100) / 8) v)
    else if off = 0x40 then some (.detsetWrite p 32 v)
    else some (.registerWrite p off v)
  | .counter d off => some (.registerWrite (128 + d) off v)
  | .klog d off => some (.registerWrite (136 + d) off v)
  | .none => none

end Sys2Proof.Machine
end

