-- ==== Sys2Proof/Machine/Ops.lean ====
section
/-!
DEFINITION. The operations that every instruction shares: reading and writing registers (R56, R57, R63, R279), taking an
exception and returning from one (R383 to R386, R390, R391), what a completed command or an answer does to its thread, and
the checks at issue in the order of R86 around an instruction's body.
-/
namespace Sys2Proof.Machine

/-- The address of a generator's current element (R277). -/
def Gen.addr (g : Gen) : Dword :=
  g.base + g.pos0.zeroExtend 64 * g.stride0.signExtend 64 + g.pos1.zeroExtend 64 * g.stride1.signExtend 64
    + g.pos2.zeroExtend 64 * g.stride2.signExtend 64

/-- Bytes of an element (R277). -/
def Gen.bytes (g : Gen) : Nat := 2 ^ (g.size.toNat % 4)

/-- Steps a generator to its next element (R277). -/
def Gen.step (g : Gen) : Gen :=
  if g.pos0 + 1 ≠ g.count0 then { g with pos0 := g.pos0 + 1 }
  else if g.pos1 + 1 ≠ g.count1 then { g with pos0 := 0, pos1 := g.pos1 + 1 }
  else if g.pos2 + 1 ≠ g.count2 then { g with pos0 := 0, pos1 := 0, pos2 := g.pos2 + 1 }
  else { g with pos0 := 0, pos1 := 0, pos2 := 0, exhausted := true }

/-- A generator n elements on. -/
def Gen.stepN (g : Gen) : Nat → Gen
  | 0 => g
  | n + 1 => g.step.stepN n

/-- Unloaded latency of the read of a stream's element (R23, R237). -/
def State.elementLat (s : State) (core : Nat) (g : Gen) (va : Dword) : Nat :=
  match placeOf core va with
  | .own _ | .bad => Config.latL1
  | .window _ _ => Config.latWindow
  | .memory =>
    match (g.owner.bind fun slot => s.thread { core, slot }).map fun t =>
        (t, s.xlateNow core t.part t.spc va g.bytes false (t.level == .u) g.pol) with
    | some (t, .ok a) =>
      let need := maskOf (a.pa % 128) a.size
      if (s.coreBytes { core, slot := g.owner.getD 0 } t a.line).mask &&& need = need then Config.latL1 else s.readLat core a
    | some (_, .control pa) => ctrlLat core pa
    | _ => Config.latL2

/-- Starts the reads of an input stream's next elements, up to sixteen ahead of the pops (R214).
Log 31 (DEDUCED, unsafe). -/
def State.readAhead (s : State) (core i : Nat) : Nat → State
  | 0 => s
  | n + 1 =>
    match smGet (s.core core).gens i with
    | none => s
    | some g =>
      let x := g.stepN g.ahead.length
      if (g.bound.map (·.2)) == some Dir.input && decide (g.ahead.length < 16) && !x.exhausted then
        let s1 := s.modCore core fun c =>
          { c with gens := smSet c.gens i { g with ahead := g.ahead ++ [{ addr := x.addr, val := none, fault := none }] } }
        (s1.afterFree (s.elementLat core g x.addr) (.streamElementArrival core i)).readAhead core i n
      else s

/-- An element's bytes as the register value they give (R279). -/
def Gen.extend (g : Gen) (v : Nat) : Dword :=
  let n := 8 * g.bytes
  if g.sext && decide (2 ^ (n - 1) ≤ v % 2 ^ n) then BitVec.ofInt 64 ((v % 2 ^ n : Int) - 2 ^ n) else BitVec.ofNat 64 (v % 2 ^ n)

/-- The generator that a register of a slot is bound to. -/
def Core.boundGen (c : Core) (slot n : Nat) : Option (Nat × Gen) :=
  c.gens.find? fun p => p.2.owner == some slot && (p.2.bound.map (·.1)) == some n

/-- Whether a thread is a gang follower (R151): its leader alone decides control flow (R154).
Log 109 (DEDUCED, unsafe). -/
def Thread.follower (t : Thread) : Bool :=
  match t.gang with
  | some g => g.member != 0
  | none => false

/-- Whether a register number names a shadow register (R63). -/
def Thread.shadow (t : Thread) (n : Nat) : Bool := t.handler && decide (120 ≤ n)

/-- A general register as it stands, streams aside (R56, R57, R63). -/
def State.readG (s : State) (w : Who) (t : Thread) (n : Nat) : Dword :=
  if n = 0 then 0
  else if t.shadow n then smGetD t.hregs (n - 120) 0
  else smGetD (s.core w.core).gfile (t.gbase + n) 0

/-- Writes a general register's own entry. -/
def State.putG (s : State) (w : Who) (t : Thread) (n : Nat) (v : Dword) : State :=
  if n = 0 then s
  else if t.shadow n then s.modThread w fun t => { t with hregs := smSet t.hregs (n - 120) v }
  else s.modCore w.core fun c => { c with gfile := smSet c.gfile (t.gbase + n) v }

/-- What storing one element of an output stream comes to (R279), the generator stepped: it is stored, it goes through the cluster window or
to a page of the control range, or what stops it. -/
inductive OutRes where
  | ok (s : State)
  | window (s : State) (core off : Nat)
  | control (s : State) (pa : Nat) (ev : Ev)
  | stop (r : Res)

/-- Stores the next element of an output stream (R279): the low bytes of the value, as a store of the thread's mode. -/
def State.outStore (s : State) (w : Who) (t : Thread) (i : Nat) (g : Gen) (v : Dword) : OutRes :=
  let step := fun s : State => s.modCore w.core fun c => { c with gens := smSet c.gens i g.step }
  match s.store w t g.addr g.bytes (v.toNat % 2 ^ (8 * g.bytes)) t.mpol with
  | .ok s' => .ok (step s')
  | .window core off => .window (step s) core off
  | .control pa => match ctrlWrite pa v with
    | none => .stop (.trap cPageFaultStore g.addr)
    | some ev => if g.bytes = 8 then .control (step s) pa ev else .stop (.trap cMisaligned g.addr)
  | .stop r => .stop r

/-- A thread is out of rotation for a number of cycles, until an access of its instruction is complete (R237, R265). -/
def State.outFor (s : State) (w : Who) (n : Nat) : State :=
  (s.modThread w fun t => { t with run := .waiting (.retry .piece) s.cycle }).after n (.agentAnswer w)

/-- Writes one element of an output stream at the issue, which has checked that it can be stored (R279). A store through the cluster window
or to a page of the control range is complete before the thread's next instruction (R237, R265). -/
def State.outPut (s : State) (w : Who) (t : Thread) (i : Nat) (g : Gen) (v : Dword) : State :=
  match s.outStore w t i g v with
  | .ok s' => s'
  | .window s' core off =>
    (s'.modThread w fun t => { t with run := .waiting (.outStore core off g.bytes v) s.cycle }).after 16 (.windowAccess w)
  | .control s' pa ev => (s'.after (ctrlLat w.core pa - 1) ev).outFor w (ctrlLat w.core pa - 1)
  | .stop _ => s

/-- Sends a result of fixed latency on its way (R60): issued in cycle c it is written in c + 7, one cycle later behind a deferred
read (R58). -/
def State.later (s : State) (w : Who) (d : RegDest) (v : Wide) : State :=
  s.modCore w.core fun c =>
    { c with writes := c.writes ++ [{ due := s.cycle + 7 + c.late, slot := w.slot, kind := .fixed, regs := [(d, v)] }] }

/-- Where a thread keeps a general register other than g0 (R56, R63). -/
def Thread.gdest (t : Thread) (n : Nat) : RegDest := if t.shadow n then .shadow (n - 120) else .file (t.gbase + n)

/-- Writes a general register with the fixed latency of an instruction (R57, R60, R63, R279): g0 and a register bound `in` or
`arrive` discard the value; one bound `out` stores it as the next element. -/
def State.writeG (s : State) (w : Who) (n : Nat) (v : Dword) : State :=
  match s.thread w with
  | none => s
  | some t =>
    if n = 0 then s
    else if t.shadow n then s.later w (t.gdest n) (v.zeroExtend 512)
    else match (s.core w.core).boundGen w.slot n with
      | some (i, g) =>
        if (g.bound.map (·.2)) = some .output then (if g.exhausted then s else s.outPut w t i g v) else s
      | none => s.later w (t.gdest n) (v.zeroExtend 512)

/-- A wide register (R62). -/
def State.readW (s : State) (w : Who) (t : Thread) (n : Nat) : Wide := smGetD (s.core w.core).wfile (t.wbase + n) 0
/-- Writes a wide register with the fixed latency of an instruction (R60, R62). -/
def State.writeW (s : State) (w : Who) (n : Nat) (v : Wide) : State :=
  match s.thread w with
  | some t => s.later w (.wide (t.wbase + n)) v
  | none => s
/-- A mask register: k0 reads all ones (R62). -/
def Thread.readK (t : Thread) (n : Nat) : Dword := if n = 0 then BitVec.allOnes 64 else smGetD t.kregs n 0
/-- Writes a mask register with the fixed latency of an instruction; k0 discards (R60, R62). -/
def State.writeK (s : State) (w : Who) (n : Nat) (v : Dword) : State :=
  if n = 0 then s else s.later w (.mask n) (v.zeroExtend 512)

/-- What popping a stream register comes to. -/
inductive Pop where
  | ok (s : State) (v : Dword)
  | stop (r : Res)

/-- The words of an `arrive` element, when its address allows (R279): the core that holds them and the first word's offset. -/
def arriveAt (core : Nat) (g : Gen) : Except Res (Nat × Nat) :=
  let a := g.addr
  if a.toNat % g.bytes ≠ 0 then .error (.trap cMisaligned a)
  else match placeOf core a with
    | .own off => .ok (core, off)
    | .window c off => .ok (c, off)
    | _ => .error (.trap cLocalBound a)

/-- Notes that a thread has issued a filling or emptying form on a word (R269). -/
def Core.noteFiller (c : Core) (i : Nat) (w : Who) : Core :=
  let l := smGetD c.fillers i []
  if l.contains w then c else { c with fillers := smSet c.fillers i (w :: l) }

/-- Pops a register that may be bound (R279): the value its source fields receive. -/
def State.pop (s : State) (w : Who) (t : Thread) (n : Nat) : Pop :=
  if t.shadow n then .ok s (s.readG w t n)
  else match (s.core w.core).boundGen w.slot n with
    | none => .ok s (s.readG w t n)
    | some (i, g) =>
      match g.bound.map Prod.snd with
      | some .input =>
        if g.exhausted then .stop (.trap cStreamUnderflow (BitVec.ofNat 64 i))
        else match g.ahead with
          | [] => .stop (.retry (.stream i) false)
          | x :: rest =>
            match x.fault, x.val with
            | some cause, tval => .stop (.trap cause (tval.getD x.addr))
            | none, none => .stop (.retry (.stream i) false)
            | none, some v =>
              .ok ((s.modCore w.core fun c => { c with gens := smSet c.gens i { g.step with ahead := rest } }).readAhead
                w.core i 16) v
      | some .arrive =>
        if g.exhausted then .stop (.trap cStreamUnderflow (BitVec.ofNat 64 i))
        else match arriveAt w.core g with
          | .error r => .stop r
          | .ok (core, off) =>
            let n := g.taken.length
            let c := s.core core
            let ws := (List.range (g.bytes / 4 - n)).map fun k => off / 4 + n + k
            match c.poisoned (off + 4 * n) (g.bytes - 4 * n) with
            | some cause => .stop (.trap cause g.addr)
            | none =>
              if core = w.core && ws.all c.isFull then
                let v := g.taken.foldr (fun x v => x.toNat + 2 ^ 32 * v) (2 ^ (32 * n) * c.lwords (off / 4 + n) ws.length)
                let s1 := s.modCore core fun c => ws.foldl (fun c k => (c.setFull k false).noteFiller k w) c
                .ok (s1.modCore w.core fun c => { c with gens := smSet c.gens i { g.step with taken := [] } }) (g.extend v)
              else if ws.isEmpty then
                .ok (s.modCore w.core fun c => { c with gens := smSet c.gens i { g.step with taken := [] } })
                  (g.extend (g.taken.foldr (fun x v => x.toNat + 2 ^ 32 * v) 0))
              else .stop (.piece (.sync .ldTake core (off + 4 * n) (128 + i) 0))
      | _ => .ok s 0

/-- Pops every distinct source register once, in the order given, and keeps the values (R279). -/
def State.pops (s : State) (w : Who) (t : Thread) : List Nat → List (Nat × Dword) → Except Res (State × List (Nat × Dword))
  | [], acc => .ok (s, acc)
  | n :: rest, acc =>
    if acc.any fun p => p.1 == n then s.pops w t rest acc
    else match s.pop w t n with
      | .ok s' v => s'.pops w t rest ((n, v) :: acc)
      | .stop r => .error r

/-- Whether a destination register can take a write: an output stream that is exhausted, or whose element cannot be stored,
stops the instruction first (R279). -/
def State.outStop (s : State) (w : Who) (t : Thread) (n : Nat) : Option Res :=
  if t.shadow n then none
  else match (s.core w.core).boundGen w.slot n with
    | some (i, g) =>
      if (g.bound.map (·.2)) = some .output then
        if g.exhausted then some (.trap cStreamOverflow (BitVec.ofNat 64 i))
        else match s.outStore w t i g 0 with
          | .stop r => some r
          | _ => none
      else none
    | none => none

/-! Taking an exception and returning from one. -/

/-- Sends an H-level event to the lantern cores (R386): a message across the mesh and the link to io 0.
Log 108 (DEDUCED, safe). -/
def State.sendEvent (s : State) (w : Who) (part cause : Nat) (tval tpc : Dword) : State :=
  s.afterFree (64 + Config.latHop * (dieOf w.core % 4))
    (.hypervisorEvent
      { cause, tval, tpc, word := BitVec.ofNat 64 (part * 2 ^ 24 + w.core * 2 ^ 8 + w.slot), d := 0, n := 0, args := [] })

/-- Ends what a trap ends (R216, R225, R384 step 1): a task that is not secure aborts, its record fault-pending, the trapping
thread kept; an open-mode thread's write-combining buffer drains. Tells whether a task was aborted, and its record.
Log 33 (DEDUCED, unsafe). -/
def State.trapAbort (s : State) (w : Who) (t : Thread) : State × Option Dword :=
  match s.taskOf w t with
  | some g =>
    if g.secure then (s, none)
    else (s.abortGroup w.core t.gid true (some w.slot), some g.task.addr)
  | none => (s.drainAll w, none)

/-- The entry in the keeper's log for a trap delivered at S or H (R398). -/
def State.logTrap (s : State) (w : Who) (t : Thread) (cause : Nat) (tval : Dword) (tpc : Half) : State :=
  s.klog (dieOf w.core) kTrap cause t.part w.slot w.core tval (tpc.zeroExtend 64)

/-- Delivery at S in the thread (R384).
Log 33 (DEDUCED, unsafe). -/
def State.deliverS (s : State) (w : Who) (t : Thread) (cause : Nat) (tval : Dword) (tpc : Half) : State :=
  let (s1, rec) := s.trapAbort w t
  let s2 := s1.modThread w fun t =>
    { t with
      cause := BitVec.ofNat 7 cause, tpc, tval, level := .s, handler := true, run := .ready,
      pc := (s.part t.part).strap &&& 0xFFFE#16,
      hregs := smSet (smSet (smSet t.hregs 0 (BitVec.ofNat 64 cause)) 1 tval) 2
        (if rec.isSome then BitVec.allOnes 64 else tpc.zeroExtend 64),
      openMode := t.openMode || rec.isSome, ended := rec.isSome, record := rec, recCore := w.core }
  s2.logTrap w t cause tval tpc

/-- Delivery at H (R386): the thread stops in state trapped, and the lantern cores are told. -/
def State.deliverH (s : State) (w : Who) (t : Thread) (cause : Nat) (tval : Dword) (tpc : Half) : State :=
  let (s1, rec) := s.trapAbort w t
  let s2 := s1.modThread w fun t =>
    { t with run := .trapped, pc := tpc, openMode := t.openMode || rec.isSome, ended := t.ended || rec.isSome,
             record := if rec.isSome then rec else t.record, recCore := if rec.isSome then w.core else t.recCore }
  (s2.logTrap w t cause tval tpc).sendEvent w t.part cause tval (tpc.zeroExtend 64)

/-- Delivery to the thread's own local handler (R63): its write-combining buffer drains, as at every trap (R216). -/
def State.deliverLocal (s : State) (w : Who) (cause : Nat) (tval : Dword) (tpc : Half) : State :=
  (s.drainAll w).modThread w fun t =>
    { t with
      pc := t.lvec, handler := true, run := .ready,
      hregs := smSet (smSet (smSet t.hregs 0 (BitVec.ofNat 64 cause)) 1 tval) 2 (tpc.zeroExtend 64) }

/-- Whether a cause that is delivered at S is reported at H as well (R387).
Log 113 (DEDUCED, unsafe). -/
def alsoAtH (cause : Nat) : Bool :=
  cause == cSramUncorrectable || cause == cHbmUncorrectable || cause == cWalkerLasting || cause == cTierUncorrectable

/-- The causes of level H that a thread can take (R387); LINK_LASTING comes with a remote command (R397). -/
def levelH (cause : Nat) : Bool := cause == cGuestFault || cause == cLinkLasting

/-- TAKING AN EXCEPTION: the one operation through which a thread takes a cause (R383): the gang it is in disbands (R157),
what it waits for is abandoned, and the cause goes to the local handler, to S or to H.
Log 113 (DEDUCED, unsafe). -/
def State.takeTrap (s : State) (w : Who) (cause : Nat) (tval : Dword) (tpc : Half) : State :=
  let s1 := ((s.leaveGang w cause).cancelWait w).dropPieces w
  match s1.thread w with
  | none => s1
  | some t =>
    if (cause = cStreamUnderflow ∨ cause = cPtbMiss) ∧ t.handler = false ∧ t.lvec ≠ 0 then s1.deliverLocal w cause tval tpc
    else
      if levelH cause ∨ t.level ≠ .u then s1.deliverH w t cause tval tpc
      else
        let s2 := if alsoAtH cause then s1.sendEvent w t.part cause tval (tpc.zeroExtend 64) else s1
        s2.deliverS w t cause tval tpc

/-- Returning to the pc in h2 from handler state (R390). -/
def State.handlerReturn (s : State) (w : Who) : State :=
  s.modThread w fun t => { t with pc := (smGetD t.hregs 2 0).truncate 16 &&& 0xFFFE#16, handler := false }

/-- Returning from a supervisor trap to U (R391). -/
def State.trapReturn (s : State) (w : Who) : State :=
  s.modThread w fun t => { t with pc := t.tpc, level := .u, handler := false }

/-! What an event outside the issue does to a thread. -/

/-- What a thread waits for, if it is out of rotation with an instruction. -/
def State.waitOf (s : State) (w : Who) : Option Wait :=
  match s.thread w with
  | none => none
  | some t =>
    match t.run with
    | .waiting x _ => some x
    | _ => none

/-- A thread's condition has cleared in this cycle: it is eligible from the next (R72); a follower issues no earlier than eight
cycles after its last issue all the same (R153). -/
def State.wake (s : State) (w : Who) : State :=
  s.modThread w fun t =>
    { t with
      run := .ready,
      lastIssue := some (if t.follower then Nat.max (t.lastIssue.getD 0) (s.cycle - 7) else s.cycle - 7) }

/-- Puts a return behind what reached the file before it and in front of the deposits of its cycle (R60). -/
def insertReturn (r : RegWrite) : List RegWrite → List RegWrite
  | [] => [r]
  | x :: t =>
    match x.kind with
    | .deposit _ => if x.due = r.due then r :: x :: t else x :: insertReturn r t
    | _ => x :: insertReturn r t

/-- A return reaches the register file, where it waits for a slot (R60). -/
def State.reach (s : State) (w : Who) (regs : List (RegDest × Wide)) : State :=
  s.modCore w.core fun c =>
    { c with writes := insertReturn { due := s.cycle, slot := w.slot, kind := .ret, regs } c.writes }

/-- The instruction of a thread has its results at the register file: the pc advances, and the thread waits for their slot (R60). -/
def State.landing (s : State) (w : Who) : State :=
  s.modThread w fun t => { t with pc := t.pc + BitVec.ofNat 16 t.ilen, run := .waiting .landing s.cycle }

/-- Completes the instruction that a thread waits in: the pc advances, and the thread is eligible from the cycle after its
registers are written, or from the next if it writes none (R60, R72). -/
def State.completeWith (s : State) (w : Who) (regs : List (RegDest × Wide)) : State :=
  if regs.isEmpty then (s.modThread w fun t => { t with pc := t.pc + BitVec.ofNat 16 t.ilen }).wake w
  else (s.reach w regs).landing w

/-- `completeWith` general registers. -/
def State.complete (s : State) (w : Who) (ws : List (Nat × Dword)) : State :=
  s.completeWith w (ws.map fun p => (.reg p.1, p.2.zeroExtend 512))

/-- Sets the event bit of a slot, and completes a `wfe` that waits for it (R393). -/
def State.setEvent (s : State) (w : Who) : State :=
  match s.thread w with
  | none => s
  | some t =>
    match t.run with
    | .waiting .wfe _ => (s.modThread w fun t => { t with event := false }).complete w []
    | _ => s.modThread w fun t => { t with event := true }

/-- Queues a cause that a thread takes before its next instruction (R160, R387 "next").
Log 100 (DEDUCED, unsafe). -/
def State.pend (s : State) (w : Who) (cause : Nat) (tval : Dword) : State :=
  s.modThread w fun t => { t with next := t.next ++ [(cause, tval)] }

/-! The checks at issue. -/

/-- What an instruction names (R86): its bits for `tval`, whether it issues only at S, whether it names wide, mask or tile
state, every general register number in a field, its wide registers, its general sources and its general destinations. -/
structure Use where
  enc : Nat
  priv : Bool
  wide : Bool
  gs : List Nat
  ws : List Nat
  src : List Nat
  dst : List Nat
  deriving DecidableEq, Repr

/-- Whether a lantern core executes an instruction (R359): opcodes 0x00 to 0x1E, 0x2A, 0x2C, 0x31, 0x32 and the compact forms. -/
def lanternRuns (enc : Nat) : Bool :=
  let op := enc / 2 ^ 25 % 64
  enc < 2 ^ 31 || op ≤ 0x1E || op == 0x2A || op == 0x2C || op == 0x31 || op == 0x32

/-- The first cause of R86 that an instruction meets in a thread after decoding. A follower makes check 3 too, at its own level: R153 names
checks 4 and 5 only as its own.
Logs 66 (DEDUCED, unsafe), 123 (DESIGN CHOICE, unsafe). -/
def useCause (u : Use) (w : Who) (t : Thread) : Option Nat :=
  if isLantern w.core && !lanternRuns u.enc then some cIllegalOpcode
  else if u.priv && t.level == .u then some cPrivileged
  else if u.wide && !t.compute then some cNoWideState
  else if u.gs.any (fun n => decide (t.glim - t.gbase ≤ n) && !t.shadow n) || u.ws.any (fun n => decide (t.wcount ≤ n)) then
    some cRegLimit
  else none

/-- The smallest largest count of reads of one bank (R58, R59): each register from its bank or, mirrored, from the other. -/
def bankMax (mir : Dword) : List Nat → List Nat → Nat
  | used, [] => (List.range 4).foldl (fun m b => Nat.max m (used.filter (· == b)).length) 0
  | used, n :: rest =>
    let a := bankMax mir (n % 4 :: used) rest
    if n < 64 && mir.getLsbD n then Nat.min a (bankMax mir ((n + 2) % 4 :: used) rest) else a

/-- Whether the sources of an instruction need a deferred read (R58).
Log 15 (DEDUCED, safe). -/
def bankConflict (t : Thread) (src : List Nat) : Bool :=
  decide (3 ≤ bankMax t.mirmask [] (src.eraseDups.filter fun n => n != 0 && !t.shadow n))

/-- A deferred read delays each result of the instruction by one cycle, and in free rotation holds the port for its cycle
(R58, R74). -/
def State.holdPort (s : State) (w : Who) (t : Thread) (src : List Nat) : State :=
  if bankConflict t src then
    s.modCore w.core fun c => { c with late := 1, portBusy := if c.rot = 0 then s.cycle + 2 else c.portBusy }
  else s

/-- Marks a task unbounded (R228). -/
def State.unbound (s : State) (w : Who) (t : Thread) : State := s.modGroup w.core t.gid fun g => { g with unbounded := true }

/-- The pc after the instruction in progress (R78). -/
def Thread.nextPc (t : Thread) : Half := t.pc + BitVec.ofNat 16 t.ilen

/-- Whether a gang carries an instruction (R154): opcodes 0x00 to 0x29, the compact forms, `mfs`, `mts` and `nop`. -/
def carried (enc : Nat) : Bool :=
  let op := enc / 2 ^ 25 % 64
  let sub := enc / 2 ^ 11 % 128
  enc < 2 ^ 31 || op ≤ 0x29 || (op == 0x31 && (sub == 0 || sub == 1 || sub == 6))

/-- Sends an instruction to the followers of a gang: member j receives it 2j cycles later (R153). -/
def State.forward (s : State) (w : Who) (n : Nat) (f : FwdInstr) : State :=
  (List.range n).foldl
    (fun s j => if j = 0 then s else s.after (2 * j) (.forwardedInstructionArrival { w with core := w.core + j } f)) s

/-- The leader of a gang leaves it by itself, without waiting for the followers (R156).
Log 25 (DESIGN CHOICE, unsafe). -/
def State.leaderLeaves (s : State) (w : Who) : State := s.modThread w fun t => { t with gang := none, gidx := 0 }

/-- What the issue of an instruction does to a gang that its thread leads (R153, R154): it is forwarded, once; one that a gang
does not carry first ends the gang. -/
def State.lead (s : State) (w : Who) (t : Thread) (enc : Nat) : State :=
  match t.gang with
  | none => s
  | some g =>
    if g.member ≠ 0 then s
    else if t.fwd then s.modThread w fun t => { t with fwd := false }
    else if carried enc then s.forward w g.n { bits := enc, len := t.ilen, pc := t.pc }
    else (s.forward w g.n { bits := (bitsOf .gangEnd).toNat, len := 4, pc := t.pc }).leaderLeaves w

/-- Starts the access of a piece of an operand (R265): through the cluster window, of a line, or the taking of a word that an `arrive` stream
pops (R279). -/
def State.startPiece (s : State) (w : Who) (t : Thread) (wt : Wait) : State :=
  match wt with
  | .load a _ => (s.joinRead w t a.line).sendRead w a
  | .sync _ core off _ _ =>
    let s1 := s.modCore core fun c => c.noteFiller (off / 4) w
    if core = w.core then s1 else s1.after 16 (.windowAccess w)
  | _ => s.after 16 (.windowAccess w)

/-- Ends an instruction as its body says; `s0` is the state at issue. -/
def finish (s0 : State) (w : Who) (t : Thread) : Res → State
  | .done s => s.modThread w fun x => { x with pc := t.nextPc }
  | .jump s pc => s.modThread w fun x => { x with pc }
  | .trap cause tval => s0.takeTrap w cause tval t.pc
  | .after s cause tval => (s.modThread w fun x => { x with pc := t.nextPc }).takeTrap w cause tval t.nextPc
  | .wait s wt => s.modThread w fun x => { x with run := .waiting wt s0.cycle }
  | .retry o mark =>
    (if mark then s0.unbound w t else s0).modThread w fun x =>
      { x with run := .waiting (.retry o) s0.cycle, fwd := x.gang.isSome }
  | .piece wt => (s0.startPiece w t wt).modThread w fun x => { x with run := .waiting wt s0.cycle, fwd := x.gang.isSome }
  | .left s => s

/-- The destinations that cannot take a write, the first of them (R279). -/
def State.outStops (s : State) (w : Who) (t : Thread) (dst : List Nat) : Option Res := dst.findSome? fun n => s.outStop w t n

/-- The issue of an instruction by the current thread: the checks of R86 in order, the stream registers it names, and its
body, which is given the state, the thread and a reader of its source registers. -/
def issue (u : Use) (s : State) (body : State → Thread → (Nat → Dword) → Res) : Host.Outcome State Fault Refusal :=
  let w := s.cur
  match s.thread w with
  | none => .fault .noThread
  | some t =>
    match useCause u w t with
    | some cause => .next (s.takeTrap w cause (BitVec.ofNat 64 u.enc) t.pc)
    | none =>
      let s1 := (s.lead w t u.enc).holdPort w t u.src
      match s1.outStops w t u.dst with
      | some r => .next (finish s1 w t r)
      | none =>
        match s1.pops w t u.src [] with
        | .error r => .next (finish s1 w t r)
        | .ok (s2, vals) =>
          .next (finish s1 w t (body s2 t fun n => ((vals.find? fun p => p.1 == n).map (·.2)).getD (s2.readG w t n)))

end Sys2Proof.Machine
end

