-- ==== Sys2Proof/Machine/Flags.lean ====
section
/-!
DEFINITION. The sticky flags of `fflags` (R68, R97): their bits, the cause of an enabled one, the order in which one is
chosen, and what an instruction that accrues flags comes to (R112).
-/
namespace Sys2Proof.Machine

/-- A set of flags, as bits of `fflags` (R68). -/
abbrev FlagSet := BitVec 9

abbrev fNX : FlagSet := 1
abbrev fUF : FlagSet := 2
abbrev fOF : FlagSet := 4
abbrev fDZ : FlagSet := 8
abbrev fNV : FlagSet := 16
abbrev fRANGE : FlagSet := 32
abbrev fINTSAT : FlagSet := 64
abbrev fLACCSAT : FlagSet := 128
abbrev fTINY : FlagSet := 256

/-- A flag if a condition holds. -/
def flagIf (b : Bool) (f : FlagSet) : FlagSet := if b then f else 0

/-- The flags that can trap with their causes, in the order of R68: NV, DZ, OF, UF, NX, RANGE, INT_SAT, LONG_ACC_SAT. -/
def flagCauses : List (FlagSet × Nat) :=
  [(fNV, cFpInvalid), (fDZ, cFpDivzero), (fOF, cFpOverflow), (fUF, cFpUnderflow), (fNX, cFpInexact), (fRANGE, cRange),
   (fINTSAT, cIntSat), (fLACCSAT, cLongAccSat)]

/-- The cause that a set of flags traps with under a set of enables (R68). -/
def trapOf (flags en : FlagSet) : Option Nat := (flagCauses.find? fun p => p.1 &&& flags &&& en != 0).map (·.2)

/-- ORs the flags of an instruction into its thread's `fflags` (R68: sticky) in the cycle in which it writes its result (R112). -/
def State.accrue (s : State) (w : Who) (f : FlagSet) : State := if f = 0 then s else s.later w .orFlags (f.zeroExtend 512)

/-- ORs the flags of an engine command into a thread's `fflags` in this cycle, behind an `mts` that writes them in it (R112). -/
def State.accrueNow (s : State) (w : Who) (f : FlagSet) : State :=
  if f = 0 then s
  else s.modCore w.core fun c =>
    { c with writes := c.writes ++ [{ due := s.cycle, slot := w.slot, kind := .fixed, regs := [(.orFlags, f.zeroExtend 512)] }] }

/-- An instruction that has made its effect and accrues flags: it completes, and traps if an enabled flag is among them
(R68, R112). -/
def flagRes (s : State) (t : Thread) (w : Who) (f : FlagSet) : Res :=
  match trapOf f t.fen with
  | some cause => .after (s.accrue w f) cause 0
  | none => .done (s.accrue w f)

end Sys2Proof.Machine
end

