-- ==== Sys2Proof/Machine/Fp.lean ====
section
/-!
DEFINITION. Floating point (R91 to R97): formats, values as exact dyadic numbers, the one rounding, and the operations of R122 to
R126 and R129 over them. Every result is formed exactly and rounded once.
-/
namespace Sys2Proof.Machine

/-- A format of R91: exponent bits and fraction bits. -/
structure Fmt where
  eb : Nat
  fb : Nat
  deriving DecidableEq, Repr

abbrev fmt32 : Fmt := ⟨8, 23⟩
abbrev fmt16 : Fmt := ⟨5, 10⟩
abbrev fmtBf : Fmt := ⟨8, 7⟩
abbrev fmtE8 : Fmt := ⟨8, 10⟩

/-- The exponent bias (R91). -/
def Fmt.bias (f : Fmt) : Nat := 2 ^ (f.eb - 1) - 1
/-- The largest exponent field. -/
def Fmt.maxExp (f : Fmt) : Nat := 2 ^ f.eb - 1
/-- The encoding of an infinity without its sign. -/
def Fmt.inf (f : Fmt) : Nat := f.maxExp * 2 ^ f.fb
/-- The default NaN (R93). -/
def Fmt.nan (f : Fmt) : Nat := f.inf + 2 ^ (f.fb - 1)
/-- The weight of the sign bit. -/
def Fmt.signW (f : Fmt) : Nat := 2 ^ (f.eb + f.fb)

/-- A floating-point value: a NaN (true: signalling), an infinity or zero by sign (true: negative), or ±m × 2^e with m > 0. -/
inductive FVal where
  | nan (sig : Bool)
  | inf (neg : Bool)
  | zero (neg : Bool)
  | fin (neg : Bool) (m : Nat) (e : Int)
  deriving DecidableEq, Repr

/-- Reads an encoding (R92). -/
def Fmt.decode (f : Fmt) (n : Nat) : FVal :=
  let neg := n / f.signW % 2 == 1
  let e := n / 2 ^ f.fb % 2 ^ f.eb
  let m := n % 2 ^ f.fb
  if e = f.maxExp then (if m = 0 then .inf neg else .nan (decide (m < 2 ^ (f.fb - 1))))
  else if e = 0 then
    if m = 0 then .zero neg else .fin neg m (1 - (f.bias : Int) - f.fb)
  else .fin neg (m + 2 ^ f.fb) ((e : Int) - f.bias - f.fb)

/-- Whether a value is negative in sign. -/
def FVal.neg : FVal → Bool
  | .nan _ => false
  | .inf n => n
  | .zero n => n
  | .fin n _ _ => n

def FVal.isNan : FVal → Bool
  | .nan _ => true
  | _ => false

def FVal.isSig : FVal → Bool
  | .nan s => s
  | _ => false

/-- The same value with its sign inverted. -/
def FVal.negate : FVal → FVal
  | .nan s => .nan s
  | .inf n => .inf (!n)
  | .zero n => .zero (!n)
  | .fin n m e => .fin (!n) m e

/-- NV when an operand is a signalling NaN (R93). -/
def sigNV (l : List FVal) : FlagSet := flagIf (l.any FVal.isSig) fNV

/-- Sets the sign of an encoding. -/
def Fmt.signed (f : Fmt) (neg : Bool) (n : Nat) : Nat := if neg then n + f.signW else n

/-- m shifted right by k (left for a negative k), and what is cut off. -/
def shiftOut (m : Nat) (k : Int) : Nat × Nat :=
  match k with
  | .ofNat n => (m / 2 ^ n, m % 2 ^ n)
  | .negSucc n => (m * 2 ^ (n + 1), 0)

/-- Whether a rounding goes away from zero: mode, sign, kept value, remainder, and the amount the remainder is of (R96). -/
def roundsUp (rm : BitVec 2) (neg : Bool) (q r : Nat) (k : Int) : Bool :=
  if r = 0 then false
  else if rm = 0#2 then
    let half := 2 ^ (k.toNat - 1)
    decide (half < r) || (r == half && q % 2 == 1)
  else if rm = 1#2 then false
  else if rm = 2#2 then neg
  else !neg

/-- Rounds ±m × 2^e, m > 0, once to a format, with the flags of R97 (R96). -/
def Fmt.round (f : Fmt) (rm : BitVec 2) (neg : Bool) (m : Nat) (e : Int) : Nat × FlagSet :=
  let ex : Int := (Nat.log2 m : Int) + e
  let emin : Int := 1 - f.bias
  let qe := max (ex - f.fb) (emin - f.fb)
  let (q, r) := shiftOut m (qe - e)
  let q' := if roundsUp rm neg q r (qe - e) then q + 1 else q
  let bits := (qe - (emin - f.fb)).toNat * 2 ^ f.fb + q'
  let (qu, ru) := shiftOut m (ex - f.fb - e)
  let qu' := if roundsUp rm neg qu ru (ex - f.fb - e) then qu + 1 else qu
  let tiny := decide (ex < emin) && !(decide (ex = emin - 1) && qu' == 2 ^ (f.fb + 1))
  if f.inf ≤ bits then
    let toInf := rm == 0#2 || (rm == 2#2 && neg) || (rm == 3#2 && !neg)
    (f.signed neg (if toInf then f.inf else f.inf - 1), fOF ||| fNX)
  else (f.signed neg bits, flagIf (r != 0) fNX ||| flagIf (tiny && r != 0) fUF)

/-- Rounds a value to a format; a NaN gives the default NaN (R93). -/
def Fmt.pack (f : Fmt) (rm : BitVec 2) : FVal → Nat × FlagSet
  | .nan s => (f.nan, flagIf s fNV)
  | .inf n => (f.signed n f.inf, 0)
  | .zero n => (f.signed n 0, 0)
  | .fin n m e => f.round rm n m e

/-- ±m × 2^e as an integer multiple of 2^lo. -/
def scaled (neg : Bool) (m : Nat) (e lo : Int) : Int :=
  let v : Int := (m * 2 ^ (e - lo).toNat : Nat)
  if neg then -v else v

/-- An exact dyadic number as a value; `zneg` is the sign of a zero. -/
def FVal.ofInt (v : Int) (e : Int) (zneg : Bool) : FVal := if v = 0 then .zero zneg else .fin (decide (v < 0)) v.natAbs e

/-- The exact sum of two finite values, with the zero sign of IEEE 754 for the mode. -/
def addExact (rm : BitVec 2) (x y : FVal) : FVal :=
  match x, y with
  | .zero a, .zero b => .zero (if a = b then a else rm == 2#2)
  | .zero _, v => v
  | v, .zero _ => v
  | .fin a m e, .fin b n d =>
    let lo := min e d
    .ofInt (scaled a m e lo + scaled b n d lo) lo (rm == 2#2)
  | v, _ => v

/-- X + Y before rounding, with NV of an invalid sum (R97). -/
def addVal (rm : BitVec 2) (x y : FVal) : FVal × FlagSet :=
  match x, y with
  | .nan s, z => (.nan false, flagIf (s || z.isSig) fNV)
  | z, .nan s => (.nan false, flagIf (s || z.isSig) fNV)
  | .inf a, .inf b => if a = b then (.inf a, 0) else (.nan false, fNV)
  | .inf a, _ => (.inf a, 0)
  | _, .inf b => (.inf b, 0)
  | a, b => (addExact rm a b, 0)

/-- X × Y exactly, with NV of ∞ × 0. -/
def mulVal (x y : FVal) : FVal × FlagSet :=
  match x, y with
  | .nan s, z => (.nan false, flagIf (s || z.isSig) fNV)
  | z, .nan s => (.nan false, flagIf (s || z.isSig) fNV)
  | .inf _, .zero _ => (.nan false, fNV)
  | .zero _, .inf _ => (.nan false, fNV)
  | .inf a, b => (.inf (a != b.neg), 0)
  | a, .inf b => (.inf (a.neg != b), 0)
  | .zero a, b => (.zero (a != b.neg), 0)
  | a, .zero b => (.zero (a.neg != b), 0)
  | .fin a m e, .fin b n d => (.fin (a != b) (m * n) (e + d), 0)

/-- Rounds a value that carries flags already. -/
def Fmt.finish (f : Fmt) (rm : BitVec 2) (v : FVal × FlagSet) : Nat × FlagSet :=
  let (n, g) := f.pack rm v.1
  (n, g ||| v.2)

/-- Round(X + Y) (R122). -/
def Fmt.add (f : Fmt) (rm : BitVec 2) (x y : Nat) : Nat × FlagSet := f.finish rm (addVal rm (f.decode x) (f.decode y))
/-- Round(X − Y) (R122). -/
def Fmt.sub (f : Fmt) (rm : BitVec 2) (x y : Nat) : Nat × FlagSet :=
  f.finish rm (addVal rm (f.decode x) (f.decode y).negate)
/-- Round(X × Y) (R122). -/
def Fmt.mul (f : Fmt) (rm : BitVec 2) (x y : Nat) : Nat × FlagSet := f.finish rm (mulVal (f.decode x) (f.decode y))

/-- X × Y + Z before rounding (R126): NV for ∞ × 0 whatever Z is. -/
def fmaVal (rm : BitVec 2) (x y z : FVal) : FVal × FlagSet :=
  let (p, g) := mulVal x y
  let (v, h) := addVal rm p z
  (v, g ||| h)

/-- Round(±(X × Y) ± Z) (R126): `np` negates the product and `nz` the addend. -/
def Fmt.fma (f : Fmt) (rm : BitVec 2) (np nz : Bool) (x y z : Nat) : Nat × FlagSet :=
  let x' := if np then (f.decode x).negate else f.decode x
  let z' := if nz then (f.decode z).negate else f.decode z
  f.finish rm (fmaVal rm x' (f.decode y) z')

/-- m × 2^e with a last bit that stands for what was cut off below it. -/
def FVal.sticky (neg : Bool) (m : Nat) (e : Int) (cut : Bool) : FVal := .fin neg (4 * m + cut.toNat) (e - 2)

/-- X ÷ Y before rounding (R122), with DZ and NV. -/
def divVal (f : Fmt) (x y : FVal) : FVal × FlagSet :=
  match x, y with
  | .nan s, z => (.nan false, flagIf (s || z.isSig) fNV)
  | z, .nan s => (.nan false, flagIf (s || z.isSig) fNV)
  | .inf _, .inf _ => (.nan false, fNV)
  | .zero _, .zero _ => (.nan false, fNV)
  | .inf a, b => (.inf (a != b.neg), 0)
  | a, .inf b => (.zero (a.neg != b), 0)
  | .zero a, b => (.zero (a != b.neg), 0)
  | a, .zero b => (.inf (a.neg != b), fDZ)
  | .fin a m e, .fin b n d =>
    let k := f.fb + 4 + Nat.log2 n
    (.sticky (a != b) (m * 2 ^ k / n) (e - d - k) (m * 2 ^ k % n != 0), 0)

/-- Round(X ÷ Y) (R122). -/
def Fmt.div (f : Fmt) (rm : BitVec 2) (x y : Nat) : Nat × FlagSet := f.finish rm (divVal f (f.decode x) (f.decode y))

/-- The integer square root, bit by bit from bit k down. -/
def isqrtFrom (n : Nat) : Nat → Nat → Nat
  | 0, r => if (r + 1) * (r + 1) ≤ n then r + 1 else r
  | k + 1, r => isqrtFrom n k (if (r + 2 ^ (k + 1)) * (r + 2 ^ (k + 1)) ≤ n then r + 2 ^ (k + 1) else r)

/-- The integer square root. -/
def isqrt (n : Nat) : Nat := isqrtFrom n (Nat.log2 n / 2 + 1) 0

/-- √X before rounding (R122). -/
def sqrtVal (f : Fmt) (x : FVal) : FVal × FlagSet :=
  match x with
  | .nan s => (.nan false, flagIf s fNV)
  | .zero n => (.zero n, 0)
  | .inf true => (.nan false, fNV)
  | .inf false => (.inf false, 0)
  | .fin true _ _ => (.nan false, fNV)
  | .fin false m e =>
    let j : Nat := f.fb + 4 + (if e % 2 = 0 then 0 else 1)
    let j' : Nat := if (e - j) % 2 = 0 then j else j + 1
    let n := m * 2 ^ j' * 2 ^ (2 * f.fb)
    let r := isqrt n
    (.sticky false r ((e - j' - 2 * f.fb) / 2) (r * r != n), 0)

/-- Round(√X) (R122). -/
def Fmt.sqrt (f : Fmt) (rm : BitVec 2) (x : Nat) : Nat × FlagSet := f.finish rm (sqrtVal f (f.decode x))

/-- Compares two numbers that are no NaN: negative, zero or positive as X is below, equal to or above Y; −0 equals +0. -/
def cmpVal (x y : FVal) : Int :=
  match x, y with
  | .inf a, .inf b => if a = b then 0 else if a then -1 else 1
  | .inf a, _ => if a then -1 else 1
  | _, .inf b => if b then 1 else -1
  | .zero _, .zero _ => 0
  | .zero _, .fin b _ _ => if b then 1 else -1
  | .fin a _ _, .zero _ => if a then -1 else 1
  | .fin a m e, .fin b n d => scaled a m e (min e d) - scaled b n d (min e d)
  | _, _ => 0

/-- X = Y, with NV for a signalling NaN (R122). -/
def Fmt.eq (f : Fmt) (x y : Nat) : Bool × FlagSet :=
  let a := f.decode x
  let b := f.decode y
  (!a.isNan && !b.isNan && cmpVal a b == 0, sigNV [a, b])

/-- X < Y, with NV for any NaN (R122). -/
def Fmt.lt (f : Fmt) (x y : Nat) : Bool × FlagSet :=
  let a := f.decode x
  let b := f.decode y
  if a.isNan || b.isNan then (false, fNV) else (decide (cmpVal a b < 0), 0)

/-- X ≤ Y, with NV for any NaN (R122). -/
def Fmt.le (f : Fmt) (x y : Nat) : Bool × FlagSet :=
  let a := f.decode x
  let b := f.decode y
  if a.isNan || b.isNan then (false, fNV) else (decide (cmpVal a b ≤ 0), 0)

/-- Whether X comes before Y when −0 is ordered below +0 (R123). -/
def minFirst (x y : FVal) : Bool :=
  match x, y with
  | .zero a, .zero b => a && !b
  | _, _ => decide (cmpVal x y < 0)

/-- `fmin` and `fmax` (R123). -/
def Fmt.minMax (f : Fmt) (isMax : Bool) (x y : Nat) : Nat × FlagSet :=
  let a := f.decode x
  let b := f.decode y
  let g := sigNV [a, b]
  if a.isNan && b.isNan then (f.nan, g)
  else if a.isNan then (y, g)
  else if b.isNan then (x, g)
  else if isMax then (if minFirst a b then y else x, g)
  else (if minFirst b a then y else x, g)

/-- `fabs`, `fneg` and `fsgnj` (R125): X with the sign bit given. -/
def Fmt.withSign (f : Fmt) (x : Nat) (neg : Bool) : Nat × FlagSet :=
  let a := f.decode x
  if a.isNan then (f.nan, flagIf a.isSig fNV) else (f.signed neg (x % f.signW), 0)

/-- Whether a value is exactly a value of a format. -/
def Fmt.holds (f : Fmt) (v : FVal) : Bool :=
  match v with
  | .nan _ => false
  | .fin n m e => (f.round 0 n m e).2 == 0
  | _ => true

/-- Whether a value is finite and an integer. -/
def FVal.isInt : FVal → Bool
  | .zero _ => true
  | .fin _ m e => decide (0 ≤ e) || m % 2 ^ e.natAbs == 0
  | _ => false

/-- The class word of an FP32 value (R124). -/
def fclassWord (x : Nat) : Nat :=
  let v := fmt32.decode x
  let kind := match v with
    | .zero _ => 0
    | .fin _ m _ => if m < 2 ^ 23 then 1 else 2
    | .inf _ => 3
    | .nan false => 4
    | .nan true => 5
  kind + x / 2 ^ 31 % 2 * 8 + v.isInt.toNat * 16 + (fmt16.holds v).toNat * 32 + (fmtBf.holds v).toNat * 64
    + (fmtE8.holds v).toNat * 128

/-- A value rounded to an integer (R129): the integer, and whether it differs from the value. -/
def FVal.roundInt (rm : BitVec 2) : FVal → Int × Bool
  | .fin neg m e =>
    let (q, r) := shiftOut m (-e)
    let q' := if roundsUp rm neg q r (-e) then q + 1 else q
    (if neg then -(q' : Int) else q', r != 0)
  | _ => (0, false)

/-- A value converted to a signed or unsigned integer of n bits (R129): NaN gives 0, and a value outside the range the nearest
end, both with NV. -/
def FVal.toIntLane (rm : BitVec 2) (n : Nat) (sgn : Bool) (v : FVal) : Nat × FlagSet :=
  let lo : Int := if sgn then -(2 ^ (n - 1)) else 0
  let hi : Int := if sgn then 2 ^ (n - 1) - 1 else 2 ^ n - 1
  let enc := fun i : Int => (i % 2 ^ n).toNat
  match v with
  | .nan _ => (0, fNV)
  | .inf true => (enc lo, fNV)
  | .inf false => (enc hi, fNV)
  | .zero _ => (0, 0)
  | v =>
    let (i, x) := v.roundInt rm
    if i < lo then (enc lo, fNV) else if hi < i then (enc hi, fNV) else (enc i, flagIf x fNX)

/-- An integer clamped to a lane of n bits (R95): its encoding, and INT_SAT if it was clamped. -/
def clampInt (n : Nat) (sgn : Bool) (i : Int) : Nat × FlagSet :=
  let lo : Int := if sgn then -(2 ^ (n - 1)) else 0
  let hi : Int := if sgn then 2 ^ (n - 1) - 1 else 2 ^ n - 1
  let enc := fun i : Int => (i % 2 ^ n).toNat
  if i < lo then (enc lo, fINTSAT) else if hi < i then (enc hi, fINTSAT) else (enc i, 0)

/-- The integer that a lane of n bits encodes. -/
def laneInt (n : Nat) (sgn : Bool) (x : Nat) : Int :=
  let v := x % 2 ^ n
  if sgn && decide (2 ^ (n - 1) ≤ v) then (v : Int) - 2 ^ n else v

end Sys2Proof.Machine
end

