-- ==== Sys2Proof/Machine/Special.lean ====
section
/-!
DEFINITION. The special functions (R131 to R134), by fixed-point arithmetic of 512 fraction bits: far finer than the closest that
the value of a 0.5-ulp function of an FP32 operand comes to a midpoint. A function of 1 ulp gives one of the two FP32 values
that bracket the exact value; which one is a free value (`Config.sfuUpper`).
-/
namespace Sys2Proof.Machine

/-- Fraction bits of the fixed-point numbers here. -/
def fixP : Nat := 512
/-- One. -/
def fixOne : Nat := 2 ^ fixP

/-- π, rounded down. -/
def fixPi : Nat :=
  0x3243F6A8885A308D313198A2E03707344A4093822299F31D0082EFA98EC4E6C89452821E638D01377BE5466CF34E90C6CC0AC29B7C97C50DD3F84D5B5B5470917
/-- ln 2, rounded down. -/
def fixLn2 : Nat :=
  0xB17217F7D1CF79ABC9E3B39803F2F6AF40F343267298B62D8A0D175B8BAAFA2BE7B876206DEBAC98559552FB4AFA1B10ED2EAE35C138214427573B291169B825
/-- 2 ÷ √π, rounded down. -/
def fixTwoRtPi : Nat :=
  0x120DD750429B6D11AE3A914FED7FD8688281341D7587CEA2E7342B06199CC416180EB39F0B24E1E2281806C12D98F35D77A3E9DDC91C394F0E9EEDF0EFFFD84A2

/-- Product of two fixed-point numbers. -/
def fixMul (a b : Nat) : Nat := a * b / fixOne

/-- Σ over k from `k` of y^k ÷ k!, `t` being the term before (R131): e^y for y below 1. -/
def expSeries (y : Nat) : Nat → Nat → Nat → Nat
  | 0, _, _ => 0
  | n + 1, k, t => let t' := fixMul t y / k; t' + expSeries y n (k + 1) t'

/-- 2^f for a fraction f below 1. -/
def fixExp2 (f : Nat) : Nat := fixOne + expSeries (fixMul f fixLn2) 120 1 fixOne

/-- Σ z^(2k+1) ÷ (2k+1), `t` being z^(2k+1): the inverse hyperbolic tangent of z at most 1/3. -/
def atanhSeries (z2 : Nat) : Nat → Nat → Nat → Nat
  | 0, _, _ => 0
  | n + 1, k, t => t / k + atanhSeries z2 n (k + 2) (fixMul t z2)

/-- ln m for 1 ≤ m < 2. -/
def fixLn (m : Nat) : Nat :=
  let z := (m - fixOne) * fixOne / (m + fixOne)
  2 * atanhSeries (fixMul z z) 175 1 z

/-- An alternating series: terms t × y2 ÷ (k (k + 1)), from t. Its steps subtract in turn. -/
def trigSeries (y2 : Nat) : Nat → Nat → Int → Int
  | 0, _, _ => 0
  | n + 1, k, t => t + trigSeries y2 n (k + 2) (-(t * y2 / fixOne / (k * (k + 1))))

/-- sin y for 0 ≤ y ≤ π/2 (R133, R134). -/
def fixSin (y : Nat) : Nat := (trigSeries (fixMul y y) 64 2 (y : Int)).toNat
/-- cos y for 0 ≤ y ≤ π/2. -/
def fixCos (y : Nat) : Nat := (trigSeries (fixMul y y) 64 1 (fixOne : Int)).toNat

/-- The series of erf, without its factor: Σ (−1)^k y^(2k+1) ÷ (k! (2k+1)); `t` is y^(2k+1) ÷ k! with its sign. -/
def erfSeries (y2 : Nat) : Nat → Nat → Int → Int
  | 0, _, _ => 0
  | n + 1, k, t => t / (2 * k + 1 : Nat) + erfSeries y2 n (k + 1) (-(t * y2 / fixOne / (k + 1 : Nat)))

/-- A positive fixed-point number as a value with what lies below it cut off. -/
def FVal.ofFix (neg : Bool) (v : Nat) (e : Int) : FVal := .sticky neg v (e - fixP) true

/-- A number of (0, 1) just below one. -/
def justBelowOne (neg : Bool) : FVal := .fin neg (2 ^ 64 - 1) (-64)

/-- m × 2^e as fixed point, rounded down. -/
def toFix (m : Nat) (e : Int) : Nat := (shiftOut m (-(e + fixP))).1

/-- 2^v for a signed fixed-point v: the fraction's power, and the exponent. -/
def exp2Parts (v : Int) : Nat × Int :=
  let n := v / (fixOne : Int)
  (fixExp2 (v - n * fixOne).toNat, n)

/-- Rounds to the nearest FP32 value, whatever `fmode` holds (R131). -/
def near (v : FVal) (g : FlagSet) : Nat × FlagSet :=
  let (n, h) := fmt32.pack 0 v
  (n, h ||| g)

/-- One of the two FP32 values that bracket an inexact value (R131), by the free choice of the function and operand.
Log 8 (DESIGN CHOICE, safe). -/
def bracket (fn : Nat) (x : Nat) (v : FVal) : Nat × FlagSet :=
  let rm : BitVec 2 := if Config.sfuUpper fn (BitVec.ofNat 32 x) then 3 else 2
  let (n, h) := fmt32.pack rm v
  (n, h ||| fNX)

/-- The default NaN with flags. -/
def nanWith (g : FlagSet) : Nat × FlagSet := (fmt32.nan, g)

/-- `exp2` (R131, R132). -/
def sfuExp2 (x : Nat) : Nat × FlagSet :=
  match fmt32.decode x with
  | .nan s => nanWith (flagIf s fNV)
  | .inf true => (0, 0)
  | .inf false => (fmt32.inf, 0)
  | .zero _ => near (.fin false 1 0) 0
  | .fin neg m e =>
    let v := FVal.fin neg m e
    if v.isInt && decide (m * 2 ^ (e + 23).toNat < 2 ^ 40) then near (.fin false 1 (v.roundInt 1).1) 0
    else if 0 ≤ cmpVal v (.fin false 128 0) then (fmt32.inf, fOF ||| fNX)
    else if cmpVal v (.fin true 150 0) < 0 then (0, fUF ||| fNX)
    else
      let (p, n) := exp2Parts (scaled neg m e (-512))
      near (.ofFix false p n) 0

/-- `log2` (R131, R132). -/
def sfuLog2 (x : Nat) : Nat × FlagSet :=
  match fmt32.decode x with
  | .nan s => nanWith (flagIf s fNV)
  | .zero _ => (fmt32.signed true fmt32.inf, fDZ)
  | .inf true => nanWith fNV
  | .inf false => (fmt32.inf, 0)
  | .fin true _ _ => nanWith fNV
  | .fin false m e =>
    let k := Nat.log2 m
    if m = 2 ^ k then
      let n : Int := k + e
      near (.ofInt n 0 false) 0
    else
      let l : Int := (fixLn (m * 2 ^ (fixP - k)) * fixOne / fixLn2 : Nat)
      let v : Int := ((k : Int) + e) * fixOne + l
      if v < 0 then near (.ofFix true (v.natAbs - 1) 0) 0 else near (.ofFix false v.toNat 0) 0

/-- `rcp` (R131, R132). -/
def sfuRcp (x : Nat) : Nat × FlagSet :=
  match divVal fmt32 (.fin false 1 0) (fmt32.decode x) with
  | (v, g) => near v g

/-- `rsqrt` (R131, R132). -/
def sfuRsqrt (x : Nat) : Nat × FlagSet :=
  match fmt32.decode x with
  | .nan s => nanWith (flagIf s fNV)
  | .zero n => (fmt32.signed n fmt32.inf, 0)
  | .inf true => nanWith fNV
  | .inf false => (0, 0)
  | .fin true _ _ => nanWith fNV
  | .fin false m e =>
    let m' := if e % 2 = 0 then m else 2 * m
    let e' := if e % 2 = 0 then e else e - 1
    let q := 2 ^ 256 / m'
    let r := isqrt q
    near (.sticky false r (-(e' / 2) - 128) (r * r * m' != 2 ^ 256)) 0

/-- sin or cos of a quadrant and a reduced argument: the magnitude and its sign, before the argument's own sign. -/
def quadrant (q : Nat) (y : Nat) (isCos : Bool) : Nat × Bool :=
  let k := if isCos then (q + 1) % 4 else q % 4
  (if k % 2 = 0 then fixSin y else fixCos y, decide (2 ≤ k))

/-- `sin` and `cos` in radians (R133). -/
def sfuTrig (fn : Nat) (isCos : Bool) (x : Nat) : Nat × FlagSet :=
  match fmt32.decode x with
  | .nan s => nanWith (flagIf s fNV)
  | .inf _ => nanWith fNV
  | .zero n => if isCos then near (.fin false 1 0) 0 else (fmt32.signed n 0, 0)
  | .fin neg m e =>
    if 0 < cmpVal (.fin false m e) (.fin false (2 ^ 24) 0) then nanWith fRANGE
    else
      let y := toFix m e
      let k := 2 * y / fixPi
      let (v, n) := quadrant k (y - k * fixPi / 2) isCos
      bracket fn x (.ofFix (n != (neg && !isCos)) v 0)

/-- `sint` and `cost` in turns (R134). -/
def sfuTurn (isCos : Bool) (x : Nat) : Nat × FlagSet :=
  match fmt32.decode x with
  | .nan s => nanWith (flagIf s fNV)
  | .inf _ => nanWith fNV
  | .zero n => if isCos then near (.fin false 1 0) 0 else (fmt32.signed n 0, 0)
  | .fin neg m e =>
    let f := toFix m e % fixOne
    let k := 4 * f / fixOne
    let r := 4 * f % fixOne
    if r = 0 then
      if isCos then near (if k = 0 then .fin false 1 0 else if k = 2 then .fin true 1 0 else .zero false) 0
      else near (if k = 0 ∨ k = 2 then .zero false else .fin ((k = 3) != neg) 1 0) 0
    else
      let (v, n) := quadrant k (fixMul r (fixPi / 2)) isCos
      near (.ofFix (n != (neg && !isCos)) v 0) fNX

/-- e^v for a signed fixed-point v: the power of the fraction and the exponent. -/
def expParts (v : Int) : Nat × Int := exp2Parts (v * (fixOne : Int) / (fixLn2 : Int))

/-- `tanh` (R131, R132). -/
def sfuTanh (x : Nat) : Nat × FlagSet :=
  match fmt32.decode x with
  | .nan s => nanWith (flagIf s fNV)
  | .inf n => near (.fin n 1 0) 0
  | .zero n => (fmt32.signed n 0, 0)
  | .fin neg m e =>
    if 0 ≤ cmpVal (.fin false m e) (.fin false 64 0) then bracket 8 x (justBelowOne neg)
    else
      let (p, n) := expParts (-(2 * toFix m e : Nat))
      let q := (shiftOut p (-n)).1
      bracket 8 x (.ofFix neg ((fixOne - q) * fixOne / (fixOne + q)) 0)

/-- `sigm` (R131, R132). -/
def sfuSigm (x : Nat) : Nat × FlagSet :=
  match fmt32.decode x with
  | .nan s => nanWith (flagIf s fNV)
  | .inf true => (0, 0)
  | .inf false => near (.fin false 1 0) 0
  | .zero _ => near (.fin false 1 (-1)) 0
  | .fin neg m e =>
    if 0 ≤ cmpVal (.fin false m e) (.fin false 256 0) then
      bracket 9 x (if neg then .fin false 1 (-400) else justBelowOne false)
    else
      let (p, n) := expParts (-(toFix m e : Nat))
      let q := (shiftOut p (-n)).1
      if neg then bracket 9 x (.ofFix false (p * fixOne / (fixOne + q)) n)
      else if 0 ≤ cmpVal (.fin false m e) (.fin false 64 0) then bracket 9 x (justBelowOne false)
      else bracket 9 x (.ofFix false (fixOne * fixOne / (fixOne + q)) 0)

/-- `erf` (R131, R132). -/
def sfuErf (x : Nat) : Nat × FlagSet :=
  match fmt32.decode x with
  | .nan s => nanWith (flagIf s fNV)
  | .inf n => near (.fin n 1 0) 0
  | .zero n => (fmt32.signed n 0, 0)
  | .fin neg m e =>
    if 0 ≤ cmpVal (.fin false m e) (.fin false 8 0) then bracket 10 x (justBelowOne neg)
    else
      let y := toFix m e
      bracket 10 x (.ofFix neg (fixMul (erfSeries (fixMul y y) 420 0 (y : Int)).toNat fixTwoRtPi) 0)

/-- A special function by its number in opcode 0x1F (R131): the FP32 result and its flags.
Log 8 (DESIGN CHOICE, safe). -/
def sfuFn (fn : Nat) (x : Nat) : Nat × FlagSet :=
  match fn with
  | 0 => sfuExp2 x
  | 1 => sfuLog2 x
  | 2 => sfuRcp x
  | 3 => sfuRsqrt x
  | 4 => sfuTrig 4 false x
  | 5 => sfuTrig 5 true x
  | 6 => sfuTurn false x
  | 7 => sfuTurn true x
  | 8 => sfuTanh x
  | 9 => sfuSigm x
  | _ => sfuErf x

end Sys2Proof.Machine
end

