-- ==== Sys2Proof/Machine/Accord.lean ====
section
/-!
DEFINITION. Lane types and conversions (R82, R129, R137) and the 8-bit accord codes (R98 to R101).
-/
namespace Sys2Proof

/-- Bits of a lane (R137). -/
def LaneT.width : LaneT → Nat
  | .i4 | .z4 => 4
  | .i8 | .z8 | .c8 => 8
  | .i16 | .z16 | .f16 | .bf16 => 16
  | .i32 | .z32 | .f32 | .e8m10 => 32
  | .i64 | .z64 => 64

/-- Whether a lane is a two's complement integer (R95). -/
def LaneT.signed : LaneT → Bool
  | .i4 | .i8 | .i16 | .i32 | .i64 => true
  | _ => false

/-- The format of a floating-point lane (R91); c8 has none of its own. -/
def LaneT.fmt : LaneT → Machine.Fmt
  | .f16 => Machine.fmt16
  | .bf16 => Machine.fmtBf
  | .e8m10 => Machine.fmtE8
  | _ => Machine.fmt32

/-- The floating-point value of a lane's bits; an E8M10 container's upper bits are ignored (R91). -/
def LaneT.value (t : LaneT) (x : Nat) : Machine.FVal := t.fmt.decode (x % (2 * t.fmt.signW))

end Sys2Proof

namespace Sys2Proof.Machine

/-- Entry c of accord table slot t (R98). -/
def Core.tabEntry (c : Core) (t code : Nat) : Nat := (smGetD c.accord (256 * t + code) 0).toNat % 2 ^ 19

/-- Decodes a code through a table slot (R100): exact, without a flag. -/
def Core.decodeC8 (c : Core) (t code : Nat) : FVal :=
  if code = 254 then .nan false
  else
    let v := fmtE8.decode (c.tabEntry t code)
    if code = 255 then (match v with | .inf n => .inf n | _ => .nan false) else v

/-- Twice the place of a value between two others, compared exactly: the sign of (v − a) − (b − v). -/
def midCmp (a b v : FVal) : Int :=
  let parts := fun x : FVal => match x with | .fin n m e => (n, m, e) | _ => (false, 0, (0 : Int))
  let (na, ma, ea) := parts a
  let (nb, mb, eb) := parts b
  let (nv, mv, ev) := parts v
  let lo := min ea (min eb ev)
  2 * scaled nv mv ev lo - scaled na ma ea lo - scaled nb mb eb lo

/-- The largest code of 0 to n − 1 that satisfies a test. -/
def lastCode (f : Nat → Bool) : Nat → Option Nat
  | 0 => none
  | n + 1 => if f n then some n else lastCode f n

/-- Encodes a value through a table slot (R101), before the flags. -/
def Core.encodeCode (c : Core) (t : Nat) (v : FVal) : Nat :=
  let tab := c.decodeC8 t
  match v with
  | .nan _ => 254
  | .inf n => if tab 255 = .inf n then 255 else if n then 0 else 253
  | v =>
    if cmpVal v (tab 0) < 0 then 0
    else if 0 < cmpVal v (tab 253) then 253
    else
      let eqs := (List.range 254).filter fun i => cmpVal (tab i) v == 0
      match eqs with
      | i :: _ =>
        (match v with
          | .zero n => ((eqs.find? fun i => (tab i).neg == n)).getD i
          | _ => i)
      | [] =>
        match lastCode (fun i => decide (cmpVal (tab i) v < 0)) 254 with
        | none => 0
        | some lo =>
          let d := midCmp (tab lo) (tab (lo + 1)) v
          if d < 0 then lo else if 0 < d then lo + 1 else if lo % 2 = 0 then lo else lo + 1

/-- The flags of a code for a number (R97, R101): NX when it does not decode to it, and UF too when it decodes to a zero. -/
def Core.codeFlags (c : Core) (t code : Nat) (v : FVal) : FlagSet :=
  let back := c.decodeC8 t code
  let nx := back.isNan || cmpVal back v != 0
  let zero := match back with | .zero _ => true | _ => false
  flagIf nx fNX ||| flagIf (nx && zero) fUF

/-- EncodeC8 (R101): the code with its flags, and NV for a signalling NaN. -/
def Core.encodeC8 (c : Core) (t : Nat) (v : FVal) : Nat × FlagSet :=
  let code := c.encodeCode t v
  match v with
  | .nan s => (code, flagIf s fNV)
  | v => (code, c.codeFlags t code v)

/-- The table slots that a format-descriptor word names (R99). -/
def atab (fw : Word) : Nat := (fw.extractLsb' 0 2).toNat
def btab (fw : Word) : Nat := (fw.extractLsb' 2 2).toNat
def otab (fw : Word) : Nat := (fw.extractLsb' 4 2).toNat
def ptab (fw : Word) : Nat := (fw.extractLsb' 6 2).toNat
/-- Whether a format descriptor has a reserved bit set (R99): of its word 0, or of words 1 to 7. -/
def fmtBad (fw : Word) (rest : Bool) : Bool := fw.extractLsb' 8 24 != 0#24 || rest

/-- The value that a lane of any floating-point type or c8 holds (R100, R129). -/
def Core.laneValue (c : Core) (fw : Word) (t : LaneT) (x : Nat) : FVal :=
  if t = .c8 then c.decodeC8 (atab fw) (x % 256) else t.value x

/-- Converts one lane (R129, R146): the bits of the result and its flags. -/
def Core.convert (c : Core) (fw : Word) (rm : BitVec 2) (dt st : LaneT) (x : Nat) : Nat × FlagSet :=
  if st.isInt then
    let i := laneInt st.width st.signed x
    if dt.isInt then clampInt dt.width dt.signed i
    else if dt = .c8 then c.encodeC8 (otab fw) (.ofInt i 0 false)
    else dt.fmt.pack rm (.ofInt i 0 false)
  else
    let v := c.laneValue fw st x
    if dt.isInt then v.toIntLane rm dt.width dt.signed
    else if dt = .c8 then c.encodeC8 (otab fw) v
    else dt.fmt.pack rm v

end Sys2Proof.Machine
end

