-- ==== Sys2Proof/Machine/Operands.lean ====
section
/-!
DEFINITION. The operand forms of the formats (R79 to R81): what an instruction of each form names, its effective addresses, and
the shared shapes of the register-to-register instructions.
-/
namespace Sys2Proof.Machine

/-- The bits of a 32-bit instruction, for `tval` (R86). -/
def enc (i : Instr) : Nat := (bitsOf i).toNat

/-- What an instruction names that has general registers only: every field's number, its sources, its destinations. -/
def useG (enc : Nat) (gs src dst : List Nat) : Use :=
  { enc, priv := false, wide := false, gs, ws := [], src, dst }

/-- What an instruction names that has wide or mask state as well (R138). -/
def useW (enc : Nat) (gs ws src dst : List Nat) : Use := { enc, priv := false, wide := true, gs, ws, src, dst }

/-- What an instruction of level S names (R83). -/
def useS (enc : Nat) (gs src dst : List Nat) : Use := { enc, priv := true, wide := false, gs, ws := [], src, dst }

/-- Form `op gD, gA, gB`: gD ← f(gA, gB). -/
def op3 (enc : Nat) (d a b : Nat) (f : Dword → Dword → Dword) (s : State) : Host.Outcome State Fault Refusal :=
  issue (useG enc [d, a, b] [a, b] [d]) s fun s _ rd => .done (s.writeG s.cur d (f (rd a) (rd b)))

/-- Form `op gD, gA`: gD ← f(gA). -/
def op2 (enc : Nat) (d a : Nat) (f : Dword → Dword) (s : State) : Host.Outcome State Fault Refusal :=
  issue (useG enc [d, a] [a] [d]) s fun s _ rd => .done (s.writeG s.cur d (f (rd a)))

/-- A pc plus a signed number of halfwords, modulo 2^16 (R78, R80). -/
def pcPlus (pc : Half) (off : Int) : Half := pc + BitVec.ofInt 16 (2 * off)

/-- A branch (R121); in a follower it has no effect (R154).
Log 109 (DEDUCED, unsafe). -/
def branch (enc : Nat) (a b : Nat) (off : Int) (cond : Dword → Dword → Bool) (s : State) :
    Host.Outcome State Fault Refusal :=
  issue (useG enc [a, b] [a, b] []) s fun s t rd =>
    if !t.follower && cond (rd a) (rd b) then .jump s (pcPlus t.pc off) else .done s

/-- `jal` (R119). -/
def jump (enc : Nat) (d : Nat) (off : Int) (s : State) : Host.Outcome State Fault Refusal :=
  issue (useG enc [d] [] [d]) s fun s t _ =>
    let s1 := s.writeG s.cur d ((t.pc + 4).zeroExtend 64)
    if t.follower then .done s1 else .jump s1 (pcPlus t.pc off)

/-- `jalr` (R120); a follower writes the link and never raises MISALIGNED (R154).
Log 109 (DEDUCED, unsafe). -/
def jumpReg (enc : Nat) (d a : Nat) (i : Int) (s : State) : Host.Outcome State Fault Refusal :=
  issue (useG enc [d, a] [a] [d]) s fun s t rd =>
    let target : Half := (rd a + BitVec.ofInt 64 i).truncate 16
    if t.follower then .done (s.writeG s.cur d ((t.pc + 4).zeroExtend 64))
    else if target.getLsbD 0 then .trap cMisaligned (target.zeroExtend 64)
    else .jump (s.writeG s.cur d ((t.pc + 4).zeroExtend 64)) target

/-- The FP32 operand of a register (R110). -/
def fp32 (v : Dword) : Nat := v.toNat % 2 ^ 32

/-- An FP form `op gD, gA, gB`: an encoding, or an integer, and flags (R110, R112). -/
def fop3 (enc : Nat) (d a b : Nat) (f : BitVec 2 → Nat → Nat → Nat × FlagSet) (s : State) :
    Host.Outcome State Fault Refusal :=
  issue (useG enc [d, a, b] [a, b] [d]) s fun s t rd =>
    let r := f t.frm (fp32 (rd a)) (fp32 (rd b))
    flagRes (s.writeG s.cur d (BitVec.ofNat 64 r.1)) t s.cur r.2

/-- An FP form `op gD, gA`. -/
def fop2 (enc : Nat) (d a : Nat) (f : BitVec 2 → Nat → Nat × FlagSet) (s : State) : Host.Outcome State Fault Refusal :=
  issue (useG enc [d, a] [a] [d]) s fun s t rd =>
    let r := f t.frm (fp32 (rd a))
    flagRes (s.writeG s.cur d (BitVec.ofNat 64 r.1)) t s.cur r.2

/-- A fused form: gD is the addend and the destination (R126). -/
def fop4 (enc : Nat) (d a b : Nat) (np nz : Bool) (s : State) : Host.Outcome State Fault Refusal :=
  issue (useG enc [d, a, b] [d, a, b] [d]) s fun s t rd =>
    let r := fmt32.fma t.frm np nz (fp32 (rd a)) (fp32 (rd b)) (fp32 (rd d))
    flagRes (s.writeG s.cur d (BitVec.ofNat 64 r.1)) t s.cur r.2

end Sys2Proof.Machine
end

