-- ==== Sys2Proof/Machine/LoadStore.lean ====
section
/-!
DEFINITION. Loads and stores (R264 to R268, R148 to R150), the full/empty forms (R269), and the steps that complete them:
MEMORY_RETURN (R72), WINDOW_ACCESS (R265, R269) and WCB_DRAIN_TIMEOUT (R216).
-/
namespace Sys2Proof.Machine

/-- A loaded value as a register holds it (R266): n bytes, extended by sign or with zeros. -/
def extendBytes (n : Nat) (sext : Bool) (v : Nat) : Dword :=
  if sext then BitVec.ofInt 64 (laneInt (8 * n) true v) else BitVec.ofNat 64 (v % 2 ^ (8 * n))

/-- A load's destination with its data, as a return writes it (R60, R279). -/
def LoadDest.put (t : Thread) (v : Nat) : LoadDest → RegDest × Wide
  | .g d n sext => (.reg d, (extendBytes n sext v).zeroExtend 512)
  | .c d => (.reg d, (BitVec.ofNat 64 v).zeroExtend 512)
  | .w d => (.wide (t.wbase + d), BitVec.ofNat 512 v)
  | .piece _ _ => (.reg 0, 0)

/-- Writes the destination of a load of fixed latency (R73). -/
def State.writeDest (s : State) (w : Who) (dst : LoadDest) (v : Nat) : State :=
  match dst with
  | .g d n sext => s.writeG w d (extendBytes n sext v)
  | .c d => s.writeG w d (BitVec.ofNat 64 v)
  | .w d => s.writeW w d (BitVec.ofNat 512 v)
  | .piece _ _ => s

/-- Bytes that a destination takes. -/
def LoadDest.size : LoadDest → Nat
  | .g _ n _ => n
  | .c _ => 8
  | .w _ => 64
  | .piece _ n => n

/-- Ends a load in its destination, or by the wait it needs. -/
def loadRes (s : State) (w : Who) (t : Thread) (va : Dword) (dst : LoadDest) (pol : Word) : Res :=
  match s.load w t va dst.size pol with
  | .hit s v => .done (s.writeDest w dst v)
  | .miss s a => .wait (s.sendRead w a) (.load a dst)
  | .window core off => .wait (s.after 16 (.windowAccess w)) (.winLoad core off dst.size dst)
  | .control pa =>
    match s.ctrlRead pa, dst with
    | none, _ => .trap cPageFaultLoad va
    | some _, .g d 8 _ => .wait (s.after (ctrlLat w.core pa / 2) (.agentAnswer w)) (.control pa d)
    | some _, _ => .trap cMisaligned va
  | .stop r => r

/-- Ends a store, or by the wait it needs. -/
def storeRes (s : State) (w : Who) (t : Thread) (va : Dword) (n v : Nat) (pol : Word) : Res :=
  match s.store w t va n v pol with
  | .ok s => .done s
  | .window core off => .wait (s.after 16 (.windowAccess w)) (.winStore core off n (BitVec.ofNat 512 v))
  | .control pa =>
    match ctrlWrite pa (BitVec.ofNat 64 v) with
    | none => .trap cPageFaultStore va
    | some ev =>
      if n = 8 then
        .wait ((s.after (ctrlLat w.core pa - 1) ev).after (ctrlLat w.core pa - 1) (.agentAnswer w)) (.answer [])
      else .trap cMisaligned va
  | .stop r => r

/-- The shape of `ld` (R266). -/
def loadOp (enc : Nat) (d n : Nat) (off : Int) (size : Nat) (sext : Bool) (s : State) : Host.Outcome State Fault Refusal :=
  issue (useG enc [d, n] [n] [d]) s fun s t rd =>
    loadRes s s.cur t (rd n + BitVec.ofInt 64 (off * size)) (.g d size sext) t.mpol

/-- The shape of `st` (R266). -/
def storeOp (enc : Nat) (d n : Nat) (off : Int) (size : Nat) (s : State) : Host.Outcome State Fault Refusal :=
  issue (useG enc [d, n] [d, n] []) s fun s t rd =>
    storeRes s s.cur t (rd n + BitVec.ofInt 64 (off * size)) size ((rd d).toNat % 2 ^ (8 * size)) t.mpol

/-- `LD_B` (R266). -/
def execLdB (d n : GReg) (i : BitVec 8) (s : State) : Host.Outcome State Fault Refusal :=
  loadOp (enc (.ldB d n i)) d.toNat n.toNat i.toInt 1 true s

/-- `LD_H` (R266). -/
def execLdH (d n : GReg) (i : BitVec 8) (s : State) : Host.Outcome State Fault Refusal :=
  loadOp (enc (.ldH d n i)) d.toNat n.toNat i.toInt 2 true s

/-- `LD_W` (R266). -/
def execLdW (d n : GReg) (i : BitVec 8) (s : State) : Host.Outcome State Fault Refusal :=
  loadOp (enc (.ldW d n i)) d.toNat n.toNat i.toInt 4 true s

/-- `LD_D` (R266). -/
def execLdD (d n : GReg) (i : BitVec 8) (s : State) : Host.Outcome State Fault Refusal :=
  loadOp (enc (.ldD d n i)) d.toNat n.toNat i.toInt 8 true s

/-- `LD_B_Z` (R266). -/
def execLdBZ (d n : GReg) (i : BitVec 8) (s : State) : Host.Outcome State Fault Refusal :=
  loadOp (enc (.ldBZ d n i)) d.toNat n.toNat i.toInt 1 false s

/-- `LD_H_Z` (R266). -/
def execLdHZ (d n : GReg) (i : BitVec 8) (s : State) : Host.Outcome State Fault Refusal :=
  loadOp (enc (.ldHZ d n i)) d.toNat n.toNat i.toInt 2 false s

/-- `LD_W_Z` (R266). -/
def execLdWZ (d n : GReg) (i : BitVec 8) (s : State) : Host.Outcome State Fault Refusal :=
  loadOp (enc (.ldWZ d n i)) d.toNat n.toNat i.toInt 4 false s

/-- `ST_B` (R266). -/
def execStB (d n : GReg) (i : BitVec 8) (s : State) : Host.Outcome State Fault Refusal :=
  storeOp (enc (.stB d n i)) d.toNat n.toNat i.toInt 1 s

/-- `ST_H` (R266). -/
def execStH (d n : GReg) (i : BitVec 8) (s : State) : Host.Outcome State Fault Refusal :=
  storeOp (enc (.stH d n i)) d.toNat n.toNat i.toInt 2 s

/-- `ST_W` (R266). -/
def execStW (d n : GReg) (i : BitVec 8) (s : State) : Host.Outcome State Fault Refusal :=
  storeOp (enc (.stW d n i)) d.toNat n.toNat i.toInt 4 s

/-- `ST_D` (R266). -/
def execStD (d n : GReg) (i : BitVec 8) (s : State) : Host.Outcome State Fault Refusal :=
  storeOp (enc (.stD d n i)) d.toNat n.toNat i.toInt 8 s

/-- `LDP` (R268, R267): a policy register with a reserved bit set raises RESERVED_FIELD. -/
def execLdp (d n p : GReg) (s : State) : Host.Outcome State Fault Refusal :=
  issue (useG (enc (.ldp d n p)) [d.toNat, n.toNat, p.toNat] [n.toNat, p.toNat] [d.toNat]) s fun s t rd =>
    let pol : Word := (rd p.toNat).truncate 32
    if pol.extractLsb' 18 14 != 0#14 then .trap cReservedField (bitsOf (.ldp d n p))
    else loadRes s s.cur t (rd n.toNat) (.g d.toNat 8 true) pol

/-- `STP` (R268, R267). -/
def execStp (d n p : GReg) (s : State) : Host.Outcome State Fault Refusal :=
  issue (useG (enc (.stp d n p)) [d.toNat, n.toNat, p.toNat] [d.toNat, n.toNat, p.toNat] []) s fun s t rd =>
    let pol : Word := (rd p.toNat).truncate 32
    if pol.extractLsb' 18 14 != 0#14 then .trap cReservedField (bitsOf (.stp d n p))
    else storeRes s s.cur t (rd n.toNat) 8 (rd d.toNat).toNat pol

/-- A load through the constant cache (R257): it never reads the thread's own combined or speculative bytes. -/
def constLoad (s : State) (w : Who) (t : Thread) (va : Dword) (d : Nat) : Res :=
  if va.toNat % 8 ≠ 0 then .trap cMisaligned va
  else match s.xlate w t va 8 false t.mpol with
    | .fault cause tval => .trap cause tval
    | .miss => .retry (.walk t.spc va false) false
    | .control pa => if (s.ctrlRead pa).isSome then .trap cMisaligned va else .trap cPageFaultLoad va
    | .ok a =>
      match smGet s.poison a.line with
      | some cause => .trap cause va
      | none =>
        let s1 := s.joinRead w t a.line
        match smGet (s.core w.core).cc a.line with
        | some x => .done (s1.writeG w d (BitVec.ofNat 64 (lineNat x.data (a.pa % 128) 8)))
        | none => .wait (s1.sendRead w a) (.load a (.c d))

/-- `LD_C` (R268): an address of the local region acts as `ld.d`. -/
def execLdC (d n m : GReg) (s : State) : Host.Outcome State Fault Refusal :=
  issue (useG (enc (.ldC d n m)) [d.toNat, n.toNat, m.toNat] [n.toNat, m.toNat] [d.toNat]) s fun s t rd =>
    let va := rd n.toNat + rd m.toNat
    if Config.lb ≤ va.toNat then loadRes s s.cur t va (.g d.toNat 8 true) t.mpol
    else constLoad s s.cur t va d.toNat

/-- Puts a line in the constant cache, which holds lines as the L1 does (R257, R267).
Log 16 (DESIGN CHOICE, unsafe). -/
def Core.ccPut (c : Core) (line : Nat) (data : LineData) (cls : Nat) : Core :=
  let mates := c.cc.filter fun p => l1Set p.1 == l1Set line && p.1 != line
  let cc := if mates.length < 4 then c.cc else match victimOf mates with
    | some v => smDel c.cc v
    | none => c.cc
  { c with cc := smSet cc line { data, mask := BitVec.allOnes 128, cls, use := c.uses }, uses := c.uses + 1 }

/-- Fills the core's cache with a line that a load brought in, if it may be kept there (R239, R257, R267): the whole line as the die has it,
under what the core has on its way. A load that does not allocate leaves no older bytes of the line in the L1 (R209). -/
def State.fill (s : State) (w : Who) (a : Access) (dst : LoadDest) (data : LineData) (kept : Bool) : State :=
  s.modCore w.core fun c => match dst with
    | .c _ => if kept then c.ccPut a.line data (lineClass a.pol a.line) else c
    | _ =>
      let c0 := { c with l1 := smDel c.l1 a.line }
      if kept && !polBypass a.pol then c0.l1Put a.line data (BitVec.allOnes 128) (lineClass a.pol a.line) else c0

/-- Counts a load served from an S copy of a die (R249). -/
def State.countHit (s : State) (die line : Nat) : State :=
  match smGet (s.die die).copies line with
  | some c => if c.state = some .s then s.modDie die fun d => { d with hits := d.hits + 1 } else s
  | none => s

/-- Marks a die copy as used, or the line in the L2 of its home, with the class of the access (R267, R402). -/
def State.touchCopy (s : State) (core : Nat) (a : Access) : State :=
  let die := dieOf core
  if die = a.homeDie then s.l2Touch die (s.sliceFor core die a) a.line (lineClass a.pol a.line)
  else match smGet (s.die die).copies a.line with
    | some c => s.modDie die fun d =>
        { d with copies := smSet d.copies a.line { c with cls := lineClass a.pol a.line, use := d.uses }, uses := d.uses + 1 }
    | none => s

/-- Whether a line of a committed task is on its way to its home or die copy from a core of a die (R224). -/
def State.commitOnWay (s : State) (die line : Nat) : Bool :=
  s.cores.any fun p => dieOf p.1 == die && p.2.flights.any fun f => f.w.slot == 64 && f.lw.line == line

/-- Whether a load that a die serves as the home waits there (R202, R227, R242). -/
def State.homeWaits (s : State) (home line : Nat) (own : Option (Nat × Nat)) : Bool :=
  s.homeHolds home line own false || s.lineTaken home line own

/-- Whether a load at its serving point waits: for the lines of a commit (R224), for a secure task at the home (R227), or for
an ordered round on the line (R202). -/
def State.loadBlocked (s : State) (die home line : Nat) (own : Option (Nat × Nat)) : Bool :=
  s.commitOnWay die line || (die == home && s.homeWaits home line own)

/-- Whether a read that a unit of a die makes at once must wait (R202, R224, R227, R242): for the lines of a commit on their way, or, where
the home serves it, for a secure task, an ordered round or requests before it there.
Log 29 (DEDUCED, unsafe). -/
def State.readHeld (s : State) (die : Nat) (a : Access) (own : Option (Nat × Nat)) : Bool :=
  s.commitOnWay die a.line || ((die == a.homeDie || !s.dieHas die a) && s.homeWaits a.homeDie a.line own)

/-- A piece of an operand has come: the thread keeps it, and its instruction issues again. -/
def State.keepPiece (s : State) (w : Who) (va : Dword) (n v : Nat) : State :=
  s.modThread w fun t => { t with pieces := t.pieces ++ [(va, n, leBytes n v)] }

/-- Writes a returned load and makes its thread eligible from the next cycle (R72). -/
def State.returnLoad (s : State) (w : Who) (t : Thread) (a : Access) (dst : LoadDest) (base : LineData) (kept : Bool) : State :=
  let line := match dst with
    | .c _ => base
    | _ => s.overFlights w.core a.line base
  let v := match dst with
    | .c _ => line
    | _ =>
      let b := s.ownBytes w t a.line
      overlay line b.data b.mask
  let s1 := s.fill w a dst line kept
  let x := lineNat v (a.pa % 128) dst.size
  match dst with
  | .piece va n => (s1.keepPiece w va n x).wake w
  | _ => s1.completeWith w [dst.put t x]

/-- What a reply of a home directory and the die of the core give of a line, and whether the die has all of it (R239, R241): a line that has
changed since the reply left is taken from the die, so that the L1 never keeps an older value than the die's. -/
def State.replyLine (s : State) (die home line : Nat) (data : LineData) : LineData × Bool :=
  if die = home then
    if (s.ownerOf home line).isNone then (s.homeValue home line, true) else (data, false)
  else match smGet (s.die die).copies line with
    | some c =>
      if c.valid = BitVec.allOnes 128 then (overlay c.data c.pdata c.pend, true) else (overlay data c.pdata c.pend, false)
    | none => (data, false)

/-- `MEMORY_RETURN` (R72, R240): a line served by the die's own L2 is read now; where the die is its home, it waits its turn there (R202,
R227, R242), and one that has left the die meanwhile is asked for at its home. A reply of a home directory brings its data. Either waits for
the lines of a commit of the die (R224). -/
def execMemoryReturn (w : Who) (r : Option MemReply) (s : State) : Host.Outcome State Fault Refusal :=
  match s.thread w with
  | none => .next s
  | some t =>
    match t.run with
    | .waiting (.load a dst) _ =>
      let die := dieOf w.core
      if s.commitOnWay die a.line && (r.all fun x => x.line == a.line) then .next (s.after 1 (.memoryReturn w r))
      else match r with
      | none =>
        if die == a.homeDie && s.homeWaits a.homeDie a.line (some (w.core, t.gid)) then .next (s.dirRequest (s.readReq w a))
        else if !s.dieHas die a then .next (s.sendRead w a)
        else
          let all := die == a.homeDie || (smGet (s.die die).copies a.line).any fun c => c.valid == BitVec.allOnes 128
          .next (((s.countHit die a.line).touchCopy w.core a).returnLoad w t a dst (s.dieValue die a.homeDie a.line) all)
      | some r =>
        if r.line = a.line then
          let (base, kept) := s.replyLine die a.homeDie a.line r.data
          .next (s.returnLoad w t a dst base kept)
        else .next s
    | _ => .next s

/-! Full/empty forms. -/

/-- A full/empty form at its access stage (R269): the core after it and the word it reads, if its condition holds. -/
def Core.sync (c : Core) (op : SyncOp) (off : Nat) (v : Word) : Option (Core × Word) :=
  let i := off / 4
  match op with
  | .ldSync => if c.isFull i then some (c, c.lword i) else none
  | .ldTake => if c.isFull i then some (c.setFull i false, c.lword i) else none
  | .stFill => some ((c.setLword i v).setFull i true, 0)
  | .stWfill => if c.isFull i then none else some ((c.setLword i v).setFull i true, 0)
  | .feClr => some (c.setFull i false, 0)
  | .feSet => some (c.setFull i true, 0)

/-- The register that a form writes, if it reads. -/
def SyncOp.result (op : SyncOp) (d : Nat) (v : Word) : List (Nat × Dword) :=
  match op with
  | .ldSync | .ldTake => [(d, v.zeroExtend 64)]
  | _ => []

/-- Notes a filling or emptying form in the word's list of signallers (R269). -/
def Core.noteSync (c : Core) (op : SyncOp) (off : Nat) (w : Who) : Core :=
  match op with
  | .ldSync => c
  | _ => c.noteFiller (off / 4) w

/-- Whether a form reads the word, so that a poisoned one stops it (R397). -/
def SyncOp.reads (op : SyncOp) : Bool := op == .ldSync || op == .ldTake

/-- The shape of the full/empty forms (R269). -/
def syncRes (s : State) (w : Who) (op : SyncOp) (va : Dword) (d : Nat) (v : Word) : Res :=
  if va.toNat % 4 ≠ 0 then .trap cMisaligned va
  else match placeOf w.core va with
    | .own off =>
      let s1 := s.modCore w.core fun c => c.noteSync op off w
      if op.reads && ((s.core w.core).poisoned off 4).isSome then
        .trap (((s.core w.core).poisoned off 4).getD cSramUncorrectable) va
      else match (s1.core w.core).sync op off v with
        | some (c, x) => .done ((op.result d x).foldl (fun s p => s.writeG w p.1 p.2) (s1.setCore w.core c))
        | none => .wait s1 (.sync op w.core off d v)
    | .window core off =>
      .wait ((s.modCore core fun c => c.noteSync op off w).after 16 (.windowAccess w)) (.sync op core off d v)
    | _ => .trap cLocalBound va

/-- `LD_SYNC` (R269). -/
def execLdSync (d n : GReg) (s : State) : Host.Outcome State Fault Refusal :=
  issue (useG (enc (.ldSync d n)) [d.toNat, n.toNat] [n.toNat] [d.toNat]) s fun s _ rd =>
    syncRes s s.cur .ldSync (rd n.toNat) d.toNat 0

/-- `LD_TAKE` (R269). -/
def execLdTake (d n : GReg) (s : State) : Host.Outcome State Fault Refusal :=
  issue (useG (enc (.ldTake d n)) [d.toNat, n.toNat] [n.toNat] [d.toNat]) s fun s _ rd =>
    syncRes s s.cur .ldTake (rd n.toNat) d.toNat 0

/-- `ST_FILL` (R269). -/
def execStFill (d n : GReg) (s : State) : Host.Outcome State Fault Refusal :=
  issue (useG (enc (.stFill d n)) [d.toNat, n.toNat] [d.toNat, n.toNat] []) s fun s _ rd =>
    syncRes s s.cur .stFill (rd n.toNat) d.toNat ((rd d.toNat).truncate 32)

/-- `ST_WFILL` (R269). -/
def execStWfill (d n : GReg) (s : State) : Host.Outcome State Fault Refusal :=
  issue (useG (enc (.stWfill d n)) [d.toNat, n.toNat] [d.toNat, n.toNat] []) s fun s _ rd =>
    syncRes s s.cur .stWfill (rd n.toNat) d.toNat ((rd d.toNat).truncate 32)

/-- `FE_CLR` (R269). -/
def execFeClr (n : GReg) (s : State) : Host.Outcome State Fault Refusal :=
  issue (useG (enc (.feClr n)) [n.toNat] [n.toNat] []) s fun s _ rd => syncRes s s.cur .feClr (rd n.toNat) 0 0

/-- `FE_SET` (R269). -/
def execFeSet (n : GReg) (s : State) : Host.Outcome State Fault Refusal :=
  issue (useG (enc (.feSet n)) [n.toNat] [n.toNat] []) s fun s _ rd => syncRes s s.cur .feSet (rd n.toNat) 0 0

/-- `WLD` (R149). -/
def execWld (w : Reg4) (n : GReg) (i : BitVec 8) (s : State) : Host.Outcome State Fault Refusal :=
  issue (useW (enc (.wld w n i)) [n.toNat] [w.toNat] [n.toNat] []) s fun s t rd =>
    loadRes s s.cur t (rd n.toNat + BitVec.ofInt 64 (i.toInt * 64)) (.w w.toNat) t.mpol

/-- `WST` (R149). -/
def execWst (w : Reg4) (n : GReg) (i : BitVec 8) (s : State) : Host.Outcome State Fault Refusal :=
  issue (useW (enc (.wst w n i)) [n.toNat] [w.toNat] [n.toNat] []) s fun s t rd =>
    storeRes s s.cur t (rd n.toNat + BitVec.ofInt 64 (i.toInt * 64)) 64 (s.readW s.cur t w.toNat).toNat t.mpol

/-- Whether sixteen words from an offset are full (R150). -/
def Core.spanFull (c : Core) (off : Nat) : Bool := (List.range 16).all fun i => c.isFull (off / 4 + i)

/-- The span of `wld.sync` and `wst.fill`: aligned, and in the core's own local store (R148, R150). -/
def spanAt (core : Nat) (va : Dword) : Except Res Nat :=
  if va.toNat % 64 ≠ 0 then .error (.trap cMisaligned va)
  else match placeOf core va with
    | .own off => .ok off
    | _ => .error (.trap cLocalBound va)

/-- `WLD_SYNC` (R150): the words are read in the first cycle in which all are full, and written in the next. -/
def execWldSync (w : Reg4) (n : GReg) (i : BitVec 8) (s : State) : Host.Outcome State Fault Refusal :=
  issue (useW (enc (.wldSync w n i)) [n.toNat] [w.toNat] [n.toNat] []) s fun s _ rd =>
    let va := rd n.toNat + BitVec.ofInt 64 (i.toInt * 64)
    match spanAt s.cur.core va with
    | .error r => r
    | .ok off =>
      let c := s.core s.cur.core
      match c.poisoned off 64 with
      | some cause => .trap cause va
      | none =>
        if c.spanFull off then .done (s.writeW s.cur w.toNat (BitVec.ofNat 512 (c.lread off 64)))
        else .wait s (.wideSync w.toNat off)

/-- `WST_FILL` (R150): sixteen words are stored and set full. -/
def execWstFill (w : Reg4) (n : GReg) (i : BitVec 8) (s : State) : Host.Outcome State Fault Refusal :=
  issue (useW (enc (.wstFill w n i)) [n.toNat] [w.toNat] [n.toNat] []) s fun s t rd =>
    match spanAt s.cur.core (rd n.toNat + BitVec.ofInt 64 (i.toInt * 64)) with
    | .error r => r
    | .ok off =>
      let me := s.cur
      .done (s.modCore me.core fun c =>
        (List.range 16).foldl (fun c k => c.noteFiller (off / 4 + k) me)
          (c.engineWrite off 64 (s.readW me t w.toNat).toNat))

/-- Takes one of a cluster's four window ports for this cycle (R18, R265). -/
def State.takePort (s : State) (core : Nat) : Option State :=
  let k := s.cluster (clusterOf core)
  let used := if k.portCycle = s.cycle then k.ports else 0
  if used < 4 then some (s.modCluster (clusterOf core) fun k => { k with portCycle := s.cycle, ports := used + 1 }) else none

/-- A window access has been performed in this cycle: its thread is eligible 24 cycles later (R269). -/
def State.windowDone (s : State) (w : Who) (ws : List (Nat × Dword)) : State :=
  (s.modThread w fun t => { t with run := .waiting (.answer ws) s.cycle }).after 23 (.agentAnswer w)

/-- A load's result as the registers that an answer writes. -/
def State.windowLoad (s : State) (w : Who) (dst : LoadDest) (v : Nat) : State :=
  match dst with
  | .g d n sext => s.windowDone w [(d, extendBytes n sext v)]
  | .c d => s.windowDone w [(d, BitVec.ofNat 64 v)]
  | .w d => (s.modThread w fun t => { t with run := .waiting (.wideAnswer d (BitVec.ofNat 512 v)) s.cycle }).after 23 (.agentAnswer w)
  | .piece va n => (s.keepPiece w va n v).outFor w 23

/-- A word that a pop of an `arrive` stream has taken (R279); its instruction issues again. -/
def State.keepWord (s : State) (w : Who) (i : Nat) (x : Word) : State :=
  s.modCore w.core fun c => match smGet c.gens i with
    | some g => { c with gens := smSet c.gens i { g with taken := g.taken ++ [x] } }
    | none => c

/-- A full/empty form, or the pop of a stream bound `arrive`, tries its word (R219, R269, R279): it stays waiting while the condition
fails. -/
def State.windowSync (s : State) (w : Who) (op : SyncOp) (core off d : Nat) (v : Word) : State :=
  match (s.core core).sync op off v with
  | none => s
  | some (c, x) =>
    if core = w.core then
      if 128 ≤ d then ((s.setCore core c).keepWord w (d - 128) x).wake w else (s.setCore core c).complete w (op.result d x)
    else match s.takePort core with
      | none => s.after 1 (.windowAccess w)
      | some s1 =>
        let s2 := s1.setCore core c
        if 128 ≤ d then (s2.keepWord w (d - 128) x).outFor w 23 else s2.windowDone w (op.result d x)

/-- `WINDOW_ACCESS` (R265, R269, R219). -/
def execWindowAccess (w : Who) (s : State) : Host.Outcome State Fault Refusal :=
  match s.thread w with
  | none => .next s
  | some t =>
    match t.run with
    | .waiting (.winLoad core off n dst) _ =>
      (match s.takePort core with
      | none => .next (s.after 1 (.windowAccess w))
      | some s1 => .next (s1.windowLoad w dst ((s.core core).lread off n)))
    | .waiting (.winStore core off n v) _ =>
      (match s.takePort core with
      | none => .next (s.after 1 (.windowAccess w))
      | some s1 => .next ((s1.modCore core fun c => c.lwrite off n v.toNat).windowDone w []))
    | .waiting (.outStore core off n v) _ =>
      (match s.takePort core with
      | none => .next (s.after 1 (.windowAccess w))
      | some s1 => .next ((s1.modCore core fun c => c.lwrite off n v.toNat).outFor w 23))
    | .waiting (.sync op core off d v) _ => .next (s.windowSync w op core off d v)
    | .waiting (.wideSync d off) _ =>
      if (s.core w.core).spanFull off then
        .next ((s.modThread w fun t =>
          { t with run := .waiting (.wideAnswer d (BitVec.ofNat 512 ((s.core w.core).lread off 64))) s.cycle }).after 1 (.agentAnswer w))
      else .next s
    | _ => .next s

/-- `WCB_DRAIN_TIMEOUT` (R216): 256 cycles after the first store of the line. -/
def execWcbDrainTimeout (w : Who) (line : Nat) (s : State) : Host.Outcome State Fault Refusal :=
  match s.thread w with
  | none => .next s
  | some t =>
    if t.wcb.any fun x => x.lw.line == line && decide (x.first + 256 ≤ s.cycle) then .next (s.drainWcb w fun l => l == line)
    else .next s

/-- `AGENT_ANSWER` (R327): the registers that the answer names are written, and the thread is eligible in the next cycle. The
answers of the sequencers are formed in Context.lean before they travel; the report of a message over the Beacon link comes
from its device. -/
def execAgentAnswer (w : Who) (s : State) : Host.Outcome State Fault Refusal :=
  match s.waitOf w with
  | some (.answer ws) => .next (s.complete w ws)
  | some (.wideAnswer n v) => .next (s.completeWith w [(.wide (((s.thread w).map (·.wbase)).getD 0 + n), v)])
  | some .report | some (.roundOpen _) | some (.roundDone _) => .next (s.complete w [])
  | some (.retry .piece) => .next (s.wake w)
  | some (.control pa d) =>
    .next ((s.modThread w fun t => { t with run := .waiting (.answer [(d, (s.ctrlRead pa).getD 0)]) s.cycle }).after
      (ctrlLat w.core pa - ctrlLat w.core pa / 2 - 1) (.agentAnswer w))
  | _ => .next s

/-! Operands in memory (log 17). -/

/-- The line that a thread's load sees now: what its core holds, over what its die serves. -/
def State.seeLine (s : State) (w : Who) (t : Thread) (a : Access) : LineData :=
  let b := s.coreBytes w t a.line
  overlay (s.viewLine w t a) b.data b.mask

/-- Takes a piece of an operand that the instruction in progress has loaded; without it, the instruction waits for it. -/
def State.takePiece (s : State) (w : Who) (t : Thread) (va : Dword) (n : Nat) (wt : Wait) : Except Res (State × List Byte) :=
  match t.pieces.find? fun p => p.1 == va && p.2.1 == n with
  | some p => .ok (s.modThread w fun t => { t with pieces := t.pieces.erase p }, p.2.2)
  | none => .error (.piece wt)

/-- A piece of an operand in memory, n bytes that lie in one line: the thread's own local store and what its core holds of the line are read
at once; another core's local store is read through the cluster window (R265), and a line is loaded as `ld` loads it (R266).
Log 17 (DEDUCED, unsafe). -/
def State.gatherPart (s : State) (w : Who) (t : Thread) (va : Dword) (n : Nat) : Except Res (State × List Byte) :=
  match placeOf w.core va with
  | .bad => .error (.trap cLocalBound va)
  | .own off =>
    match (s.core w.core).poisoned off n with
    | some cause => .error (.trap cause va)
    | none => .ok (s, leBytes n ((s.core w.core).lread off n))
  | .window core off => s.takePiece w t va n (.winLoad core off n (.piece va n))
  | .memory =>
    match s.xlate w t va n false t.mpol with
    | .fault cause tval => .error (.trap cause tval)
    | .miss => .error (.retry (.walk t.spc va false) false)
    | .control pa => .error (if (s.ctrlRead pa).isSome then .trap cMisaligned va else .trap cPageFaultLoad va)
    | .ok a =>
      match smGet s.poison a.line with
      | some cause => .error (.trap cause va)
      | none =>
        let b := s.coreBytes w t a.line
        if b.mask &&& maskOf (a.pa % 128) n = maskOf (a.pa % 128) n then
          .ok (s.joinRead w t a.line, leBytes n (lineNat b.data (a.pa % 128) n))
        else s.takePiece w t va n (.load a (.piece va n))

/-- An operand of n pieces of `size` bytes each, in ascending address.
Log 17 (DEDUCED, unsafe). -/
def State.gather (s : State) (w : Who) (t : Thread) (va : Dword) (size : Nat) : Nat → Except Res (State × List Byte)
  | 0 => .ok (s, [])
  | n + 1 =>
    match s.gatherPart w t va size with
    | .error r => .error r
    | .ok (s1, l) =>
      match s1.gather w t (va + BitVec.ofNat 64 size) size n with
      | .error r => .error r
      | .ok (s2, l') => .ok (s2, l ++ l')

end Sys2Proof.Machine
end

