-- ==== Sys2Proof/Machine/Coherence.lean ====
section
/-!
DEFINITION. The steps of the home directory and the die copies (R240 to R249, R402): requests, forwards, invalidations, grants,
write-backs and replication epochs; and direct writes (R226).
-/
namespace Sys2Proof.Machine

/-- `DIRECTORY_READ` (R240, R242). -/
def execDirectoryRead (r : DirReq) (s : State) : Host.Outcome State Fault Refusal := .next (s.dirRequest { r with own := false })

/-- `DIRECTORY_OWNERSHIP` (R240, R242). -/
def execDirectoryOwnership (r : DirReq) (s : State) : Host.Outcome State Fault Refusal :=
  .next (s.dirRequest { r with own := true })

/-- `FORWARD_REQUEST` (R240, R242): the holder sends its data, M becoming O and E becoming S; one whose write-back is on its
way has none, and the home serves the request from the written-back data. -/
def execForwardRequest (die line : Nat) (s : State) : Host.Outcome State Fault Refusal :=
  let home := s.homeOf line
  match (s.dirEntry home line).busy with
  | none => .next s
  | some t =>
    let s1 := s.takeBack home die line
    let data := s1.homeValue home line
    let down := fun x : Moesi => if x = .m then Moesi.o else if x = .e then .s else x
    let e := s1.dirEntry home line
    let held := (s1.grantedOf die line).isSome
    let hs := if held then e.holders.map fun h => if h.1 == die then (h.1, down h.2) else h
      else e.holders.filter fun h => h.1 != die
    let s2 := (s1.setDir home line { e with holders := hs, busy := none }).modDie die fun d =>
      { d with copies := smMap (fun l c => if l == line then { c with state := c.state.map down } else c) d.copies }
    let s3 := if s2.admits { e with holders := hs } t.req then s2.grantCopy t.req data .s else s2
    .next ((s3.answerRead t.req data none 0).dirNext home line)

/-- A die acknowledges an invalidation (R240, R243, R244): the home frees the line, goes on or grants ownership once every acknowledgement has
arrived. One that brings an M or O holder's data is 10 cycles sooner, and 120 later where the home must write the data back.
Log 29 (DEDUCED, unsafe). -/
def State.ackInval (s : State) (home die line : Nat) (t : Trans) (dirty : Bool) : State :=
  let e := s.dirEntry home line
  let leg := if !dirty then latLeg die home else if t.back then latLeg die home + 120 else latLeg die home - 10
  let due := Nat.max t.due (s.cycle + leg)
  let s1 := s.setDir home line
    { e with holders := e.holders.filter fun h => h.1 != die, busy := some { t with acks := t.acks - 1, due } }
  if 1 < t.acks then s1
  else if t.back then s1.after (due - s.cycle) (.ownershipGrant home line)
  else match t.agent with
    | some ev => s1.after (due - s.cycle) ev
    | none => s1.afterFree (due - s.cycle + (latDie t.req.die home - latDie t.req.die home / 2)) (.ownershipGrant t.req.die line)

/-- `INVALIDATION` (R226, R241, R242). A die that holds no granted copy acknowledges at once, with no effect; a write-back that is on its way
counts as the data it hands over. Otherwise a secure task of the die withholds the acknowledgement (R227), and then the die's tasks that hold
the line abort, its L1s drop the line, an M or O holder hands its data over, and pending bytes stay pending. One that finds the die's own
request for ownership in service, or no transaction, is stale, and the die drops it.
Logs 29 (DEDUCED, unsafe), 124 (DEDUCED, unsafe). -/
def execInvalidation (die line : Nat) (s : State) : Host.Outcome State Fault Refusal :=
  let home := s.homeOf line
  match (s.dirEntry home line).busy with
  | none => .next s
  | some t =>
    if t.acks = 0 || (t.agent.isNone && !t.back && t.req.die == die) then .next s
    else match smGet (s.die die).copies line, s.grantedOf die line with
      | some c, some x =>
        if s.writeBlocked die line none then .next (s.after 1 (.invalidation die line))
        else
          let dirty := c.state.any Moesi.dirty
          .next (((if dirty then s.perform x else s).dropCopy die line (!t.back)).ackInval home die line t dirty)
      | _, _ => .next ((s.takeBack home die line).ackInval home die line t (s.backOf die line).isSome)

/-- `OWNERSHIP_GRANT` (R241): the pending data becomes the die's M copy. At the end of a back-invalidation, the line is free again (R243).
Log 30 (DEDUCED, unsafe). -/
def execOwnershipGrant (die line : Nat) (s : State) : Host.Outcome State Fault Refusal :=
  let home := s.homeOf line
  let e := s.dirEntry home line
  match e.busy with
  | none => .next s
  | some t =>
    if t.acks ≠ 0 || t.agent.isSome || t.req.die ≠ die then .next s
    else if t.back then
      let s1 := s.setDir home line { e with busy := none }
      .next ((if e.holders.isEmpty then s1.snoopDel home line else s1).dirNext home line)
    else match smGet (s.die die).copies line with
      | some c =>
        let base := if c.valid = 0 then s.homeValue home line else c.data
        let c' : DieCopy :=
          { c with data := overlay base c.pdata c.pend, valid := BitVec.allOnes 128, pend := 0, pdata := 0, state := some .m }
        let s1 := s.modDie die fun d => { d with copies := smSet d.copies line c' }
        .next (((s1.setDir home line { e with holders := [(die, .m)], busy := none }).snoopAdd home line).dirNext home line)
      | none => .next ((s.setDir home line { e with holders := [], busy := none }).dirNext home line)

/-- `WRITE_BACK` (R240): the home takes the data, and the directory records I. Data of a copy that the directory no longer records as
written has been taken before (R242). -/
def execWriteBack (die : Nat) (lw : LineWrite) (s : State) : Host.Outcome State Fault Refusal :=
  let home := s.homeOf lw.line
  let e := s.dirEntry home lw.line
  let s1 := if e.holders.any fun h => h.1 == die && Moesi.dirty h.2 then s.perform lw else s
  let s2 := s1.setDir home lw.line { e with holders := e.holders.filter fun h => h.1 != die }
  .next (match smGet (s2.die die).copies lw.line with
    | some c =>
      if c.pend = 0 then (s2.dropLineDie die lw.line).modDie die fun d => { d with copies := smDel d.copies lw.line } else s2
    | none => s2)

/-- A degree one step up or down (R246). -/
def degreeUp (d : Nat) : Nat := if d = 0 then 1 else if d = 1 then 2 else if d = 2 then 4 else 7
def degreeDown (d : Nat) : Nat := if d = 7 then 4 else if d = 4 then 2 else if d = 2 then 1 else 0

/-- The S copies of a line beyond its region's lowered degree go before the directory takes another request for the line (R246). -/
def State.trimCopies (s : State) (home line : Nat) : State :=
  let e := s.dirEntry home line
  if (s.excess home line).isEmpty then s
  else (s.setDir home line { e with queue := .directoryOwnership (homeReq home line) :: e.queue }).dirNext home line

/-- The controller of one region at the end of an epoch (R246). -/
def State.regionEpoch (s : State) (die reg : Nat) : State :=
  let g := smGetD s.regions reg Region.fresh
  let down := g.c > g.r / 16 || g.w > g.r
  let up := !down && decide (64 ≤ g.r) && decide (g.c ≤ g.r / 64)
  let deg := if down then degreeDown g.degree else if up then degreeUp g.degree else g.degree
  let s1 := { s with regions := smSet s.regions reg { g with degree := deg, r := 0, w := 0, c := 0 } }
  let s2 := s1.modDie die fun d =>
    { d with raised := if g.degree < deg then d.raised + 1 else d.raised,
             lowered := if deg < g.degree then d.lowered + 1 else d.lowered }
  if deg < g.degree then
    ((s2.die die).dir.filter fun p => p.1 / 512 == reg).foldl (fun s p => s.trimCopies die p.1) s2
  else s2

/-- `REPLICATION_EPOCH_END` (R246): each adaptive region homed on the die. -/
def execReplicationEpochEnd (die : Nat) (s : State) : Host.Outcome State Fault Refusal :=
  let mine := s.regions.filter fun p => s.homeOf (p.1 * 512) == die && (p.2.pol == 0#2 || p.2.pol == 3#2)
  .next (mine.foldl (fun s p => s.regionEpoch die p.1) (s.modDie die fun d => { d with epoch := d.epoch + 1 }))

/-! Direct writes. -/

/-- The core whose flight a direct write is, if it is one. -/
def srcCore : WriteSrc → Option Nat
  | .thread w | .engine w => some w.core
  | .commit core _ => some core
  | .host | .remote => none

/-- The group of the thread whose write it is (R227). -/
def State.srcGroup (s : State) : WriteSrc → Option (Nat × Nat)
  | .thread w => s.ownGroup w
  | _ => none

/-- The flight that a direct write is. -/
def State.flightOf (s : State) (d : DWrite) : Option Flight :=
  match srcCore d.src with
  | some c => (s.core c).flights.find? fun f => f.id == d.id
  | none => none

/-- Removes a flight: its home slice has acknowledged it (R231). -/
def State.landed (s : State) (core id : Nat) : State :=
  s.modCore core fun c => { c with flights := c.flights.filter fun f => f.id != id }

/-- Whether a write of a core stays behind another of the line on its die (R209, R224): an earlier one of the core, or a line of a task that
has committed before. -/
def State.landsAfter (s : State) (core : Nat) (f : Flight) : Bool :=
  (s.core core).flights.any (fun g => g.lw.line == f.lw.line && decide (g.id < f.id))
    || s.cores.any fun p => p.1 != core && dieOf p.1 == dieOf core
      && p.2.flights.any fun g => g.w.slot == 64 && g.lw.line == f.lw.line && decide (g.sent < f.sent)

/-- Puts written bytes in a die copy (R241): owned at once in an E or M copy, pending otherwise; the first pending bytes ask for
ownership. -/
def State.pendCopy (s : State) (core : Nat) (slice : Nat) (acc : Access) (lw : LineWrite) : State :=
  let die := dieOf core
  let old := smGet (s.die die).copies lw.line
  let owned := old.any fun c => c.state == some .e || c.state == some .m
  let base : DieCopy := old.getD { data := 0, state := none, valid := 0, pend := 0, pdata := 0, slice, cls := 0, use := 0 }
  let c :=
    if owned then { base with data := overlay base.data lw.data lw.mask, state := some .m }
    else { base with pdata := overlay base.pdata lw.data lw.mask, pend := base.pend ||| lw.mask }
  let s1 := s.modDie die fun d =>
    { d with uses := d.uses + 1, copies := smSet d.copies lw.line { c with cls := lineClass acc.pol lw.line, use := d.uses } }
  if owned then
    let e := s1.dirEntry acc.homeDie lw.line
    s1.setDir acc.homeDie lw.line { e with holders := e.holders.map fun h => if h.1 == die then (die, .m) else h }
  else if base.pend = 0 then
    s1.afterFree (latDie die acc.homeDie / 2)
      (.directoryOwnership
        { die, home := acc.homeDie, line := lw.line, own := true, w := none, policy := acc.repl, norep := false, slice := some slice,
          hslice := s.sliceFor core acc.homeDie acc, cls := lineClass acc.pol lw.line })
  else s1

/-- A write that goes straight to the home is a request for ownership of its die (R239), which the home counts (R246), and a use of the line
in the home's L2 (R267). -/
def State.ownedAt (s : State) (core : Nat) (acc : Access) (far : Bool) : State :=
  (s.modRegion acc.line fun g => { g with pol := acc.repl, w := if far then g.w + 1 else g.w }).l2Touch acc.homeDie
    (s.sliceFor core acc.homeDie acc) acc.line (lineClass acc.pol acc.line)

/-- `DIRECT_WRITE` (R226, R227, R239, R241, R242): at the home, the bytes are performed in the write's turn; on another die that may hold a
copy of the line, they enter its die copy. Each waits for a secure task of another that holds the line; tasks that are not secure abort, but
for those of the die where the line of a committed task arrives, whose commit has compared signatures (R224). One from outside the device enters
the home die's release log (R251, R252).
Log 29 (DEDUCED, unsafe). -/
def execDirectWrite (d : DWrite) (s : State) : Host.Outcome State Fault Refusal :=
  let ev := Ev.directWrite d
  let again := s.after 1 ev
  match s.flightOf d with
  | none =>
    let home := s.homeOf d.lw.line
    if (srcCore d.src).isSome then .next (s.leaveLine home d.lw.line ev)
    else
      match s.claim home d.lw.line ev none (s.homeHolds home d.lw.line none true) false with
      | .error s1 => .next s1
      | .ok s1 => .next ((s1.modDie home fun x => { x with log := x.log.push (sigAdd 0 d.lw.line) }).writeMine home d.lw)
  | some f =>
    let core := (srcCore d.src).getD 0
    let home := f.acc.homeDie
    let own := s.srcGroup d.src
    let commit := match d.src with | .commit _ _ => true | _ => false
    if s.landsAfter core f then .next again
    else match s.copySlice core f.acc with
      | some k =>
        if !commit && s.writeBlocked d.die f.lw.line own then .next again
        else
          match s.copyRoom d.die k f.lw.line with
          | none => .next again
          | some s1 =>
            let s2 := if commit then s1 else s1.abortHolders d.die f.lw.line
            .next ((s2.pendCopy core k f.acc f.lw).landed core d.id)
      | none =>
        let arb := commit && d.die == home
        let held := if arb then (smGet (s.die home).rounds f.lw.line).isSome else s.homeHolds home f.lw.line own true
        match s.claim home f.lw.line ev own held arb with
        | .error s1 => .next s1
        | .ok s1 =>
          let far := d.die != home
          let s2 := (s1.ownedAt core f.acc far).pullHome home f.lw.line
          let s3 := if arb then s2 else s2.abortHolders home f.lw.line
          let s4 := if far then s3.dropLineDie home f.lw.line else s3
          .next (((s4.perform f.lw).landed core d.id).dirNext home f.lw.line)

end Sys2Proof.Machine
end

