-- ==== Sys2Proof/Machine/Reserve.lean ====
section
/-!
DEFINITION. Queued reservations and atomics, opcode 0x18 (R235, R270 to R272, R296), with RESERVATION_GRANT and
RESERVATION_REVOKE.
-/
namespace Sys2Proof.Machine

/-- Whether an instruction must wait until its task is secure (R230, R327). -/
def State.notSecure (s : State) (w : Who) (t : Thread) : Bool :=
  match s.taskOf w t with
  | some g => !g.secure
  | none => false

/-- The address of an atomic, a reservation form or a round form (R265, R270): aligned, in memory, translated as a store; a
page of the control range accepts none (R237). -/
def State.atomAddr (s : State) (w : Who) (t : Thread) (va : Dword) (n : Nat) (store : Bool) : Except Res Access :=
  if va.toNat % n ≠ 0 then .error (.trap cMisaligned va)
  else match placeOf w.core va with
    | .memory =>
      (match s.xlate w t va n store t.mpol with
      | .fault cause tval => .error (.trap cause tval)
      | .miss => .error (.retry (.walk t.spc va store) false)
      | .control pa => .error (if ctrlPage pa = .none then .trap (pfCause store) va else .trap cMisaligned va)
      | .ok a => .ok a)
    | _ => .error (.trap cLocalBound va)

/-- Puts a request in a reservation queue in order of arrival at the bank (R235).
Log 28 (DEDUCED, unsafe). -/
def insertRsv (r : RsvReq) : List RsvReq → List RsvReq
  | [] => [r]
  | x :: t => if r.due < x.due then r :: x :: t else x :: insertRsv r t

/-- A word's reservation queue with nobody in it. -/
def RsvQueue.empty : RsvQueue := { holder := none, since := 0, queue := [] }

/-- Changes a word's queue. -/
def State.modRsv (s : State) (home word : Nat) (f : RsvQueue → RsvQueue) : State :=
  s.modDie home fun d => { d with rsv := smSet d.rsv word (f (smGetD d.rsv word RsvQueue.empty)) }

/-- A request enters a word's queue: one of the holder itself, other than an `lrw`, is served ahead of the waiters (R271). -/
def RsvQueue.enter (q : RsvQueue) (r : RsvReq) : RsvQueue :=
  { q with queue := if q.holder == some r.w && r.op != .lrw then r :: q.queue else insertRsv r q.queue }

/-- A thread's request, which reaches the home bank of its word half a round trip from now (R235). -/
def State.rsvReq (s : State) (w : Who) (a : Access) (op : RsvOp) (d : Nat) (b x : Dword) : RsvReq :=
  { w, far := none, op, d, b, x, acc := a, due := s.cycle + latDie (dieOf w.core) a.homeDie / 2 }

/-- Sends a request to a word's home bank (R235, R271): the write-combining entry of the line is drained first.
Log 27 (DEDUCED, unsafe). -/
def State.rsvSend (s : State) (w : Who) (a : Access) (op : RsvOp) (d : Nat) (b x : Dword) : Res :=
  let word := a.pa / 8 * 8
  .wait ((s.drainWcb w fun l => l == a.line).modRsv a.homeDie word fun q => q.enter (s.rsvReq w a op d b x)) (.rsv word op d b x)

/-- The home die whose bank keeps a word's queue. -/
def State.rsvHome (s : State) (word : Nat) : Option Nat := (s.dies.find? fun p => (smGet p.2.rsv word).isSome).map (·.1)

/-- What an atomic writes to a word that holds `old` (R270); none: no write. -/
def amoNew (op : RsvOp) (old b x : Dword) : Option Dword :=
  match op with
  | .add => some (old + b)
  | .and => some (old &&& b)
  | .or => some (old ||| b)
  | .xor => some (old ^^^ b)
  | .min => some (if b.slt old then b else old)
  | .max => some (if old.slt b then b else old)
  | .minZ => some (if b.ult old then b else old)
  | .maxZ => some (if old.ult b then b else old)
  | .swp => some b
  | .cas => if old = x then some b else none
  | _ => none

/-- RoundFP32NE of a sum (R199, R272): rounding is to nearest even whatever `fmode` holds, and no flag accrues. -/
def fp32AddNE (x y : Nat) : Nat := (fmt32.add 0#2 x y).1

/-- A nest counter as its line holds it (R350). -/
structure NestCtr where
  r : Nat
  c0 : Nat
  c1 : Nat
  c2 : Nat
  p : Nat
  m : Nat
  clean : Bool
  deriving DecidableEq, Repr

/-- Reads a nest counter from its line.
Log 112 (DESIGN CHOICE, unsafe). -/
def nestOf (d : LineData) : NestCtr :=
  { r := lineNat d 0 8, c0 := lineNat d 8 4, c1 := lineNat d 12 4, c2 := lineNat d 16 4, p := lineNat d 20 4,
    m := lineNat d 24 4, clean := decide (lineNat d 28 100 = 0) }

/-- The iterations of a nest (R350). -/
def NestCtr.total (c : NestCtr) : Nat := c.c0 * c.c1 * c.c2

/-- The ranges of R350. -/
def NestCtr.valid (c : NestCtr) : Bool :=
  decide (1 ≤ c.c0) && decide (1 ≤ c.c1) && decide (1 ≤ c.c2) && decide (1 ≤ c.p) && decide (c.p ≤ 65536)
    && decide (1 ≤ c.m) && decide (c.total ≤ 2 ^ 63)

/-- The chunk a claim takes (R296). -/
def NestCtr.chunk (c : NestCtr) : Nat := Nat.min c.r (Nat.max c.m ((c.r + 2 * c.p - 1) / (2 * c.p)))

/-- A thread's iteration fetcher takes a chunk that begins at a flat index (R350, R351). -/
def Thread.takeChunk (t : Thread) (c : NestCtr) (f len : Nat) : Thread :=
  if len = 0 then { t with nestL := 0 }
  else
    { t with
      nestL := BitVec.ofNat 64 len, nestC0 := BitVec.ofNat 32 c.c0, nestC1 := BitVec.ofNat 32 c.c1,
      ix0 := BitVec.ofNat 64 (f % c.c0), ix1 := BitVec.ofNat 64 (f / c.c0 % c.c1), ix2 := BitVec.ofNat 64 (f / (c.c0 * c.c1)) }

/-- Whether the pending bytes of a thread's die, or its lines on their way, keep a request of it from being served: its own
earlier writes come first (R209, R271).
Log 27 (DEDUCED, unsafe). -/
def State.ownWrites (s : State) (w : Who) (line : Nat) : Bool :=
  (s.core w.core).flights.any (fun f => f.lw.line == line)
    || (match smGet (s.die (dieOf w.core)).copies line with
      | some c => c.pend != 0
      | none => false)

/-- The core from which a request comes, as the dies of the package see it: that of another device's comes from the home. -/
def RsvReq.die (r : RsvReq) : Nat := if r.far.isSome then r.acc.homeDie else dieOf r.w.core

/-- Whether a secure task, an ordered round or the line of a commit holds a request back at the bank or at its own die (R202, R224,
R227).
Log 27 (DEDUCED, unsafe). -/
def State.rsvHeld (s : State) (home : Nat) (r : RsvReq) : Bool :=
  let own := s.ownGroup r.w
  let line := r.acc.line
  s.homeHolds home line own true || s.readBlocked home line own || s.writeBlocked r.die line own || s.commitOnWay home line
    || s.commitOnWay r.die line

/-- The head of a word's queue, once it has reached the bank and may be served there (R235): nobody else holds the word, and the
thread's own earlier writes of the line have come. -/
def State.rsvHead (s : State) (home word : Nat) : Option RsvReq :=
  match smGet (s.die home).rsv word with
  | some { holder, queue := r :: _, .. } =>
    if decide (r.due ≤ s.cycle) && (holder.isNone || holder == some r.w) && !s.ownWrites r.w r.acc.line && !s.rsvHeld home r then some r
    else none
  | _ => none

/-- Whether the step of the bank would do something for the head of a word's queue now: serve it, or ask for its line's turn (R235, R242).
Log 27 (DEDUCED, unsafe). -/
def State.rsvReady (s : State) (home word : Nat) : Bool :=
  match s.rsvHead home word with
  | none => false
  | some r =>
    let ev := Ev.reservationGrant word
    let e := s.dirEntry home r.acc.line
    s.turn home r.acc.line ev (s.ownGroup r.w) || !(e.queue.contains ev || e.busy.any fun t => t.agent == some ev)

/-- Sends a bank's answer to a waiting thread (R271, R327).
Log 27 (DEDUCED, unsafe). -/
def State.rsvAnswer (s : State) (w : Who) (home : Nat) (ws : List (Nat × Dword)) : State :=
  let lat := latDie (dieOf w.core) home
  (s.modThread w fun t => { t with run := .waiting (.answer ws) s.cycle }).afterFree (lat - lat / 2 - 1) (.agentAnswer w)

/-- Sends an operation over the Beacon link (R251); this device serves its own like any other (R284).
Log 20 (DEDUCED, safe). -/
def State.sendRemote (s : State) (dev : Nat) (op : RemoteOp) : State :=
  if dev = s.host.prov.device.toNat then s.afterFree Config.latBeacon (.remoteAccess op)
  else { s with beacon := s.beacon ++ [(dev, op)] }

/-- Answers a request with the registers it writes, or another device's with the old value (R285). -/
def State.rsvReply (s : State) (r : RsvReq) (home : Nat) (old : Dword) (ws : List (Nat × Dword)) : State :=
  match r.far with
  | none => s.rsvAnswer r.w home ws
  | some (dev, core) => s.sendRemote dev (.reply core true (leBytes 8 old.toNat))

/-- Writes n bytes at the home as a direct write of a thread (R226, R271): tasks of the home and of the thread's die that hold the line abort, its
own L1 drops the line (R209), and the line joins its dirty signature (R231). For another device, the home die's release log has an entry of
the line (R251). -/
def State.rsvWrite (s : State) (r : RsvReq) (home pa n v : Nat) : State :=
  let s1 := (s.writeHome home (lineWriteOf pa n v)).abortHolders r.die (pa / 128)
  match r.far with
  | none =>
    (s1.modCore r.w.core fun c => c.dropLine (pa / 128)).modThread r.w fun t =>
      if t.openMode then { t with dirty := sigAdd t.dirty (pa / 128) } else t
  | some _ => s1.modDie home fun d => { d with log := d.log.push (sigAdd 0 (pa / 128)) }

/-- Serves the request at the head of a word's queue, whose line is at its home. -/
def State.rsvServe (s : State) (home word : Nat) (r : RsvReq) : State :=
  let s0 := (s.pullHome home r.acc.line).modRsv home word fun q => { q with queue := q.queue.drop 1 }
  let pa := r.acc.pa
  let old : Dword := BitVec.ofNat 64 (leNat (memBytes s0.mem word 8))
  let holds := (smGetD (s0.die home).rsv word RsvQueue.empty).holder == some r.w
  let free := fun s : State => (s.modRsv home word fun q => { q with holder := none }).modThread r.w fun t => { t with rsv := none }
  match r.op with
  | .lrw =>
    let s1 := (s0.modRsv home word fun q => { q with holder := some r.w, since := s.cycle }).modThread r.w fun t =>
      { t with rsv := some word, rsvVa := r.acc.va }
    s1.rsvAnswer r.w home [(r.d, old)]
  | .scq =>
    if holds then (free (s0.rsvWrite r home word 8 r.b.toNat)).rsvAnswer r.w home [(r.d, 0)] else s0.rsvAnswer r.w home [(r.d, 1)]
  | .drop =>
    let s1 := if holds then free s0 else s0
    if (s1.waitOf r.w).any fun x => match x with | .rsv wd .drop _ _ _ => wd == word | _ => false then s1.rsvAnswer r.w home [] else s1
  | .fadd =>
    let x := leNat (memBytes s0.mem pa 4)
    (s0.rsvWrite r home pa 4 (fp32AddNE x (r.b.toNat % 2 ^ 32))).rsvAnswer r.w home [(r.d, BitVec.ofNat 64 x)]
  | .nest =>
    let c := nestOf (memLine s0.mem r.acc.line)
    if c.valid && c.clean && decide (c.r ≤ c.total) then
      let len := c.chunk
      let s1 := if len = 0 then s0 else s0.rsvWrite r home pa 8 (c.r - len)
      (s1.modThread r.w fun t => t.takeChunk c (c.total - c.r) len).rsvAnswer r.w home [(r.d, BitVec.ofNat 64 len)]
    else (s0.modThread r.w fun t => { t with nestL := 0 }).rsvAnswer r.w home [(r.d, 0)]
  | op =>
    let s1 := match amoNew op old r.b r.x with
      | some v => s0.rsvWrite r home word 8 v.toNat
      | none => s0
    s1.rsvReply r home old [(r.d, old)]

/-- `RESERVATION_GRANT` (R235): the line comes home in the request's turn (R242, R271), and the request is served. -/
def execReservationGrant (word : Nat) (s : State) : Host.Outcome State Fault Refusal :=
  let ev := Ev.reservationGrant word
  match s.rsvHome word with
  | none => .next (s.leaveLine (s.homeOf (word / 128)) (word / 128) ev)
  | some home =>
    match s.rsvHead home word with
    | none => .next (s.leaveLine home (word / 128) ev)
    | some r =>
      match s.claim home r.acc.line ev (s.ownGroup r.w) false false with
      | .error s1 => .next s1
      | .ok s1 =>
        .next (((s1.rsvServe home word r).l2Touch home (s.sliceFor r.w.core home r.acc) r.acc.line (lineClass r.acc.pol r.acc.line)).dirNext home
          r.acc.line)

/-- `RESERVATION_REVOKE` (R235, R271): after 4,096 cycles; the holder takes RSV_REVOKED before its next instruction, unless its own drop of
the reservation is on its way. -/
def execReservationRevoke (word : Nat) (s : State) : Host.Outcome State Fault Refusal :=
  match s.rsvHome word with
  | none => .next s
  | some home =>
    let q := smGetD (s.die home).rsv word RsvQueue.empty
    match q.holder with
    | none => .next s
    | some w =>
      if decide (q.since + 4096 ≤ s.cycle) && !q.queue.any (fun r => r.w == w && r.op == .drop) then
        let va := ((s.thread w).map (·.rsvVa)).getD 0
        .next (((s.modRsv home word fun q => { q with holder := none }).modThread w fun t => { t with rsv := none }).pend w
          cRsvRevoked va)
      else .next s

/-! The instructions. -/

/-- Forgets the reservation of a thread that leaves its slot (R380). -/
def State.rsvForget (s : State) (w : Who) : State :=
  (s.dropRsv w).modThread w fun t => { t with rsv := none }

/-- Sends the drop of the reservation that a thread holds to its bank (R271). -/
def State.rsvDropSend (s : State) (w : Who) (t : Thread) (a : Access) : State :=
  match t.rsv with
  | none => s
  | some word =>
    match s.rsvHome word with
    | none => s
    | some home =>
      (s.modRsv home word fun q => q.enter { s.rsvReq w { a with pa := word } .drop 0 0 0 with
        due := s.cycle + latDie (dieOf w.core) home / 2 }).modThread w fun t => { t with rsv := none }

/-- `LRW` (R271). -/
def execLrw (d a : GReg) (s : State) : Host.Outcome State Fault Refusal :=
  issue (useG (enc (.lrw d a)) [d.toNat, a.toNat] [a.toNat] [d.toNat]) s fun s t rd =>
    if s.notSecure s.cur t then .retry .secure false
    else match s.atomAddr s.cur t (rd a.toNat) 8 true with
      | .error r => r
      | .ok x => (s.rsvDropSend s.cur t x).rsvSend s.cur x .lrw d.toNat 0 0

/-- `SCQ` (R271): one that does not hold the word is answered 1. -/
def execScq (d a b : GReg) (s : State) : Host.Outcome State Fault Refusal :=
  issue (useG (enc (.scq d a b)) [d.toNat, a.toNat, b.toNat] [a.toNat, b.toNat] [d.toNat]) s fun s t rd =>
    if s.notSecure s.cur t then .retry .secure false
    else match s.atomAddr s.cur t (rd a.toNat) 8 true with
      | .error r => r
      | .ok x =>
        if t.rsv = some (x.pa / 8 * 8) then s.rsvSend s.cur x .scq d.toNat (rd b.toNat) 0
        else .wait (s.afterFree (latDie (dieOf s.cur.core) x.homeDie - 1) (.agentAnswer s.cur)) (.answer [(d.toNat, 1)])

/-- `RSV_DROP` (R271). -/
def execRsvDrop (a : GReg) (s : State) : Host.Outcome State Fault Refusal :=
  issue (useG (enc (.rsvDrop a)) [a.toNat] [a.toNat] []) s fun s t rd =>
    if s.notSecure s.cur t then .retry .secure false
    else match s.atomAddr s.cur t (rd a.toNat) 8 true with
      | .error r => r
      | .ok x =>
        if t.rsv = some (x.pa / 8 * 8) then s.rsvSend s.cur x .drop 0 0 0
        else .wait (s.afterFree (latDie (dieOf s.cur.core) x.homeDie - 1) (.agentAnswer s.cur)) (.answer [])

/-- The shape of the fused atomics of a doubleword (R270, R271). -/
def amoOp (enc : Nat) (op : RsvOp) (d a b : Nat) (s : State) : Host.Outcome State Fault Refusal :=
  issue (useG enc [d, a, b] (if op = .cas then [a, b, d] else [a, b]) [d]) s fun s t rd =>
    if s.notSecure s.cur t then .retry .secure false
    else match s.atomAddr s.cur t (rd a) 8 true with
      | .error r => r
      | .ok x => s.rsvSend s.cur x op d (rd b) (rd d)

/-- `AMO_ADD` (R270). -/
def execAmoAdd (d a b : GReg) (s : State) : Host.Outcome State Fault Refusal :=
  amoOp (enc (.amoAdd d a b)) .add d.toNat a.toNat b.toNat s

/-- `AMO_AND` (R270). -/
def execAmoAnd (d a b : GReg) (s : State) : Host.Outcome State Fault Refusal :=
  amoOp (enc (.amoAnd d a b)) .and d.toNat a.toNat b.toNat s

/-- `AMO_OR` (R270). -/
def execAmoOr (d a b : GReg) (s : State) : Host.Outcome State Fault Refusal :=
  amoOp (enc (.amoOr d a b)) .or d.toNat a.toNat b.toNat s

/-- `AMO_XOR` (R270). -/
def execAmoXor (d a b : GReg) (s : State) : Host.Outcome State Fault Refusal :=
  amoOp (enc (.amoXor d a b)) .xor d.toNat a.toNat b.toNat s

/-- `AMO_MIN` (R270). -/
def execAmoMin (d a b : GReg) (s : State) : Host.Outcome State Fault Refusal :=
  amoOp (enc (.amoMin d a b)) .min d.toNat a.toNat b.toNat s

/-- `AMO_MAX` (R270). -/
def execAmoMax (d a b : GReg) (s : State) : Host.Outcome State Fault Refusal :=
  amoOp (enc (.amoMax d a b)) .max d.toNat a.toNat b.toNat s

/-- `AMO_MIN_Z` (R270). -/
def execAmoMinZ (d a b : GReg) (s : State) : Host.Outcome State Fault Refusal :=
  amoOp (enc (.amoMinZ d a b)) .minZ d.toNat a.toNat b.toNat s

/-- `AMO_MAX_Z` (R270). -/
def execAmoMaxZ (d a b : GReg) (s : State) : Host.Outcome State Fault Refusal :=
  amoOp (enc (.amoMaxZ d a b)) .maxZ d.toNat a.toNat b.toNat s

/-- `AMO_SWP` (R270). -/
def execAmoSwp (d a b : GReg) (s : State) : Host.Outcome State Fault Refusal :=
  amoOp (enc (.amoSwp d a b)) .swp d.toNat a.toNat b.toNat s

/-- `AMO_CAS` (R270). -/
def execAmoCas (d a b : GReg) (s : State) : Host.Outcome State Fault Refusal :=
  amoOp (enc (.amoCas d a b)) .cas d.toNat a.toNat b.toNat s

end Sys2Proof.Machine
end

