-- ==== Sys2Proof/Machine/Rounds.lean ====
section
/-!
DEFINITION. Ordered rounds on D pages (R196 to R202, R272, R273, R403): `amo.fadd`, `det.open` and `det.done`, and the bank's
steps.
-/
namespace Sys2Proof.Machine

/-- Adds an effect to those that a task holds until its commit (R229). -/
def State.holdEffect (s : State) (w : Who) (t : Thread) (e : Effect) : State :=
  s.modGroup w.core t.gid fun g => { g with held := g.held ++ [e] }

/-- The bank that keeps the round of a line (R197): the slice that the page's homing names. -/
def State.bankOf (s : State) (part : Nat) (a : Access) : Nat :=
  256 * a.homeDie + (s.slicePick part a.homeDie a.line a.home a.harg).getD 0

/-- The address of a line, as DET_ROUND reports it (R197, R273). -/
def lineVa (va : Dword) : Dword := va &&& ~~~ 127#64

/-- A thread's part in the round of a line. -/
def Thread.partOn (t : Thread) (line : Nat) : Option Part := t.parts.find? fun p => p.line == line

/-- Changes or adds a thread's part in a round. -/
def State.setPart (s : State) (w : Who) (p : Part) : State :=
  s.modThread w fun t => { t with parts := p :: t.parts.filter fun x => x.line != p.line }

/-- The cycles that a message of a thread takes to a bank. -/
def latBank (core bank : Nat) : Nat := latDie (dieOf core) (bank / 256) / 2

/-- `AMO_FADD` (R272): a fused form on a page whose D bit is 0, and a posted update of the thread's round on a D page. -/
def execAmoFadd (d a b : GReg) (s : State) : Host.Outcome State Fault Refusal :=
  issue (useG (enc (.amoFadd d a b)) [d.toNat, a.toNat, b.toNat] [a.toNat, b.toNat] [d.toNat]) s fun s t rd =>
    let va := rd a.toNat
    match s.atomAddr s.cur t va 4 true with
    | .error r => r
    | .ok x =>
      if x.dpage then
        match t.partOn x.line with
        | some p =>
          if p.done then .trap cDetRound va
          else
            let m : RoundMsg :=
              { w := s.cur, line := x.line, off := x.pa % 128, bank := s.bankOf t.part x, idx := t.detidx.toNat, n := 0,
                seq := p.next, val := (rd b.toNat).truncate 32, dpage := true, va, tok := p.tok }
            let s1 := (s.setPart s.cur { p with next := p.next + 1 }).writeG s.cur d.toNat 0
            if t.openMode then .done (s1.afterRoute (latBank s.cur.core m.bank) (.roundUpdateArrival m))
            else .done (s1.holdEffect s.cur t (.detAdd m))
        | none => .trap cDetRound va
      else if s.notSecure s.cur t then .retry .secure false
      else s.rsvSend s.cur x .fadd d.toNat (rd b.toNat) 0

/-- The number of a `det.open`: no other of the machine has it. -/
def State.newTok (s : State) (w : Who) : Nat := s.cycle * 2 ^ 17 + w.core * 64 + w.slot

/-- `DET_OPEN` (R197, R273). One that issues again since its wait was abandoned after the bank had recorded it completes (R202). -/
def execDetOpen (a b : GReg) (s : State) : Host.Outcome State Fault Refusal :=
  issue (useG (enc (.detOpen a b)) [a.toNat, b.toNat] [a.toNat, b.toNat] []) s fun s t rd =>
    let va := lineVa (rd a.toNat)
    match s.atomAddr s.cur t va 128 true with
    | .error r => r
    | .ok x =>
      let n := (rd b.toNat).toNat
      if !x.dpage || decide (n < 1) || decide (64 < n) || decide (n ≤ t.detidx.toNat) then .trap cDetRound va
      else
        let m : RoundMsg :=
          { w := s.cur, line := x.line, off := 0, bank := s.bankOf t.part x, idx := t.detidx.toNat, n, seq := 0, val := 0,
            dpage := true, va, tok := s.newTok s.cur }
        match (t.partOn x.line).filter fun p => p.again && !p.done with
        | some p => .done (s.setPart s.cur { p with again := false })
        | none =>
          if t.openMode then
            .wait (s.afterRoute (latBank s.cur.core m.bank) (.roundOpenArrival m)) (.roundOpen x.line)
          else
            .done ((s.setPart s.cur { line := x.line, next := 0, done := false, tok := m.tok, again := false }).holdEffect s.cur t
              (.detOpen m))

/-- `DET_DONE` (R198, R273). One that issues again since its wait was abandoned asks the bank for its answer again (R202). -/
def execDetDone (a : GReg) (s : State) : Host.Outcome State Fault Refusal :=
  issue (useG (enc (.detDone a)) [a.toNat] [a.toNat] []) s fun s t rd =>
    let va := lineVa (rd a.toNat)
    match s.atomAddr s.cur t va 128 true with
    | .error r => r
    | .ok x =>
      match t.partOn x.line with
      | some p =>
        if p.done && !p.again then .trap cDetRound va
        else
          let m : RoundMsg :=
            { w := s.cur, line := x.line, off := 0, bank := s.bankOf t.part x, idx := t.detidx.toNat, n := 0, seq := p.next,
              val := 0, dpage := true, va, tok := p.tok }
          let s1 := s.setPart s.cur { p with done := true, again := false }
          if t.openMode then
            .wait (s1.afterRoute (latBank s.cur.core m.bank) (.roundDoneArrival m)) (.roundDone x.line)
          else .done (s1.holdEffect s.cur t (.detDone m))
      | none => .trap cDetRound va

/-! The bank. -/

/-- Changes the round of a line. -/
def State.modRound (s : State) (die line : Nat) (f : Round → Round) : State :=
  match smGet (s.die die).rounds line with
  | some r => s.modDie die fun d => { d with rounds := smSet d.rounds line (f r) }
  | none => s

/-- Raises DET_ROUND for an open that the bank refuses (R197): in its thread while that waits for the answer, and detached for
a held effect of a committed task (R327), of which nothing more is taken. `tval` is the line address that the instruction named
(R273). -/
def State.refuseOpen (s : State) (r : RoundMsg) : State :=
  let s1 := s.modDie (r.bank / 256) fun d => { d with behind := d.behind.filter fun e => e.tok != some r.tok }
  match s1.waitOf r.w with
  | some (.roundOpen l) =>
    if l = r.line then s1.takeTrap r.w cDetRound r.va (((s1.thread r.w).map (·.pc)).getD 0)
    else s1.detach r.w.core cDetRound r.va none
  | _ => s1.detach r.w.core cDetRound r.va none

/-- Answers a `det.open` (R273): the thread has its part in the round from now on, and waits for the answer. -/
def State.answerOpen (s : State) (r : RoundMsg) : State :=
  match s.waitOf r.w with
  | some (.roundOpen l) =>
    if l = r.line then
      (s.setPart r.w { line := r.line, next := 0, done := false, tok := r.tok, again := false }).afterFree (latBank r.w.core r.bank)
        (.agentAnswer r.w)
    else s
  | _ => s

/-- What came behind a `det.open` that the bank has let in reaches the bank now, in order (R202). -/
def State.letIn (s : State) (r : RoundMsg) : State :=
  let die := r.bank / 256
  let mine := fun e : Ev => e.tok == some r.tok
  ((s.die die).behind.filter mine).foldl (fun s e => s.after 0 e)
    (s.modDie die fun d => { d with behind := d.behind.filter fun e => !mine e })

/-- Whether the `det.open` of a message's issuer has been let into its round. -/
def Round.takesPart (x : Round) (r : RoundMsg) : Bool := smGet x.toks r.idx == some r.tok

/-- Whether the `det.open` of a message's issuer is on its way or waits for a round to close. -/
def State.openAhead (s : State) (r : RoundMsg) : Bool :=
  (s.die (r.bank / 256)).openQ.any (fun q => q.tok == r.tok)
    || s.agenda.any fun x => match x.ev with | .roundOpenArrival q => q.tok == r.tok | _ => false

/-- A message of an issuer that takes no part in the round of its line: it stays behind the issuer's `det.open`, if that is to come,
and else is lost, since the open was refused. -/
def State.stayBehind (s : State) (r : RoundMsg) (e : Ev) : State :=
  if s.openAhead r then s.modDie (r.bank / 256) fun d => { d with behind := d.behind ++ [e] } else s

/-- `ROUND_OPEN_ARRIVAL` (R197). -/
def execRoundOpenArrival (r : RoundMsg) (s : State) : Host.Outcome State Fault Refusal :=
  let die := r.bank / 256
  let d := s.die die
  if !r.dpage || decide (r.n < 1) || decide (64 < r.n) || decide (r.n ≤ r.idx) then .next (s.refuseOpen r)
  else match smGet d.rounds r.line with
    | some x =>
      if x.n != r.n || (smGet x.opened r.idx).isSome then .next (s.refuseOpen r)
      else
        .next (((s.modRound die r.line fun x =>
          { x with opened := smSet x.opened r.idx r.w, toks := smSet x.toks r.idx r.tok }).answerOpen r).letIn r)
    | none =>
      if (d.rounds.filter fun p => p.2.bank == r.bank).length < 4 then
        let x : Round := { bank := r.bank, n := r.n, expected := 0, applied := 0, opened := smSet [] r.idx r.w,
                           toks := smSet [] r.idx r.tok, accepted := [], dones := [], doneWho := [] }
        .next (((s.modDie die fun d => { d with rounds := smSet d.rounds r.line x }).answerOpen r).letIn r)
      else .next (s.modDie die fun d => { d with openQ := d.openQ ++ [r] })

/-- Answers the `det.done` of an issuer whose updates the bank has all accepted (R198). -/
def State.answerDone (s : State) (die line idx : Nat) : State :=
  match smGet (s.die die).rounds line with
  | none => s
  | some x =>
    match smGet x.dones idx, smGet x.doneWho idx with
    | some k, some w =>
      if smGetD x.accepted idx 0 < k then s
      else match s.waitOf w with
        | some (.roundDone l) =>
          if l = line then s.afterFree (latBank w.core x.bank) (.agentAnswer w) else s
        | _ => s
    | _, _ => s

/-- Moves on from issuers that are done and wholly applied (R199). -/
def Round.advance (x : Round) : Nat → Round
  | 0 => x
  | n + 1 =>
    if smGet x.dones x.expected = some x.applied then ({ x with expected := x.expected + 1, applied := 0 } : Round).advance n else x

/-- Moves a round on, closes it after its last issuer (R199), and lets waiting opens in (R197); otherwise the next held update
of the expected issuer is due in the next cycle (R200). -/
def State.roundOn (s : State) (die line : Nat) : State :=
  match smGet (s.die die).rounds line with
  | none => s
  | some x0 =>
    let x := x0.advance 65
    if x.n ≤ x.expected then
      let q := (s.die die).openQ
      let s1 := s.modDie die fun d => { d with rounds := smDel d.rounds line, openQ := [] }
      q.foldl (fun s r => s.after 0 (.roundOpenArrival r)) s1
    else
      let s1 := s.modRound die line fun _ => x
      let mine := fun ev => match ev with | Ev.heldUpdateApply l => l == line | _ => false
      if ((s.die die).updates.any fun u => u.msg.line == line && u.msg.idx == x.expected && u.msg.seq == x.applied)
          && !(s1.agenda.any fun e => mine e.ev) then s1.after 1 (.heldUpdateApply line)
      else s1

/-- Applies one update of the expected issuer, whose turn at the line it is (R199): word ← RoundFP32NE(word + v), as a direct
write. -/
def State.applyUpdate (s : State) (die : Nat) (r : RoundMsg) : State :=
  let pa := r.line * 128 + r.off
  let x := leNat (memBytes s.mem pa 4)
  (((s.writeMine die (lineWriteOf pa 4 (fp32AddNE x r.val.toNat)))).modRound die r.line fun x =>
    { x with applied := x.applied + 1 }).roundOn die r.line

/-- An update reaches the bank (R200, R403): the next one of the expected issuer is applied, another is held if an entry is free,
and otherwise refused: it comes again 64 cycles later. -/
def State.takeUpdate (s : State) (r : RoundMsg) : State :=
  let die := r.bank / 256
  match (smGet (s.die die).rounds r.line).filter (·.takesPart r) with
  | none => (s.leaveLine die r.line (.roundUpdateArrival r)).stayBehind r (.roundUpdateArrival r)
  | some x =>
    let accept := fun s : State => (s.modRound die r.line fun x =>
      { x with accepted := smSet x.accepted r.idx (smGetD x.accepted r.idx 0 + 1) })
    if r.idx = x.expected ∧ r.seq = x.applied then
      match s.claim die r.line (.roundUpdateArrival r) none (s.writeBlocked die r.line none) false with
      | .error s1 => s1
      | .ok s1 => ((accept s1).applyUpdate die r).answerDone die r.line r.idx
    else if ((s.die die).updates.filter fun u => u.bank == r.bank).length < 16 then
      ((accept s).modDie die fun d => { d with updates := d.updates ++ [{ bank := r.bank, msg := r }] }).answerDone die r.line
        r.idx
    else s.after 64 (.roundUpdateResend r)

/-- `ROUND_UPDATE_ARRIVAL` (R200). -/
def execRoundUpdateArrival (r : RoundMsg) (s : State) : Host.Outcome State Fault Refusal := .next (s.takeUpdate r)

/-- `ROUND_UPDATE_RESEND` (R200): each resend is judged afresh. -/
def execRoundUpdateResend (r : RoundMsg) (s : State) : Host.Outcome State Fault Refusal := .next (s.takeUpdate r)

/-- `ROUND_DONE_ARRIVAL` (R198). To one that comes again from a thread whose round has closed meanwhile (R202), the bank answers that
it is done. -/
def execRoundDoneArrival (r : RoundMsg) (s : State) : Host.Outcome State Fault Refusal :=
  let die := r.bank / 256
  if ((smGet (s.die die).rounds r.line).filter (·.takesPart r)).isNone then
    if s.openAhead r then .next (s.stayBehind r (.roundDoneArrival r))
    else if s.waitOf r.w = some (.roundDone r.line) then
      .next (s.afterFree (latBank r.w.core r.bank) (.agentAnswer r.w))
    else .next s
  else
  let s1 := s.modRound die r.line fun x =>
    { x with dones := smSet x.dones r.idx r.seq, doneWho := smSet x.doneWho r.idx r.w }
  .next ((s1.answerDone die r.line r.idx).roundOn die r.line)

/-- The die whose bank keeps the round of a line. -/
def State.roundHome (s : State) (line : Nat) : Option Nat := (s.dies.find? fun p => (smGet p.2.rounds line).isSome).map (·.1)

/-- `HELD_UPDATE_APPLY` (R200): one in a cycle, in sequence order; it waits for a secure task (R199). -/
def execHeldUpdateApply (line : Nat) (s : State) : Host.Outcome State Fault Refusal :=
  let ev := Ev.heldUpdateApply line
  match s.roundHome line with
  | none => .next (s.leaveLine (s.homeOf line) line ev)
  | some die =>
    match smGet (s.die die).rounds line with
    | none => .next s
    | some x =>
      let hit := fun u : HeldUpd => u.msg.line == line && u.msg.idx == x.expected && u.msg.seq == x.applied
      match (s.die die).updates.find? hit with
      | none => .next (s.leaveLine die line ev)
      | some u =>
        match s.claim die line ev none (s.writeBlocked die line none) false with
        | .error s1 => .next s1
        | .ok s1 => .next ((s1.modDie die fun d => { d with updates := d.updates.filter fun u => !hit u }).applyUpdate die u.msg)

end Sys2Proof.Machine
end

