-- ==== Sys2Proof/Machine/Streams.lean ====
section
/-!
DEFINITION. Address generators and streams, opcode 0x1B (R277 to R279), and STREAM_ELEMENT_ARRIVAL (R214). Popping a bound
register and writing one stand in Ops.lean, since any instruction may do either.
-/
namespace Sys2Proof.Machine

/-- Whether a generator is another thread's (R278). -/
def Core.genTaken (c : Core) (slot i : Nat) : Bool :=
  match smGet c.gens i with
  | some g => g.owner.isSome && g.owner != some slot
  | none => false

/-- A generator as it stands; a free one holds the reset descriptor (R277). -/
def Core.gen (c : Core) (i : Nat) : Gen := smGetD c.gens i Gen.free

/-- Forgets what a stream has read ahead and reads it again (R214). -/
def State.rereadGen (s : State) (core i : Nat) : State :=
  let mine := fun ev => match ev with | Ev.streamElementArrival c k => c == core && k == i | _ => false
  ((s.unschedule mine).modCore core fun c =>
    { c with gens := smSet c.gens i { c.gen i with ahead := [], taken := [] } }).readAhead core i 16

/-- A fence of scope `th` or wider discards every element its thread's streams have read ahead, and reads it again (R214). -/
def State.rereadStreams (s : State) (w : Who) : State :=
  ((s.core w.core).gens.filter fun p => p.2.owner == some w.slot && (p.2.bound.map (·.2)) == some Dir.input).foldl
    (fun s p => s.rereadGen w.core p.1) s

/-- `BIND` (R278, R279). -/
def execBind (d : GReg) (a : BitVec 3) (b : Dir) (s : State) : Host.Outcome State Fault Refusal :=
  issue (useG (enc (.bind d a b)) [d.toNat] [] []) s fun s t _ =>
    let c := s.core s.cur.core
    let g := c.gen a.toNat
    let arriveBad := b == .arrive && (decide (g.base.toNat < Config.lb) || !(g.size == 2#3 || g.size == 3#3))
    if d = 0 || (c.boundGen s.cur.slot d.toNat).isSome || c.genTaken s.cur.slot a.toNat || arriveBad then
      .trap cReservedField (bitsOf (.bind d a b))
    else
      let g' := { g with owner := some s.cur.slot, bound := some (d.toNat, b), pol := t.mpol, ahead := [], taken := [] }
      .done ((s.modCore s.cur.core fun c => { c with gens := smSet c.gens a.toNat g' }).readAhead s.cur.core a.toNat 16)

/-- `UNBIND` (R278): the claim ends with the binding, and what was read ahead is forgotten. -/
def execUnbind (a : BitVec 3) (s : State) : Host.Outcome State Fault Refusal :=
  issue (useG (enc (.unbind a)) [] [] []) s fun s _ _ =>
    if (s.core s.cur.core).genTaken s.cur.slot a.toNat then .trap cReservedField (bitsOf (.unbind a))
    else
      let core := s.cur.core
      let mine := fun ev => match ev with | Ev.streamElementArrival c k => c == core && k == a.toNat | _ => false
      .done ((s.unschedule mine).modCore core fun c => { c with gens := smDel c.gens a.toNat })

/-- Word i of 64 bytes. -/
def wordAt (l : List Byte) (i : Nat) : Word := BitVec.ofNat 32 (leNat ((l.drop (4 * i)).take 4))

/-- A descriptor of 64 bytes (R277), laid over the generator that takes it; none where a field is out of range (R278). -/
def Gen.ofBytes (g : Gen) (slot : Nat) (l : List Byte) : Option Gen :=
  let w := wordAt l
  let bad := w 11 >>> 4 != 0 || (w 11).getLsbD 2 || w 12 != 0 || w 13 != 0 || w 14 != 0 || w 15 != 0
    || w 5 == 0 || w 6 == 0 || w 7 == 0 || !(w 8).ult (w 5) || !(w 9).ult (w 6) || !(w 10).ult (w 7)
  if bad then none
  else some { g with
    owner := some slot, base := w 1 ++ w 0, stride0 := w 2, stride1 := w 3, stride2 := w 4, count0 := w 5, count1 := w 6,
    count2 := w 7, pos0 := w 8, pos1 := w 9, pos2 := w 10, size := (w 11).extractLsb' 0 3, sext := (w 11).getLsbD 3,
    exhausted := false }

/-- `AG_SET` (R278): the descriptor is read as a load of 64 bytes. -/
def execAgSet (d : BitVec 3) (a : GReg) (s : State) : Host.Outcome State Fault Refusal :=
  issue (useG (enc (.agSet d a)) [a.toNat] [a.toNat] []) s fun s t rd =>
    let va := rd a.toNat
    if (s.core s.cur.core).genTaken s.cur.slot d.toNat then .trap cReservedField (bitsOf (.agSet d a))
    else if va.toNat % 64 ≠ 0 then .trap cMisaligned va
    else match s.gather s.cur t va 64 1 with
      | .error r => r
      | .ok (s1, l) =>
        match ((s1.core s.cur.core).gen d.toNat).ofBytes s.cur.slot l with
        | none => .trap cReservedField (bitsOf (.agSet d a))
        | some g =>
          .done ((s1.modCore s.cur.core fun c => { c with gens := smSet c.gens d.toNat g }).rereadGen s.cur.core d.toNat)

/-- A field of a generator (R278). -/
def Gen.field (g : Gen) (f : Nat) : Dword :=
  match f with
  | 0 => g.base
  | 1 => g.stride0.zeroExtend 64
  | 2 => g.stride1.zeroExtend 64
  | 3 => g.stride2.zeroExtend 64
  | 4 => g.count0.zeroExtend 64
  | 5 => g.count1.zeroExtend 64
  | 6 => g.count2.zeroExtend 64
  | 7 => g.pos0.zeroExtend 64
  | 8 => g.pos1.zeroExtend 64
  | 9 => g.pos2.zeroExtend 64
  | _ => BitVec.ofNat 64 (g.size.toNat + 8 * g.sext.toNat)

/-- `AG_GET` (R278). -/
def execAgGet (d : GReg) (a : BitVec 3) (b : BitVec 4) (s : State) : Host.Outcome State Fault Refusal :=
  issue (useG (enc (.agGet d a b)) [d.toNat] [] [d.toNat]) s fun s _ _ =>
    let c := s.core s.cur.core
    if 10 < b.toNat || c.genTaken s.cur.slot a.toNat then .trap cReservedField (bitsOf (.agGet d a b))
    else .done (s.writeG s.cur d.toNat ((c.gen a.toNat).field b.toNat))

/-- Reads a stream element (R214, R237, R279): its value, or the cause and value of its fault; none while it must wait, for a port of the
cluster window (R265) or for what holds its line back (R202, R224, R227). -/
def State.readElement (s : State) (w : Who) (t : Thread) (g : Gen) (va : Dword) : Option (State × Except (Nat × Dword) Dword) :=
  let n := g.bytes
  if va.toNat % n ≠ 0 then some (s, .error (cMisaligned, va))
  else match placeOf w.core va with
    | .bad => some (s, .error (cLocalBound, va))
    | .own off =>
      (match (s.core w.core).poisoned off n with
      | some cause => some (s, .error (cause, va))
      | none => some (s, .ok (g.extend ((s.core w.core).lread off n))))
    | .window c off => (s.takePort c).map fun s1 => (s1, .ok (g.extend ((s.core c).lread off n)))
    | .memory =>
      match s.xlateNow w.core t.part t.spc va n false (t.level == .u) g.pol with
      | .fault cause tval => some (s, .error (cause, tval))
      | .miss => some (s, .error (cPageFaultLoad, va))
      | .control pa =>
        (match s.ctrlRead pa with
        | none => some (s, .error (cPageFaultLoad, va))
        | some v => if n = 8 then some (s, .ok v) else some (s, .error (cMisaligned, va)))
      | .ok a =>
        match smGet s.poison a.line with
        | some cause => some (s, .error (cause, va))
        | none =>
          let need := maskOf (a.pa % 128) n
          if (s.coreBytes w t a.line).mask &&& need ≠ need && s.readHeld (dieOf w.core) a (some (w.core, t.gid)) then none
          else some (s.joinRead w t a.line, .ok (g.extend (lineNat (s.seeLine w t a) (a.pa % 128) n)))

/-- Gives the oldest element still awaited its value or its fault. -/
def fillAhead (r : Except (Nat × Dword) Dword) : List Ahead → List Ahead
  | [] => []
  | x :: t =>
    if x.val.isNone && x.fault.isNone then
      match r with
      | .ok v => { x with val := some v } :: t
      | .error (cause, tval) => { x with fault := some cause, val := some tval } :: t
    else x :: fillAhead r t

/-- `STREAM_ELEMENT_ARRIVAL` (R214): the oldest element still awaited is read.
Log 31 (DEDUCED, unsafe). -/
def execStreamElementArrival (core gen : Nat) (s : State) : Host.Outcome State Fault Refusal :=
  match smGet (s.core core).gens gen with
  | none => .next s
  | some g =>
    match g.owner, g.ahead.find? fun x => x.val.isNone && x.fault.isNone with
    | some slot, some x =>
      (match s.thread { core, slot } with
      | none => .next s
      | some t =>
        match s.readElement { core, slot } t g x.addr with
        | none => .next (s.after 1 (.streamElementArrival core gen))
        | some (s1, r) =>
          .next (s1.modCore core fun c => { c with gens := smSet c.gens gen { g with ahead := fillAhead r g.ahead } }))
    | _, _ => .next s

end Sys2Proof.Machine
end

