-- ==== Sys2Proof/Machine/Fences.lean ====
section
/-!
DEFINITION. Release, acquire and fences, opcode 0x19 (R214 to R217, R231 to R233, R250, R251, R258, R274), and pinning, opcode
0x1A (R275, R276).
-/
namespace Sys2Proof.Machine

/-- Whether a scope is `clu` or wider. -/
def scopeWide : Scope → Bool
  | .th | .core => false
  | _ => true

/-- Whether a scope is `pkg` or wider. -/
def scopeGlobal : Scope → Bool
  | .pkg | .sys => true
  | _ => false

/-- Enters a dirty signature in the logs of a scope and of the narrower ones (R231). -/
def State.logRelease (s : State) (core : Nat) (scope : Scope) (g : Signature) : State :=
  let s1 := s.modCluster (clusterOf core) fun k => { k with log := k.log.push g }
  if scope = .clu then s1 else s1.modDie (dieOf core) fun d => { d with log := d.log.push g }

/-- What an acquire drops from the core's L1 and constant cache (R232, R257): the lines of the entries that are new to the
thread, or every line when some of them have left the log. -/
def State.acquireFrom (s : State) (w : Who) (l : RelLog) (last : Nat) : State :=
  let n := l.next - last
  if l.entries.length < n then s.modCore w.core fun c => c.dropLines fun _ => true
  else s.modCore w.core fun c => c.dropLines fun x => (l.entries.take n).any fun g => sigHas g x

/-- An acquire at a scope (R232, R250, R251). -/
def State.acquire (s : State) (w : Who) (scope : Scope) : State :=
  match s.thread w with
  | none => s
  | some t =>
    match scope with
    | .th | .core => s
    | .clu =>
      let l := (s.cluster (clusterOf w.core)).log
      (s.acquireFrom w l t.acqClu).modThread w fun t => { t with acqClu := l.next }
    | _ =>
      let l := (s.die (dieOf w.core)).log
      (s.acquireFrom w l t.acqDie).modThread w fun t => { t with acqDie := l.next }

/-- Cycles that a release or an acquire of a scope takes with nothing to wait for (R231, R232). -/
def scopeLat : Scope → Nat
  | .th | .core => 8
  | .clu => 40
  | _ => 200

/-- Whether a command of the copy engine acts on another device (R251): operations 4, 5 and 6. -/
def Cmd.isRemote (c : Cmd) : Bool :=
  let op := (c.bits.extractLsb' 20 8).toNat
  op == 4 || op == 5 || op == 6

/-- Every command of an engine that has not completed. -/
def Unit3.all (u : Unit3) : List Cmd := (u.exec.map (·.cmd)).toList ++ u.queue ++ u.outside

/-- Whether everything a thread's release waits for has come (R231, R250, R251): its drained lines are acknowledged, those that it drained
on another slot before it moved too; for `pkg`, no line it has stored to is still pending on a die; for `sys`, its remote commands have
completed. -/
def State.released (s : State) (w : Who) (t : Thread) (scope : Scope) : Bool :=
  (s.core w.core).flights.all (fun f => f.w != w)
    && t.away.all (fun x => (s.core x.1).flights.all fun f => f.id != x.2)
    && (!scopeGlobal scope || s.dies.all fun d => d.2.copies.all fun p => p.2.pend == 0 || !sigHas t.dirty p.1)
    && (scope != .sys || (s.core w.core).cp.all.all fun c => !(c.w == w && c.isRemote))

/-- What a release, acquire or fence does when it completes (R231, R232, R233, R258). -/
def State.finishRelease (s : State) (w : Who) (t : Thread) (scope : Scope) (rel acq cc : Bool) : State :=
  let s1 :=
    if rel && scopeWide scope && t.openMode then
      (s.logRelease w.core scope t.dirty).modThread w fun t => { t with dirty := 0 }
    else s
  let s2 := if acq then s1.acquire w scope else s1
  let s3 := if cc then s2.modCore w.core fun c => { c with cc := [] } else s2
  if rel && acq && !cc then s3.rereadStreams w else s3

/-- The shape of opcode 0x19 (R274). In task mode a release of scope `clu` or wider has only its `core` effect (R233). -/
def fenceOp (enc : Nat) (scope : Scope) (rel acq cc : Bool) (s : State) : Host.Outcome State Fault Refusal :=
  issue (useG enc [] [] []) s fun s t _ =>
    let w := s.cur
    let drains := t.openMode && ((rel && scope != .th) || cc)
    let s1 := if drains then s.drainAll w else s
    if (scopeWide scope && (acq || t.openMode)) || (cc && t.openMode) then .wait s1 (.release scope rel acq cc)
    else .done (s1.finishRelease w t scope rel acq cc)

/-- `FENCE` (R274). -/
def execFence (c : Scope) (s : State) : Host.Outcome State Fault Refusal := fenceOp (enc (.fence c)) c true true false s

/-- `ACQ` (R274). -/
def execAcq (c : Scope) (s : State) : Host.Outcome State Fault Refusal := fenceOp (enc (.acq c)) c false true false s

/-- `REL` (R274). -/
def execRel (c : Scope) (s : State) : Host.Outcome State Fault Refusal := fenceOp (enc (.rel c)) c true false false s

/-- `FENCE_C` (R258, R274). -/
def execFenceC (c : Scope) (s : State) : Host.Outcome State Fault Refusal := fenceOp (enc (.fenceC c)) c (scopeWide c) (scopeWide c) true s

/-- Whether a waiting release, acquire or fence completes in this cycle. -/
def State.releaseDue (s : State) (w : Who) (t : Thread) (scope : Scope) (rel acq : Bool) (since : Nat) : Bool :=
  decide (since + (if rel && t.openMode then scopeLat scope else 0) + (if acq then scopeLat scope else 0) ≤ s.cycle + 1)
    && (!t.openMode || !rel || s.released w t scope)

/-! Pinning. -/

/-- The line that a pinning form names (R275): a local address raises LOCAL_BOUND, and a translation fault is a load's.
Log 11 (DESIGN CHOICE, unsafe). -/
def State.pinAddr (s : State) (w : Who) (t : Thread) (va : Dword) : Except Res Access := s.atomAddr w t (lineVa va) 128 false

/-- Lines that a space has pinned. -/
def Partition.pinned (p : Partition) (space : Nat) : Nat := smGetD p.pins space 0

/-- `LOCK_L` (R276): the status is 1 for a space at its quota or a slice at its limit. A line that is not resident in the L2 of its home is
fetched there first.
Log 105 (DESIGN CHOICE, safe). -/
def execLockL (d a : GReg) (s : State) : Host.Outcome State Fault Refusal :=
  issue (useG (enc (.lockL d a)) [d.toNat, a.toNat] [a.toNat] [d.toNat]) s fun s t rd =>
    match s.pinAddr s.cur t (rd a.toNat) with
    | .error r => r
    | .ok x =>
      let home := x.homeDie
      let slice := s.sliceFor s.cur.core home x
      let cls := lineClass x.pol x.line
      let key := 4096 * t.part + t.spc
      let l2 := (s.die home).l2
      let old := smGetD l2 x.line { slice, cls, use := 0, pins := [] }
      let p := s.part t.part
      let quota := 64 * (smGetD p.spaces t.spc { quota := 0, root := 0, valid := false }).quota
      let inSet := (((s.die home).l2Mates old.slice x.line).filter fun e => !e.2.pins.isEmpty).length
      let atQuota := decide (quota ≤ p.pinned t.spc)
      let atLimit := old.pins.isEmpty && decide (Config.l2HalfWays ≤ inSet)
      let s0 := s.l2Touch home slice x.line cls
      let s1 :=
        if atQuota || atLimit || old.pins.contains key then s0
        else (s0.modDie home fun h =>
            let l := smGetD h.l2 x.line old
            { h with l2 := smSet h.l2 x.line { l with pins := key :: l.pins } }).modPart t.part
          fun p => { p with pins := smSet p.pins t.spc (p.pinned t.spc + 1) }
      .wait (s1.afterFree (latDie (dieOf s.cur.core) home + s.missLat home x.line - 1) (.agentAnswer s.cur))
        (.answer [(d.toNat, if atQuota || atLimit then 1 else 0)])

/-- `UNLOCK_L` (R276). -/
def execUnlockL (a : GReg) (s : State) : Host.Outcome State Fault Refusal :=
  issue (useG (enc (.unlockL a)) [a.toNat] [a.toNat] []) s fun s t rd =>
    match s.pinAddr s.cur t (rd a.toNat) with
    | .error r => r
    | .ok x =>
      let key := 4096 * t.part + t.spc
      match smGet (s.die x.homeDie).l2 x.line with
      | some l =>
        if l.pins.contains key then
          .done ((s.modDie x.homeDie fun h =>
              { h with l2 := smSet h.l2 x.line { l with pins := l.pins.filter (· != key) } }).modPart t.part
            fun p => { p with pins := smSet p.pins t.spc (p.pinned t.spc - 1) })
        else .done s
      | none => .done s

end Sys2Proof.Machine
end

