-- ==== Sys2Proof/Machine/Engine.lean ====
section
/-!
DEFINITION. The three engines (R158 to R165, R253 to R256): queues, the access of a command to the local store and to
global memory, and what its begin, its work and its completion do (log 10).
-/
namespace Sys2Proof.Machine

/-- Changes an engine of a core. -/
def State.modUnit (s : State) (core : Nat) (k : Engine) (f : Unit3 → Unit3) : State :=
  s.modCore core fun c => c.setUnit k (f (c.unit k))

/-- An engine's number (R328). -/
def engineNum : Engine → Nat
  | .mx => 1
  | .vx => 2
  | .cp => 3

/-- Word i of a command (R87). -/
def Cmd.word (c : Cmd) (i : Nat) : Word := c.bits.extractLsb' (32 * i) 32
/-- Word 0 of a command, for `tval` (R160). -/
def Cmd.word0 (c : Cmd) : Dword := (c.word 0).zeroExtend 64
/-- Flag bit 16, S (R162). -/
def Cmd.waitsFull (c : Cmd) : Bool := c.bits.getLsbD 16

/-- Why the work of a command stops in a cycle: it fails with a cause (R160), it waits for something, or it has reached as many words as
it does in one cycle. -/
inductive Stop where
  | fail (cause : Nat)
  | hold (h : EngHold)
  | pause
  deriving DecidableEq, Repr

/-- Adds a word of the local store to spans of it. -/
def addWord (o : Nat) : List (Nat × Nat) → List (Nat × Nat)
  | [] => [(o, 4)]
  | (a, n) :: t =>
    if a ≤ o ∧ o < a + n then (a, n) :: t
    else if o = a + n then (a, n + 4) :: t
    else (o, 4) :: (a, n) :: t

/-- A command at work. Its work is written as one program, which is run again from its start in each cycle in which the command gets
further: what it has read before is read again from `past`, and the effects it has made before, `skip` of them, are not made again. So
each of its reads is made once, where its order of work comes to it (R162), and each of its effects once. -/
structure Eng where
  s : State
  c : Cmd
  core : Nat
  /-- what it read in earlier cycles and has not come to again; `none` is a part of the work that was done whole -/
  past : List (Option Nat)
  skip : Nat
  /-- what it has read so far, the latest first, and how many effects it has made -/
  log : List (Option Nat)
  acts : Nat
  /-- the words that it may still reach in this cycle; none: any number -/
  left : Option Nat
  /-- the cycle in which it began -/
  start : Nat
  /-- the lines of global memory it has written, the latency of its first global read, its flags, and whether a threshold-compare store
  found the block moved -/
  out : List (Access × LineWrite)
  lat : Option Nat
  flags : FlagSet
  moved : Bool
  /-- the spans of the local store that it has read or written, and those of its operands (R300) -/
  reach : List (Nat × Nat)
  areas : List (Nat × Nat)

/-- The work of a command. -/
abbrev EM := ExceptT Stop (StateM Eng)

/-- Fails with a cause unless a condition holds. -/
def demand (b : Bool) (cause : Nat) : EM Unit := if b then pure () else throw (.fail cause)

/-- Waits for something. -/
def waitFor {α : Type} (h : EngHold) : EM α := throw (.hold h)

/-- Reaches one more word in this cycle (R255). -/
def pace : EM Unit := do
  let e ← get
  match e.left with
  | none => pure ()
  | some 0 => throw .pause
  | some (n + 1) => set { e with left := some n }

/-- A read of the command: made once. -/
def look (m : EM Nat) : EM Nat := do
  let e ← get
  match e.past with
  | some v :: t =>
    set { e with past := t, log := some v :: e.log }
    pure v
  | _ =>
    let v ← m
    modify fun e => { e with log := some v :: e.log }
    pure v

/-- An effect of the command: made once. -/
def act (m : EM Unit) : EM Unit := do
  let e ← get
  if 0 < e.skip then set { e with skip := e.skip - 1, acts := e.acts + 1 }
  else
    m
    modify fun e => { e with acts := e.acts + 1 }

/-- A part of the work that, once it is done whole, is not gone through again. -/
def part (m : EM Unit) : EM Unit := do
  let e ← get
  match e.past with
  | none :: t => set { e with past := t, log := none :: e.log }
  | _ =>
    m
    modify fun x => { x with log := none :: e.log, acts := e.acts }

/-- A read that is made whole in one cycle. -/
def oneCycle (m : EM Nat) : EM Nat := look do
  let e ← get
  modify fun x => { x with left := none }
  let v ← tryCatch m fun st => do
    modify fun x => { x with log := e.log, left := e.left }
    throw st
  modify fun x => { x with log := e.log, left := e.left }
  pure v

/-- Adds flags (R161). -/
def addFlags (g : FlagSet) : EM Unit := modify fun e => { e with flags := e.flags ||| g }

/-- Takes a result and adds its flags. -/
def flagged (r : Nat × FlagSet) : EM Nat := do
  addFlags r.2
  pure r.1

/-- The core that the command runs on. -/
def theCore : EM Core := do
  let e ← get
  pure (e.s.core e.core)

/-- Changes the core. -/
def onCore (f : Core → Core) : EM Unit := act (modify fun e => { e with s := e.s.modCore e.core f })

/-- The command. -/
def theCmd : EM Cmd := do pure (← get).c

/-- Notes a span of the local store that an operand covers (R300). -/
def noteArea (off n : Nat) : EM Unit := modify fun e => { e with areas := (off, n) :: e.areas }

/-- Notes that a word of the local store is read or written (R300). -/
def noteWord (off : Nat) : EM Unit := modify fun e => { e with reach := addWord (off / 4 * 4) e.reach }

/-- Checks that a local range lies in the local store (R160). -/
def inStore (off n : Nat) : EM Unit := do
  noteArea off n
  demand (decide (off + n ≤ Config.localBytes)) cLocalBound

/-- Reads n bytes of one word of the local store (R162): under S the word must be full; a poisoned one fails the command (R397). -/
def ldWord (off n : Nat) : EM Nat := look do
  pace
  noteWord off
  let c ← theCore
  match c.poisoned off n with
  | some cause => throw (.fail cause)
  | none =>
    if (← theCmd).waitsFull && !c.isFull (off / 4) then waitFor (.word (off / 4 * 4))
    else pure (c.lread off n)

/-- Reads n bytes of the local store, n 1, 2 or a multiple of 4, at an aligned offset, word by word. -/
def ldLocal (off n : Nat) : EM Nat :=
  if n ≤ 4 then ldWord off n
  else do
    let l ← (List.range (n / 4)).mapM fun i => ldWord (off + 4 * i) 4
    pure (l.foldr (fun x v => x + 2 ^ 32 * v) 0)

/-- Writes n bytes of one word of the local store, in a cycle of its own, and sets the word full (R162, R255). -/
def stWord (off n v : Nat) : EM Unit := act do
  pace
  noteWord off
  modify fun e => { e with s := e.s.modCore e.core fun c => c.engineWrite off n v }

/-- Writes n bytes of the local store, word by word. -/
def stLocal (off n v : Nat) : EM Unit :=
  if n ≤ 4 then stWord off n v
  else do
    for i in List.range (n / 4) do stWord (off + 4 * i) 4 (v / 2 ^ (32 * i) % 2 ^ 32)

/-- Translates a global operand (R163): a page fault, the local region and the control range fail the command (R160, R237). -/
def engXlate (va : Dword) (n : Nat) (store : Bool) : EM Access := do
  let e ← get
  if Config.lb ≤ va.toNat then throw (.fail cEnginePageFault)
  else match e.s.xlateNow e.core e.c.part e.c.space va n store (e.c.level == .u) e.c.pol with
    | .ok a => pure a
    | _ => throw (.fail cEnginePageFault)

/-- The line that an engine sees (R253): the die's, under the core's lines on their way, the task's speculative bytes and what
the command itself has written. -/
def Eng.line (e : Eng) (a : Access) : LineData :=
  let d := e.s.overFlights e.core a.line (e.s.dieValue (dieOf e.core) a.homeDie a.line)
  let d1 :=
    if e.c.taskMode then
      match (e.s.core e.core).spec.find? fun x => x.gid == e.c.gid && x.lw.line == a.line with
      | some x => overlay d x.lw.data x.lw.mask
      | none => d
    else d
  match e.out.find? fun x => x.2.line == a.line with
  | some x => overlay d1 x.2.data x.2.mask
  | none => d1

/-- Reads n bytes of global memory that lie in one line (R163): a task's read joins its signature, and a line that a commit, a secure
task or an ordered round holds back is waited for (R202, R224, R227). -/
def ldGlobal (va : Dword) (n : Nat) : EM Nat := look do
  pace
  let a ← engXlate va n false
  let e ← get
  match smGet e.s.poison a.line with
  | some cause => throw (.fail cause)
  | none =>
    if e.s.readHeld (dieOf e.core) a (some (e.core, e.c.gid)) then waitFor (.line a.homeDie a.line)
    else
      let s1 := if e.c.taskMode then e.s.modGroup e.core e.c.gid fun g => { g with rsig := sigAdd g.rsig a.line } else e.s
      set { e with s := s1, lat := some (e.lat.getD (e.s.readLat e.core a)) }
      pure (lineNat (e.line a) (a.pa % 128) n)

/-- Puts a line in a list of writes, over what the list already holds of it. -/
def addOut (a : Access) (lw : LineWrite) : List (Access × LineWrite) → List (Access × LineWrite)
  | [] => [(a, lw)]
  | x :: t => if x.2.line = lw.line then (x.1, mergeWrites x.2 lw) :: t else x :: addOut a lw t

/-- Writes n bytes of global memory that lie in one line (R163); they leave as the command ends its work. -/
def stGlobal (va : Dword) (n v : Nat) : EM Unit := act do
  let a ← engXlate va n true
  modify fun e => { e with out := addOut a (lineWriteOf a.pa n v) e.out }

/-- Sends the lines that a command has written (R163): as direct writes in open mode, as speculative lines of the task in task
mode, which write through to their homes where a secure, unbounded task finds no place (R228); with what it waits for, if a line finds
no place, and whether the task becomes unbounded. -/
def sendOut (w : Who) (k : Engine) (c : Cmd) : State → List (Access × LineWrite) → State × Option (EngHold × Bool)
  | s, [] => (s, none)
  | s, (a, lw) :: t =>
    if c.taskMode then
      match s.group w.core c.gid with
      | none => (s, none)
      | some g =>
        let core := s.core w.core
        let join := fun s : State => s.modGroup w.core c.gid fun g => { g with wsig := sigAdd g.wsig lw.line }
        if g.unbounded && !g.secure then (s, some (.place lw.line, false))
        else match core.specPut c.gid lw a with
          | some core' => sendOut w k c (join (s.setCore w.core core')) t
          | none =>
            if g.unbounded then sendOut w k c (join (s.setCore w.core (core.specThrough c.gid lw a))) t
            else (s, some (.place lw.line, core.specOwnOnly c.gid lw.line))
    else sendOut w k c (s.sendLine { w with slot := w.slot + 128 * engineNum k } lw a (.engine w)) t

/-- What a command's global writes add to its time (R165). -/
def outTime (core : Nat) (c : Cmd) (s : State) (out : List (Access × LineWrite)) : Nat :=
  match out.getLast? with
  | none => 0
  | some (a, _) =>
    if c.taskMode then 8
    else if (s.copySlice core a).isSome then Config.latL2 else latDie (dieOf core) a.homeDie

/-- A command as its work begins or goes on: the words it reaches in this cycle are given. -/
def Running.eng (r : Running) (s : State) (core : Nat) (left : Option Nat) : Eng :=
  { s, c := r.cmd, core, past := r.log, skip := r.acts, log := [], acts := 0, left, start := r.since, out := r.out, lat := r.lat, flags := r.flags,
    moved := r.moved, reach := r.reach, areas := [] }

/-- A command after its work of a cycle: it goes on from there. -/
def Running.after (r : Running) (e : Eng) (hold : EngHold) : Running :=
  { r with
    hold, log := e.log.reverse, acts := e.acts, out := e.out, lat := e.lat, flags := e.flags, moved := e.moved, reach := e.reach,
    areas := e.areas }

/-- Keeps a command in its execution position, to go on later.
Log 111 (DEDUCED, unsafe). -/
def State.holdCmd (s : State) (core : Nat) (k : Engine) (r : Running) : State :=
  s.modUnit core k fun u => { u with exec := some r }

/-- Ends the work of a command: its global writes leave, and its completion is on its way, as many cycles after its begin as R165 and
R280 give. A write that finds no place holds the command (R228).
Log 10 (DESIGN CHOICE, unsafe). -/
def State.beginDone (s : State) (w : Who) (k : Engine) (r : Running) (e : Eng) (err : Option Nat) (time : Nat) : State :=
  match sendOut w k r.cmd e.s e.out with
  | (_, some (h, mark)) =>
    (if mark then e.s.modGroup w.core r.cmd.gid fun g => { g with unbounded := true } else e.s).holdCmd w.core k (r.after e h)
  | (s1, none) =>
    let r' : Running :=
      { r with begun := true, err, moved := e.moved, flags := e.flags, hold := .free, log := [], acts := 0, out := [], lat := none,
               lines := e.out.map (fun x => x.2.line), reach := e.reach, areas := e.areas }
    let s2 := s1.holdCmd w.core k r'
    if r'.remote then s2
    else
      let due := r.since + (time + (e.lat.getD 0) + outTime w.core r.cmd s e.out)
      s2.after (Nat.max 1 (due - s.cycle)) (.commandCompletion w.core k)

/-- A free number of words that a command reaches in one cycle, or all that it has left: the spec does not say in which cycle each word
is read or written (R254, R255).
Log 10 (DESIGN CHOICE, unsafe). -/
def State.drawPace (s : State) : Option Nat :=
  if Config.choice s.fresh then none else some (Config.pick s.fresh % 64 + 1)

/-- A command as it comes to the execution position (R158): it begins in the next cycle. -/
def State.newRunning (s : State) (c : Cmd) : Running :=
  { cmd := c, started := false, begun := false, since := s.cycle, next := s.cycle + 1, pace := s.drawPace, err := none, moved := false,
    flags := 0, hold := .free, log := [], acts := 0, out := [], lat := none, lines := [], remote := false, reach := [], areas := [] }

/-- A command that begins now, or goes on (R158). -/
def Running.start (r : Running) (now : Nat) : Running :=
  if r.started then { r with hold := .free } else { r with started := true, since := now, hold := .free }

/-- The words that a command reaches in this cycle: its pace, but all that it has left where they are due (R165).
Log 10 (DESIGN CHOICE, unsafe). -/
def Running.room (r : Running) (s : State) (core : Nat) (work : EM Nat) : Option Nat :=
  match r.pace with
  | none => none
  | some n =>
    match StateT.run (ExceptT.run work) (r.eng s core none) with
    | (.ok time, e) => if s.cycle + 1 < r.since + (time + e.lat.getD 0) then some n else none
    | _ => some n

/-- The begin of the command in an engine's execution position, and each later cycle in which it gets further (R158): its work is
done, waits, or fails with what it has done so far kept. `remote` tells that its completion waits for another device.
Log 10 (DESIGN CHOICE, unsafe). -/
def runCommand (k : Engine) (remote : Bool) (s : State) (work : EM Nat) : Host.Outcome State Fault Refusal :=
  match ((s.core s.cur.core).unit k).exec with
  | none => .next s
  | some r0 =>
    if r0.begun then .next s
    else
      let w := r0.cmd.w
      let r := { r0 with remote }.start s.cycle
      match StateT.run (ExceptT.run work) (r.eng s w.core (r.room s w.core work)) with
      | (.ok time, e) => .next (s.beginDone w k r e none time)
      | (.error (.fail cause), e) => .next (s.beginDone w k { r with remote := false } e (some cause) 0)
      | (.error .pause, e) =>
        let s1 := { e.s with fresh := e.s.fresh + 1 }
        .next (s1.holdCmd w.core k { r.after e .free with next := s.cycle + 1, pace := e.s.drawPace })
      | (.error (.hold h), e) =>
        let s1 := e.s.holdCmd w.core k (r.after e h)
        .next (match h with
          | .row pos => s1.pend w cPtbMiss (BitVec.ofNat 64 pos)
          | _ => s1)

/-- Whether a thread, or the successor in its slot, still waits to hear of a command (R160, R304). -/
def State.hears (s : State) (w : Who) (k : Engine) (seq : Nat) : Bool :=
  match s.thread w with
  | some t => (t.reports k).any fun r => r.seq == seq
  | none => false

/-- A command of a thread has its completion word. -/
def State.reportCmd (s : State) (w : Who) (k : Engine) (seq : Nat) (v : Word) (lines : List Nat) : State :=
  if s.hears w k seq then
    (s.modThread w fun t => t.setReports k (reportDone seq v lines (t.reports k))).setEvent w
  else s

/-- Takes the oldest report of an engine (R330), as an acquire of its effects (R256). -/
def State.takeReport (s : State) (w : Who) (k : Engine) (r : Report) : State :=
  (s.modThread w fun t => t.setReports k ((t.reports k).drop 1)).modCore w.core fun c => c.dropLines fun l => r.lines.contains l

/-- Completes an `eng.wait` whose oldest report has come. -/
def State.wakeEngine (s : State) (w : Who) (k : Engine) : State :=
  match s.waitOf w, s.thread w with
  | some (.engine k' d), some t =>
    if k' = k then
      match t.reports k with
      | r :: _ =>
        (match r.done with
        | some v => (s.takeReport w k r).complete w [(d, v.zeroExtend 64)]
        | none => s)
      | [] => s
    else s
  | _, _ => s

/-- Whether two commands are of one thread (R160): of one slot and group, and both or neither of a thread that is still there. -/
def State.sameThread (s : State) (k : Engine) (a b : Cmd) : Bool :=
  a.w == b.w && a.gid == b.gid && s.hears a.w k a.seq == s.hears b.w k b.seq

/-- Discards the commands of a failed command's thread that have not begun (R160): they complete with status 2, and a push that waits
outside the queue completes. -/
def State.discardCmds (s : State) (k : Engine) (r : Cmd) : State :=
  let w := r.w
  let u := (s.core w.core).unit k
  let gone := (u.queue ++ u.outside).filter (s.sameThread k r)
  let s1 := s.modUnit w.core k fun u =>
    { u with queue := u.queue.filter fun c => !s.sameThread k r c, outside := u.outside.filter fun c => !s.sameThread k r c }
  let s2 := gone.foldl (fun s c => s.reportCmd w k c.seq (completionWord c.tag 2 false) []) s1
  match s2.waitOf w with
  | some (.queue k') => if k' = k && gone.any (fun c => u.outside.any (·.seq == c.seq)) then s2.complete w [] else s2
  | _ => s2

/-- The first waiting command enters a queue that has room, and its push completes (R158). -/
def State.enterQueue (s : State) (core : Nat) (k : Engine) : State :=
  let u := (s.core core).unit k
  match u.outside with
  | c :: rest =>
    if u.queue.length < 2 then
      let s1 := s.modUnit core k fun u => { u with queue := u.queue ++ [c], outside := rest }
      if s1.waitOf c.w = some (.queue k) then s1.complete c.w [] else s1
    else s
  | [] => s

/-- `QUEUE_ENTRY` (R158). -/
def execQueueEntry (core : Nat) (e : Engine) (s : State) : Host.Outcome State Fault Refusal := .next (s.enterQueue core e)

/-- What the completion of a command gives the thread that hears of it (R159 to R161, R256). -/
def State.deliverCmd (s : State) (w : Who) (k : Engine) (r : Running) (v : Word) : State :=
  let s1 := (s.reportCmd w k r.cmd.seq v r.lines).accrueNow w r.flags
  let s2 := if r.cmd.taskMode then s1 else s1.modThread w fun t => { t with dirty := r.lines.foldl sigAdd t.dirty }
  match r.err with
  | some cause => s2.pend w cause r.cmd.word0
  | none =>
    match trapOf r.flags ((s2.thread w).map (·.fen) |>.getD 0) with
    | some cause => s2.pend w cause 0
    | none => s2

/-- A command completes (R159 to R161): the execution position is free; a failed one discards the thread's commands behind it,
and its cause is detached when nobody hears of it. -/
def State.completeCmd (s : State) (core : Nat) (k : Engine) (r : Running) : State :=
  let w := r.cmd.w
  let v := completionWord r.cmd.tag (if r.err.isSome then 1 else 0) r.moved
  let s1 := s.modUnit core k fun u => { u with exec := none }
  let s2 :=
    if s1.hears w k r.cmd.seq then s1.deliverCmd w k r v
    else match r.err with
      | some cause => s1.detach core cause r.cmd.word0 none
      | none => s1
  let s3 := if r.err.isSome then s2.discardCmds k r.cmd else s2
  s3.wakeEngine w k

/-- `COMMAND_COMPLETION` (R159): one that has written global memory in open mode completes only when every line is acknowledged
(R256). -/
def execCommandCompletion (core : Nat) (e : Engine) (s : State) : Host.Outcome State Fault Refusal :=
  match ((s.core core).unit e).exec with
  | none => .next s
  | some r =>
    if !r.begun || r.remote then .next s
    else if (s.core core).flights.any fun f => f.w.slot == r.cmd.w.slot + 128 * engineNum e then
      .next (s.after 1 (.commandCompletion core e))
    else .next (s.completeCmd core e r)

/-- The head of a queue takes the free execution position, and begins in the next cycle (R158); while a `tcfg.set` drains the
matrix engine, the commands pushed after it wait (R169). -/
def State.engineNext (s : State) (core : Nat) (k : Engine) : State :=
  let c := s.core core
  let u := c.unit k
  match u.exec, u.queue with
  | none, x :: rest =>
    let stopped := c.threads.any fun p =>
      match p.2.run with
      | .waiting (.tcfg _ _ n) _ => k == .mx && decide (n ≤ x.seq)
      | _ => false
    if stopped then s
    else ({ s with fresh := s.fresh + 1 } : State).modUnit core k fun u => { u with queue := rest, exec := some (s.newRunning x) }
  | _, _ => s

/-! The instructions of opcodes 0x28 and 0x29. -/

/-- CheckWord0 (R89). -/
def word0Ok (k : Engine) (c : BitVec 256) : Bool :=
  let op := (c.extractLsb' 20 8).toNat
  (c.extractLsb' 28 4).toNat == engineNum k
    && decide (op < match k with | .mx => 7 | .vx => 10 | .cp => 9)

/-- Enqueues a command (R158, R161, R163, R253, R329): it takes what it needs of the thread as the push issues. -/
def pushCmd (s : State) (w : Who) (t : Thread) (k : Engine) (bits : BitVec 256) : Res :=
  if !word0Ok k bits then .trap cCmdMalformed ((bits.extractLsb' 0 32).zeroExtend 64)
  else
    let s1 := if t.openMode then s.drainAll w else s
    let u := (s1.core w.core).unit k
    let g := s1.group w.core t.gid
    let c : Cmd :=
      { seq := u.pushed, bits, w, gid := t.gid, taskMode := !t.openMode && g.isSome, rm := t.frm, fmtWord := t.fmtWord, fmtRest := t.fmtRest,
        space := t.spc, level := t.level, part := t.part, pol := t.mpol,
        claim := (g.map (·.claim)).getD false, cfg := (g.map (·.cfg)).getD 0 }
    let room := decide (u.queue.length < 2) && u.outside.isEmpty
    let s2 := s1.modUnit w.core k fun u =>
      if room then { u with queue := u.queue ++ [c], pushed := u.pushed + 1 }
      else { u with outside := u.outside ++ [c], pushed := u.pushed + 1 }
    let s3 := s2.modThread w fun t => t.setReports k (t.reports k ++ [{ seq := u.pushed, done := none, lines := [] }])
    if room then .done s3 else .wait s3 (.queue k)

/-- `PUSH` (R328, R329). -/
def execPush (w : Reg4) (h : Bool) (e : Engine) (s : State) : Host.Outcome State Fault Refusal :=
  issue (useW (enc (.push w h e)) [] [w.toNat] [] []) s fun s t _ =>
    pushCmd s s.cur t e ((s.readW s.cur t w.toNat).extractLsb' (if h then 256 else 0) 256)

/-- Whether a command names a tile (R55): `mx.mma`, `mx.ldt`, `mx.stt`, `mx.zero` and `mx.pv`. -/
def namesTile (c : BitVec 256) : Bool :=
  let op := (c.extractLsb' 20 8).toNat
  (c.extractLsb' 28 4).toNat == 1 && op != 1 && op != 5

/-- `PUSHM` (R328, R329): the command is read as a load of 32 bytes; a control thread may push none that names a tile (R55, R86). -/
def execPushm (e : Engine) (a : GReg) (i : BitVec 8) (s : State) : Host.Outcome State Fault Refusal :=
  issue (useG (enc (.pushm e a i)) [a.toNat] [a.toNat] []) s fun s t rd =>
    let va := rd a.toNat + BitVec.ofInt 64 (i.toInt * 32)
    if va.toNat % 32 ≠ 0 then .trap cMisaligned va
    else match s.gather s.cur t va 32 1 with
      | .error r => r
      | .ok (s1, l) =>
        let c := BitVec.ofNat 256 (leNat l)
        if word0Ok e c && namesTile c && !t.compute then .trap cNoWideState (bitsOf (.pushm e a i)) else pushCmd s1 s1.cur t e c

/-- `ENG_WAIT` (R330). -/
def execEngWait (e : Engine) (d : GReg) (s : State) : Host.Outcome State Fault Refusal :=
  issue (useG (enc (.engWait e d)) [d.toNat] [] [d.toNat]) s fun s t _ =>
    match t.reports e with
    | [] => .done (s.writeG s.cur d.toNat 0x8000000000000000)
    | r :: _ =>
      match r.done with
      | some v => .done ((s.takeReport s.cur e r).writeG s.cur d.toNat (v.zeroExtend 64))
      | none => .wait s (.engine e d.toNat)

/-- `ENG_POLL` (R330). -/
def execEngPoll (e : Engine) (d : GReg) (s : State) : Host.Outcome State Fault Refusal :=
  issue (useG (enc (.engPoll e d)) [d.toNat] [] [d.toNat]) s fun s t _ =>
    match t.reports e with
    | [] => .done (s.writeG s.cur d.toNat 0x8000000000000000)
    | r :: _ =>
      match r.done with
      | some v => .done ((s.takeReport s.cur e r).writeG s.cur d.toNat (v.zeroExtend 64))
      | none => .done (s.writeG s.cur d.toNat 0x8000000000000001)

/-- The value that a tile configuration slot holds after reset (R166). -/
def tcfgReset : Dword := 0x000A23FF

/-- A tile configuration slot (R166). -/
def Core.tileCfg (c : Core) (n : Nat) : Dword := smGetD c.tcfg n tcfgReset

/-- Fields of a slot (R166). -/
def cfgRows (v : Dword) : Nat := (v.extractLsb' 0 5).toNat + 1
def cfgCols (v : Dword) : Nat := (v.extractLsb' 5 5).toNat + 1
def cfgA (v : Dword) : Nat := (v.extractLsb' 10 4).toNat
def cfgB (v : Dword) : Nat := (v.extractLsb' 14 4).toNat
def cfgInt (v : Dword) : Bool := v.getLsbD 18
def cfgClaim (v : Dword) : Bool := v.getLsbD 19

/-- Whether a slot value is valid (R167): type codes of R82 are i8 0, z8 4, f16 8, bf16 9, e8m10 11, c8 12, i4 13, z4 14. -/
def cfgValid (v : Dword) : Bool :=
  let fp := fun x : Nat => x == 8 || x == 9 || x == 11 || x == 12
  let int := fun x : Nat => x == 0 || x == 4 || x == 13 || x == 14
  v.extractLsb' 20 44 == 0#44
    && (if cfgInt v then int (cfgA v) && int (cfgB v) else fp (cfgA v) && fp (cfgB v))

/-- Whether a group holds the tiles (R168): until its last thread retires, and for the tiles that its successor inherits. -/
def Group.holdsTiles (g : Group) : Bool :=
  g.claim && (g.phase == .fetch || g.phase == .running
    || (match g.succ with
      | some (_, m) => m.extractLsb' 8 8 != 0#8
      | none => false))

/-- The group whose live claim holds the tiles, and its slot (R168, R169). -/
def Core.claimer (c : Core) : Option (Nat × Nat) := (c.groups.find? fun p => p.2.holdsTiles).map fun p => (p.1, p.2.cfg)

/-- Writes a slot, and zeroes the tiles first if it is the active one (R169). -/
def Core.setCfg (c : Core) (n : Nat) (v : Dword) (clear : Bool) : Core :=
  { c with tcfg := if v = tcfgReset then smDel c.tcfg n else smSet c.tcfg n v, tiles := if clear then [] else c.tiles }

/-- Whether an engine has completed every command pushed before a number (R169, R333). -/
def Unit3.doneBefore (u : Unit3) (n : Nat) : Bool := u.all.all fun c => decide (n ≤ c.seq)

/-- `TCFG_SET` (R331, R332, R169). -/
def execTcfgSet (a : GReg) (n : BitVec 4) (s : State) : Host.Outcome State Fault Refusal :=
  issue (useG (enc (.tcfgSet a n)) [a.toNat] [a.toNat] []) s fun s t rd =>
    let v := rd a.toNat
    let me := s.cur
    let c := s.core me.core
    if !cfgValid v then .trap cTileCfg v
    else match c.claimer with
      | some (gid, cfg) =>
        if cfg = n.toNat then
          if t.gid ≠ gid then .trap cTileCfg (n.zeroExtend 64)
          else if c.mx.doneBefore c.mx.pushed then .done (s.modCore me.core fun c => c.setCfg n.toNat v true)
          else .wait s (.tcfg n.toNat v c.mx.pushed)
        else .done (s.modCore me.core fun c => c.setCfg n.toNat v false)
      | none => .done (s.modCore me.core fun c => c.setCfg n.toNat v false)

/-- `TCFG_GET` (R331, R332). -/
def execTcfgGet (d : GReg) (n : BitVec 4) (s : State) : Host.Outcome State Fault Refusal :=
  issue (useG (enc (.tcfgGet d n)) [d.toNat] [] [d.toNat]) s fun s _ _ =>
    .done (s.writeG s.cur d.toNat ((s.core s.cur.core).tileCfg n.toNat))

/-- An accord table's 256 entries from its bytes (R98). -/
def accordOf (l : List Byte) : List Nat := (List.range 256).map fun i => leNat ((l.drop (4 * i)).take 4)

/-- The first entry of an accord table that fails the checks of R98; −0 precedes +0. -/
def accordBad (l : List Nat) : Option Nat :=
  let v := fun i => fmtE8.decode (l.getD i 0 % 2 ^ 19)
  let fin := fun x : FVal => match x with | .nan _ => false | .inf _ => false | _ => true
  let down := fun x y : FVal => match x, y with | .zero a, .zero b => !a && b | _, _ => decide (0 < cmpVal x y)
  (List.range 256).find? fun i =>
    if i < 254 then !fin (v i) || (0 < i && down (v (i - 1)) (v i))
    else if i = 254 then !(v i).isNan
    else fin (v i)

/-- Checks and writes a table slot (R98, R333): the core after it, or the first failing entry. -/
def Core.setAccord (c : Core) (t : Nat) (l : List Byte) : Except Nat Core :=
  let xs := accordOf l
  match accordBad xs with
  | some i => .error i
  | none =>
    .ok { c with accord := (List.range 256).foldl (fun m i => smSet m (256 * t + i) (BitVec.ofNat 32 (xs.getD i 0))) c.accord }

/-- Ends an `acc.load` whose engines have drained (R333). -/
def accordEnd (s : State) (w : Who) (t : Nat) (l : List Byte) : Res :=
  match (s.core w.core).setAccord t l with
  | .error i => .trap cAccordOrder (BitVec.ofNat 64 i)
  | .ok c => .done (s.setCore w.core c)

/-- `ACC_LOAD` (R331, R333). -/
def execAccLoad (a : GReg) (t : BitVec 2) (s : State) : Host.Outcome State Fault Refusal :=
  issue (useG (enc (.accLoad a t)) [a.toNat] [a.toNat] []) s fun s th rd =>
    let va := rd a.toNat
    if va.toNat % 64 ≠ 0 then .trap cMisaligned va
    else match s.gather s.cur th va 64 16 with
      | .error r => r
      | .ok (s1, l) =>
        let c := s1.core s1.cur.core
        if c.mx.doneBefore c.mx.pushed && c.vx.doneBefore c.vx.pushed then accordEnd s1 s1.cur t.toNat l
        else .wait s1 (.accord t.toNat l c.mx.pushed c.vx.pushed)

/-- Completes a waiting `tcfg.set` or `acc.load` once the engines have drained (R169, R333). -/
def State.engineDrained (s : State) (w : Who) : State :=
  let c := s.core w.core
  match s.waitOf w with
  | some (.tcfg n v mx) =>
    if c.mx.doneBefore mx then (s.modCore w.core fun c => c.setCfg n v true).complete w [] else s
  | some (.accord t l mx vx) =>
    if c.mx.doneBefore mx && c.vx.doneBefore vx then
      match s.thread w with
      | none => s
      | some th =>
        match c.setAccord t l with
        | .error i => s.takeTrap w cAccordOrder (BitVec.ofNat 64 i) th.pc
        | .ok c' => (s.setCore w.core c').complete w []
    else s
  | _ => s

end Sys2Proof.Machine
end

