-- ==== Sys2Proof/Machine/Matrix.lean ====
section
/-!
DEFINITION. The commands of the matrix engine (R166 to R182): tiles, the weight buffer and its B blocks, the multiply-accumulate
of R103, threshold-compare stores (R108, R176) and attention (R178 to R182).
-/
namespace Sys2Proof.Machine

/-- An element of a tile (R168). -/
def Core.tile (c : Core) (j r n : Nat) : Nat := (smGetD c.tiles (1024 * j + 32 * r + n) 0).toNat
/-- Reads an element of a tile. -/
def ldTile (j r n : Nat) : EM Nat := look do pure ((← theCore).tile j r n)
/-- Writes an element of a tile. -/
def Core.setTile (c : Core) (j r n v : Nat) : Core :=
  let k := 1024 * j + 32 * r + n
  { c with tiles := if v % 2 ^ 32 = 0 then smDel c.tiles k else smSet c.tiles k (BitVec.ofNat 32 v) }
/-- n bytes of the weight buffer. -/
def Core.wbytes (c : Core) (o n : Nat) : Nat := leNat ((List.range n).map fun i => smGetD c.wbuf (o + i) 0)
/-- Writes bytes of the weight buffer. -/
def Core.setWbytes (c : Core) (o : Nat) (l : List Byte) : Core :=
  let put := fun (m : SMap Byte) (i : Nat) => if l.getD i 0 = 0 then smDel m (o + i) else smSet m (o + i) (l.getD i 0)
  { c with wbuf := (List.range l.length).foldl put c.wbuf }

/-- The configuration that a tile command works under: a group without a claim has none (R160, R168). -/
def tileCfg : EM Dword := do
  let k ← theCmd
  demand k.claim cTileCfg
  pure ((← theCore).tileCfg k.cfg)

/-- The lane type of a configured operand (R167). -/
def cfgLane (code : Nat) : LaneT := (laneOf (BitVec.ofNat 4 code)).getD .f16

/-- Bytes of a row of n elements of a type; two 4-bit elements share a byte. -/
def rowBytes (t : LaneT) (n : Nat) : Nat := (t.width * n + 7) / 8

/-- Bytes of an element, for alignment (R160). -/
def elemBytes (t : LaneT) : Nat := Nat.max 1 (t.width / 8)

/-- Element i of a row of the local store that begins at an offset; the even one of two nibbles lies low (R175). -/
def ldElem (t : LaneT) (off i : Nat) : EM Nat := do
  if t.width = 4 then
    let b ← ldLocal (off + i / 2) 1
    pure (b / 2 ^ (4 * (i % 2)) % 16)
  else ldLocal (off + i * (t.width / 8)) (t.width / 8)

/-! The arithmetic of R103. -/

/-- The exact sum of a chunk's products: NV for a NaN, for ∞ × 0 and for infinities of both signs.
Log 9 (DEDUCED, unsafe). -/
def chunkSum (l : List (FVal × FVal)) : FVal × FlagSet :=
  let ps := l.map fun p => (mulVal p.1 p.2).1
  if ps.any FVal.isNan then (.nan false, fNV)
  else
    let isInf := fun n : Bool => ps.any fun p => p == .inf n
    if isInf true && isInf false then (.nan false, fNV)
    else if isInf true then (.inf true, 0)
    else if isInf false then (.inf false, 0)
    else match ps with
      | [] => (.zero false, 0)
      | p :: t => (t.foldl (addExact 0) p, 0)

/-- Flushes a subnormal accumulator to zero (R103). -/
def flush32 (r : Nat × FlagSet) : Nat × FlagSet :=
  let m := r.1 % 2 ^ 31
  if m ≠ 0 ∧ m < 2 ^ 23 then (r.1 / 2 ^ 31 * 2 ^ 31, r.2 ||| fUF ||| fNX) else r

/-- One chunk added to an accumulator with one rounding.
Log 9 (DEDUCED, unsafe). -/
def accumulate (acc : Nat) (l : List (FVal × FVal)) : Nat × FlagSet :=
  let (x, g) := chunkSum l
  let (n, h) := flush32 (fmt32.finish 0 (addVal 0 (fmt32.decode acc) x))
  (n, h ||| g)

/-- A value times an E8M0 scale (R102). -/
def FVal.scale (v : FVal) (b : Nat) : FVal :=
  if b = 255 then .nan false
  else match v with
    | .fin n m e => .fin n m (e + (b : Int) - 127)
    | v => v

/-! B blocks. -/

/-- Bytes of the body of a block of a kind (R171). -/
def bodyBytes (kind : Nat) (t : LaneT) : Nat :=
  match kind with
  | 0 => rowBytes t 1024
  | 1 => 128 + rowBytes t 512
  | 2 => 576
  | _ => 448

/-- Nibble q from a byte offset (R171). -/
def Core.wnib (c : Core) (o q : Nat) : Nat := c.wbytes (o + q / 2) 1 / 2 ^ (4 * (q % 2)) % 16

/-- The metadata of a block of a 2:4 kind (R171). -/
def metaAt (kind o : Nat) : Nat := if kind = 1 then o + 64 else o + 128

/-- The checks of a block as a command begins (R170, R172): none when it is good. R170 says that bytes 4 to 31 of the header must be zero,
and R172 does not list what nonzero ones do: they fail the command as a reserved bit of the control word does.
Log 117 (DESIGN CHOICE, unsafe). -/
def Core.blockBad (c : Core) (o : Nat) (t : LaneT) (int : Bool) : Bool :=
  if Config.weightBytes < o + 64 then true
  else
    let ctl := c.wbytes o 4
    let kind := ctl % 4
    decide (8 ≤ ctl) || decide (c.wbytes (o + 4) 28 ≠ 0) || (int && ctl / 4 % 2 == 1)
      || decide (Config.weightBytes < o + 64 + bodyBytes kind t)
      || ((kind == 1 || kind == 3) && (List.range 256).any fun q =>
          let b := c.wnib (metaAt kind o) q
          decide (b / 4 ≤ b % 4))

/-- The index in a 2:4 body of the value at (k, n), if it has one (R171). -/
def Core.pairIndex (c : Core) (m k n : Nat) : Option Nat :=
  let b := c.wnib m (32 * (k / 4) + n)
  if k % 4 = b % 4 then some (2 * (32 * (k / 4) + n))
  else if k % 4 = b / 4 then some (2 * (32 * (k / 4) + n) + 1)
  else none

/-- Element i of a body of a type. -/
def Core.wElem (c : Core) (t : LaneT) (o i : Nat) : Nat :=
  if t.width = 4 then c.wnib o i else c.wbytes (o + i * (t.width / 8)) (t.width / 8)

/-- An entry of a block's dictionary (R171). -/
def Core.dictVal (c : Core) (o i : Nat) : FVal := fmtE8.decode (c.wbytes (o + 64 + 4 * i) 4 % 2 ^ 19)

/-- The value at (k, n) of a block of an FP configuration, scaled (R171, R172). -/
def Core.blockVal (c : Core) (o : Nat) (t : LaneT) (bt k n : Nat) : FVal :=
  let ctl := c.wbytes o 4
  let kind := ctl % 4
  let val := fun x : Nat => if t = .c8 then c.decodeC8 bt x else t.value x
  let v := match kind with
    | 0 => val (c.wElem t (o + 64) (32 * k + n))
    | 1 => (match c.pairIndex (metaAt 1 o) k n with
      | some i => val (c.wElem t (o + 192) i)
      | none => .zero false)
    | 2 => c.dictVal o (c.wnib (o + 128) (32 * k + n))
    | _ => (match c.pairIndex (metaAt 3 o) k n with
      | some i => c.dictVal o (c.wnib (o + 256) i)
      | none => .zero false)
  if ctl / 4 % 2 = 1 then v.scale (c.wbytes (o + 32 + n) 1) else v

/-- A number that tells a value from every other. -/
def FVal.code : FVal → Nat × Nat × Int
  | .zero n => (n.toNat, 0, 0)
  | .fin n m e => (2 + n.toNat, m, e)
  | .inf n => (4 + n.toNat, 0, 0)
  | .nan s => (6 + s.toNat, 0, 0)

/-- The value at (k, n) of a block of an integer configuration: an integer, or the E8M10 value of a dictionary's entry. -/
def Core.blockInt (c : Core) (o : Nat) (t : LaneT) (k n : Nat) : FVal :=
  let kind := c.wbytes o 4 % 4
  let val := fun x : Nat => FVal.ofInt (laneInt t.width t.signed x) 0 false
  match kind with
  | 0 => val (c.wElem t (o + 64) (32 * k + n))
  | 1 => (match c.pairIndex (metaAt 1 o) k n with
    | some i => val (c.wElem t (o + 192) i)
    | none => .zero false)
  | 2 => c.dictVal o (c.wnib (o + 128) (32 * k + n))
  | _ => (match c.pairIndex (metaAt 3 o) k n with
    | some i => c.dictVal o (c.wnib (o + 256) i)
    | none => .zero false)

/-- One chunk added to a saturating 32-bit integer accumulator (R103): the sum is exact. A sum that is an integer, or that lies outside
the range, has the result that R103 states; for another, to which only a dictionary's fraction or NaN leads, the spec states
none: a free value, a function of the operands (R90), without a flag.
Log 41 (DESIGN CHOICE, safe). -/
def accumulateInt (acc : Nat) (l : List (FVal × FVal)) : Nat × FlagSet :=
  let s := (addExact 0 (FVal.ofInt (laneInt 32 true acc) 0 false) (chunkSum l).1)
  let free := (Config.freeSum acc (l.map fun p => (p.1.code, p.2.code))).toNat
  match (chunkSum l).1 with
  | .nan _ => (free, 0)
  | .inf n => clampInt 32 true (if n then -(2 ^ 31) - 1 else 2 ^ 31)
  | _ =>
    if s.isInt then clampInt 32 true (s.roundInt 1).1
    else if cmpVal s (.ofInt (-(2 ^ 31)) 0 false) < 0 then clampInt 32 true (-(2 ^ 31) - 1)
    else if 0 < cmpVal s (.ofInt (2 ^ 31 - 1) 0 false) then clampInt 32 true (2 ^ 31)
    else (free, 0)

/-- Checks the row count of a tile command. -/
def rowsOk (m : Nat) (cfg : Dword) : EM Unit := demand (decide (1 ≤ m) && decide (m ≤ cfgRows cfg)) cCmdMalformed

/-- `MX_MMA` (R175, R103). Where several failures of R160 apply at once the spec names no order: TILE_CFG comes before CMD_MALFORMED, and
that before LOCAL_BOUND, here and in every other command. c8 operands are decoded by the descriptor word that the pushing thread latched
at its dispatch.
Logs 7 (DEDUCED, unsafe), 41 (DESIGN CHOICE, safe), 118 (DESIGN CHOICE, unsafe). -/
def workMma (bsgn asgn : Bool) (m j lso stride kk wbo bstride ascl : Nat) : EM Nat := do
  let cfg ← tileCfg
  let k ← theCmd
  let int := cfgInt cfg
  let at' := cfgLane (cfgA cfg)
  let bt := cfgLane (cfgB cfg)
  let nch := (kk + 31) / 32
  let none' := decide (ascl = 0xFFFFFFFF)
  rowsOk m cfg
  demand (decide (1 ≤ kk) && decide (kk ≤ 4096)) cCmdMalformed
  demand (if int then asgn == at'.signed && bsgn == bt.signed && none' else !asgn && !bsgn) cCmdMalformed
  demand (decide (lso % elemBytes at' = 0) && decide (stride % elemBytes at' = 0) && decide (wbo % 64 = 0)
    && decide (bstride % 64 = 0)) cCmdMalformed
  demand (!((at' == .c8 || bt == .c8) && fmtBad k.fmtWord k.fmtRest)) cCmdMalformed
  let c ← theCore
  demand ((List.range nch).all fun i => !c.blockBad (wbo + i * bstride) bt int) cCmdMalformed
  inStore (lso + (m - 1) * stride) (rowBytes at' kk)
  unless none' do inStore ascl (m * nch)
  for r in List.range m do
    for ch in List.range nch do
      let ks := (List.range (Nat.min 32 (kk - 32 * ch)))
      let xs ← ks.mapM fun i => ldElem at' (lso + r * stride) (32 * ch + i)
      let sc ← if none' then pure 127 else ldLocal (ascl + r * nch + ch) 1
      let o := wbo + ch * bstride
      for n in List.range (cfgCols cfg) do
        let c ← theCore
        let acc ← ldTile j r n
        let v ←
          if int then
            flagged (accumulateInt acc (ks.map fun i =>
              (.ofInt (laneInt at'.width at'.signed (xs.getD i 0)) 0 false, c.blockInt o bt i n)))
          else
            flagged (accumulate acc (ks.map fun i =>
              (((c.laneValue k.fmtWord at' (xs.getD i 0)).scale sc), c.blockVal o bt (btab k.fmtWord) i n)))
        onCore fun c => c.setTile j r n v
  let rows := if at'.width = 4 ∧ bt.width = 4 then (m + 1) / 2 else m
  pure (24 + rows * nch)

/-- `MX_MMA` (R175). -/
def execMxMma (tag : Half) (sf bsgn asgn : Bool) (rows : BitVec 6) (tile : BitVec 3) (lso stride k wbo bstride ascl : Word)
    (s : State) : Host.Outcome State Fault Refusal :=
  let _ := (tag, sf)
  runCommand .mx false s (workMma bsgn asgn rows.toNat tile.toNat lso.toNat stride.toNat k.toNat wbo.toNat bstride.toNat ascl.toNat)

/-- `MX_LDB` (R173): lines arrive in ascending order; what has arrived before a fault stays. -/
def workLdb (addr : Dword) (wbo len : Nat) : EM Nat := do
  demand (decide (addr.toNat % 64 = 0) && decide (wbo % 64 = 0) && decide (len % 64 = 0) && decide (64 ≤ len)
    && decide (wbo + len ≤ Config.weightBytes)) cCmdMalformed
  for i in List.range (len / 64) do
    let v ← ldGlobal (addr + BitVec.ofNat 64 (64 * i)) 64
    onCore fun c => c.setWbytes (wbo + 64 * i) (leBytes 64 v)
  pure (len / 64)

/-- `MX_LDB` (R173). -/
def execMxLdb (tag : Half) (addr : Dword) (wbo len : Word) (s : State) : Host.Outcome State Fault Refusal :=
  let _ := tag
  runCommand .mx false s (workLdb addr wbo.toNat len.toNat)

/-- `MX_LDT` (R174): a type that does not suit the tiles, whatever its code, fails with TILE_CFG, and an FP32 NaN is loaded with its
payload, since the widening to FP32 is the identity.
Logs 118 (DESIGN CHOICE, unsafe), 119 (DESIGN CHOICE, unsafe). -/
def workLdt (ty m j lso stride : Nat) : EM Nat := do
  let cfg ← tileCfg
  demand (if cfgInt cfg then ty == 2 else ty == 8 || ty == 9 || ty == 10 || ty == 11) cTileCfg
  let t := cfgLane ty
  let size := elemBytes t
  rowsOk m cfg
  demand (decide (lso % size = 0) && decide (stride % size = 0)) cCmdMalformed
  inStore (lso + (m - 1) * stride) (rowBytes t (cfgCols cfg))
  for r in List.range m do
    for n in List.range (cfgCols cfg) do
      let x ← ldElem t (lso + r * stride) n
      onCore fun c => c.setTile j r n (if t = .i32 ∨ t = .f32 then x else (fmt32.pack 0 (t.value x)).1)
  pure (8 + m)

/-- `MX_LDT` (R174). -/
def execMxLdt (tag : Half) (sf : Bool) (type : BitVec 4) (rows : BitVec 6) (tile : BitVec 3) (lso stride : Word) (s : State) :
    Host.Outcome State Fault Refusal :=
  let _ := (tag, sf)
  runCommand .mx false s (workLdt type.toNat rows.toNat tile.toNat lso.toNat stride.toNat)

/-- A distance of R108 that is not at most the threshold, for a pair that is not bit-identical. -/
def pairMoves (thr x y : Nat) : Bool :=
  let a := fmt16.decode x
  let b := fmt16.decode y
  let far := fun v : FVal => match v with | .nan _ => true | .inf _ => true | _ => false
  let d : FVal := if far a || far b then .inf false else
    match addExact 0 a b.negate with
    | .fin _ m e => .fin false m e
    | _ => .zero false
  match fmt16.decode thr with
  | .nan _ => true
  | t => decide (0 < cmpVal d t)

/-- BlockMoved (R108): no rounding. -/
def blockMoved (thr : Nat) (new old : List Nat) : Bool :=
  (new.zip old).any fun p => p.1 != p.2 && pairMoves thr p.1 p.2

/-- Writes the elements of a row to global memory, all of them or none (R176). -/
def stRow (va : Dword) (size : Nat) (l : List Nat) : EM Unit := do
  let _ ← engXlate va size true
  let _ ← engXlate (va + BitVec.ofNat 64 (size * (l.length - 1))) size true
  for i in List.range l.length do
    stGlobal (va + BitVec.ofNat 64 (size * i)) size (l.getD i 0)

/-- `MX_STT` (R176, R108): an FP32 element is rounded to its own format, so that a NaN is stored as the default NaN (R93).
Logs 18 (DEDUCED, unsafe), 118 (DESIGN CHOICE, unsafe). -/
def workStt (gf cf : Bool) (ty m j : Nat) (cmp dst : Dword) (stride thr : Nat) : EM Nat := do
  let cfg ← tileCfg
  let cols := cfgCols cfg
  demand (if cfgInt cfg then ty == 2 else ty == 10 || ty == 8 || ty == 9) cTileCfg
  demand (!cf || ty == 8) cCmdMalformed
  let t := cfgLane ty
  let size := elemBytes t
  rowsOk m cfg
  demand (cf || (cmp == 0 && decide (thr = 0))) cCmdMalformed
  demand (gf || (decide (cmp.toNat < 2 ^ 32) && decide (dst.toNat < 2 ^ 32))) cCmdMalformed
  demand (decide (cmp.toNat % size = 0) && decide (dst.toNat % size = 0) && decide (stride % size = 0)) cCmdMalformed
  unless gf do
    inStore (dst.toNat + (m - 1) * stride) (size * cols)
    if cf then inStore (cmp.toNat + (m - 1) * stride) (size * cols)
  let c ← theCore
  let new ← (List.range m).mapM fun r => (List.range cols).mapM fun n =>
    let x := c.tile j r n
    if t = .i32 then (pure x : EM Nat) else flagged (t.fmt.pack 0 (fmt32.decode x))
  let write : EM Unit := do
    for r in List.range m do
      let row := new.getD r []
      if gf then stRow (dst + BitVec.ofNat 64 (r * stride)) size row
      else
        for n in List.range cols do
          stLocal (dst.toNat + r * stride + n * size) size (row.getD n 0)
  if cf then
    let old ← (List.range m).mapM fun r => (List.range cols).mapM fun n =>
      if gf then ldGlobal (cmp + BitVec.ofNat 64 (r * stride + n * size)) size
      else ldLocal (cmp.toNat + r * stride + n * size) size
    let moved := blockMoved thr new.flatten old.flatten
    modify fun e => { e with moved }
    if moved then write
  else write
  pure (8 + m)

/-- `MX_STT` (R176). -/
def execMxStt (tag : Half) (sf gf cf : Bool) (type : BitVec 4) (rows : BitVec 6) (tile : BitVec 3) (cmp dst : Dword)
    (stride : Word) (thr : Half) (s : State) : Host.Outcome State Fault Refusal :=
  let _ := (tag, sf)
  runCommand .mx false s (workStt gf cf type.toNat rows.toNat tile.toNat cmp dst stride.toNat thr.toNat)

/-- `MX_ZERO` (R177). -/
def workZero (tiles : BitVec 8) : EM Nat := do
  let _ ← tileCfg
  demand (tiles != 0) cCmdMalformed
  onCore fun c => { c with tiles := smFilter (fun k _ => !tiles.getLsbD (k / 1024)) c.tiles }
  pure 1

/-- `MX_ZERO` (R177). -/
def execMxZero (tag : Half) (tiles : BitVec 8) (s : State) : Host.Outcome State Fault Refusal :=
  let _ := tag
  runCommand .mx false s (workZero tiles)

/-! Attention. -/

/-- An attention descriptor (R178). -/
structure AttDesc where
  q : Nat
  keys : Nat
  pos : Nat
  ksum : Nat
  rope : Nat
  scores : Nat
  skip : Nat
  values : Nat
  n : Nat
  m : Nat
  d : Nat
  scale : Nat
  margin : Nat
  rmax : Nat
  probs : Nat
  div : Nat
  deriving DecidableEq, Repr

/-- An FP32 value that is finite and at least zero. -/
def nonNeg (x : Nat) : Bool :=
  match fmt32.decode x with
  | .zero _ => true
  | .fin n _ _ => !n
  | _ => false

/-- Reads and checks an attention descriptor (R178): its fields, and every area it names, whichever of the two commands reads it.
Log 118 (DESIGN CHOICE, unsafe). -/
def attDesc (off : Nat) (cfg : Dword) : EM AttDesc := do
  demand (decide (off % 64 = 0)) cCmdMalformed
  inStore off 64
  let w ← (List.range 16).mapM fun i => ldLocal (off + 4 * i) 4
  let f := fun i => w.getD i 0
  let shape := f 9
  let a : AttDesc :=
    { q := f 0, keys := f 1, pos := f 2, ksum := f 3, rope := f 4, scores := f 5, skip := f 6, values := f 7, n := f 8,
      m := shape % 32 + 1, d := 32 * (shape / 2 ^ 8 % 8 + 1), scale := f 10, margin := f 11, rmax := f 12, probs := f 13,
      div := f 14 }
  demand (decide (1 ≤ a.n) && decide (a.n ≤ 65536) && decide (shape % 32 + shape / 2 ^ 8 % 8 * 2 ^ 8 = shape) && nonNeg a.scale
    && nonNeg a.margin && decide (f 15 = 0) && decide (a.m ≤ cfgRows cfg)) cCmdMalformed
  let nt := (a.n + 31) / 32
  let noDiv := decide (a.div = 0xFFFFFFFF)
  demand (decide (a.q % 2 = 0) && decide (a.keys % 2 = 0) && decide (a.pos % 4 = 0) && decide (a.ksum % 2 = 0)
    && decide (a.rope % 4 = 0) && decide (a.scores % 4 = 0) && decide (a.skip % 4 = 0) && decide (a.values % 2 = 0)
    && decide (a.rmax % 4 = 0) && (noDiv || decide (a.div % 4 = 0))) cCmdMalformed
  inStore a.q (2 * a.d * a.m)
  inStore a.keys (2 * a.d * a.n)
  inStore a.pos (4 * a.n)
  inStore a.ksum (4 * a.d * nt)
  inStore a.rope 4
  inStore a.scores (4 * a.n * a.m)
  inStore a.skip (4 * ((nt + 31) / 32))
  inStore a.values (2 * a.d * a.n)
  inStore a.rmax (4 * a.m)
  inStore a.probs (a.n * a.m)
  unless noDiv do inStore a.div (4 * a.m)
  pure a

/-- FP16 widened exactly to FP32. -/
def half32 (x : Nat) : Nat := (fmt32.pack 0 (fmt16.decode x)).1

/-- The magnitude of an FP32 number; a NaN stays one. -/
def abs32 (x : Nat) : Nat := (fmt32.withSign x false).1

/-- An addition rounded up, without flags (R181). -/
def addUp (x y : Nat) : Nat := (fmt32.add 3 x y).1
/-- A product rounded up, without flags. -/
def mulUp (x y : Nat) : Nat := (fmt32.mul 3 x y).1

/-- The larger magnitude of a dimension's maximum and minimum; a NaN gives one (R181). -/
def maxMag (x y : Nat) : Nat :=
  let a := abs32 (half32 x)
  let b := abs32 (half32 y)
  if (fmt32.decode a).isNan then a else if (fmt32.decode b).isNan then b else (fmt32.minMax true a b).1

/-- The sum of the bound of a row over a tile (R181), pair by pair. -/
def boundSum : List Nat → List Nat → Nat → Nat
  | q0 :: q1 :: qs, a0 :: a1 :: as, b => boundSum qs as (addUp b (mulUp (addUp (abs32 q0) (abs32 q1)) (addUp a0 a1)))
  | _, _, b => b

/-- Whether X < Y, both being numbers. -/
def numLt (x y : Nat) : Bool :=
  let a := fmt32.decode x
  let b := fmt32.decode y
  !a.isNan && !b.isNan && decide (cmpVal a b < 0)

/-- The segments of a rope list: first positions with their band factors (R179). -/
def ropeList (a : AttDesc) : EM (List Nat × List (Nat × List Nat)) := do
  let n ← ldLocal a.rope 4
  demand (decide (1 ≤ n) && decide (n ≤ 4)) cCmdMalformed
  inStore a.rope (4 + 2 * a.d + 68 * n)
  let g ← (List.range (a.d / 2)).mapM fun p => ldLocal (a.rope + 4 + 4 * p) 4
  let segs ← (List.range n).mapM fun i => do
    let o := a.rope + 4 + 2 * a.d + 68 * i
    let first ← ldLocal o 4
    let cs ← (List.range 16).mapM fun b => ldLocal (o + 4 + 4 * b) 4
    pure (first, cs)
  demand ((List.range (n - 1)).all fun i => decide ((segs.getD i (0, [])).1 < (segs.getD (i + 1) (0, [])).1)) cCmdMalformed
  pure (g, segs)

/-- x × c ± y × s, exact and then rounded once to E8M10 (R179). -/
def rotPart (x c y s : Nat) (sub : Bool) : Nat × FlagSet :=
  let (p, g) := mulVal (fmt16.decode x) (fmt32.decode c)
  let (q, h) := mulVal (fmt16.decode y) (fmt32.decode s)
  let (n, k) := fmtE8.finish 0 (addVal 0 p (if sub then q.negate else q))
  (n, g ||| h ||| k)

/-- A key of a position, rotated (R179). A position below the first segment is found as its key is fetched: the scores of the keys before
it stay, and the positions of a skipped tile are not looked at.
Log 120 (DESIGN CHOICE, unsafe). -/
def rotKey (a : AttDesc) (g : List Nat) (segs : List (Nat × List Nat)) (pos : Nat) (k : List Nat) : EM (List Nat) := do
  match (segs.filter fun x => decide (x.1 ≤ pos)).getLast? with
  | none => throw (.fail cCmdMalformed)
  | some seg =>
    let half := a.d / 2
    let l ← (List.range half).mapM fun p => do
      let c := seg.2.getD (16 * p / half) 0
      let f ← flagged (fmt32.mul 0 (g.getD p 0) c)
      let th ← flagged (fmt32.finish 0 (mulVal (.ofInt pos 0 false) (fmt32.decode f)))
      let co ← flagged (sfuTurn true th)
      let si ← flagged (sfuTurn false th)
      let x := k.getD (2 * p) 0
      let y := k.getD (2 * p + 1) 0
      let k0 ← flagged (rotPart x co y si true)
      let k1 ← flagged (rotPart x si y co false)
      pure [k0, k1]
    pure l.flatten

/-- A dot product by R103 from +0, in chunks of 32. -/
def dotProduct : Nat → List (FVal × FVal) → Nat → EM Nat
  | 0, _, acc => pure acc
  | n + 1, l, acc => do
    if l.isEmpty then pure acc
    else
      let v ← flagged (accumulate acc (l.take 32))
      dotProduct n (l.drop 32) v

/-- Sets or clears a skip bit, leaving the word's other bits (R178). -/
def setSkip (off t : Nat) (b : Bool) : EM Unit := do
  let o := off + 4 * (t / 32)
  let v ← look do
    pace
    pure ((← theCore).lread o 4)
  let bit := v / 2 ^ (t % 32) % 2
  stLocal o 4 (v - bit * 2 ^ (t % 32) + b.toNat * 2 ^ (t % 32))

/-- FP32 −∞. -/
def negInf32 : Nat := 0xFF800000

/-- `MX_QK` (R178 to R181). Its flags are those of the sums and the roundings, the rounding of M − margin among them; the bound's own
accrue none.
Logs 35 (DESIGN CHOICE, unsafe), 120 (DESIGN CHOICE, unsafe). -/
def workQk (desc : Nat) : EM Nat := do
  let cfg ← tileCfg
  let a ← attDesc desc cfg
  let nt := (a.n + 31) / 32
  let (g, segs) ← ropeList a
  let qs ← (List.range a.m).mapM fun r => (List.range a.d).mapM fun d => ldLocal (a.q + 2 * (r * a.d + d)) 2
  let mut maxs ← (List.range a.m).mapM fun r => ldLocal (a.rmax + 4 * r) 4
  let mut kept := 0
  for t in List.range nt do
    let js := (List.range (Nat.min 32 (a.n - 32 * t))).map (32 * t + ·)
    let mags ← (List.range a.d).mapM fun d => do
      let hi ← ldLocal (a.ksum + 4 * a.d * t + 2 * d) 2
      let lo ← ldLocal (a.ksum + 4 * a.d * t + 2 * (a.d + d)) 2
      pure (maxMag hi lo)
    let limits ← (List.range a.m).mapM fun r => flagged (fmt32.sub 2 (maxs.getD r 0) a.margin)
    let skip := (List.range a.m).all fun r =>
      numLt (mulUp (boundSum ((qs.getD r []).map half32) mags 0) a.scale) (limits.getD r 0)
    setSkip a.skip t skip
    if skip then
      for r in List.range a.m do
        for j in js do stLocal (a.scores + 4 * (a.n * r + j)) 4 negInf32
    else
      kept := kept + 1
      for j in js do
        let k ← (List.range a.d).mapM fun d => ldLocal (a.keys + 2 * (a.d * j + d)) 2
        let p ← ldLocal (a.pos + 4 * j) 4
        let k' ← rotKey a g segs p k
        for r in List.range a.m do
          let l := ((qs.getD r []).zip k').map fun x => (fmt16.decode x.1, fmtE8.decode x.2)
          let dot ← dotProduct 8 l 0
          let sc ← flagged (fmt32.mul 0 dot a.scale)
          stLocal (a.scores + 4 * (a.n * r + j)) 4 sc
          let mx ← flagged (fmt32.minMax true (maxs.getD r 0) sc)
          maxs := maxs.set r mx
  for r in List.range a.m do stLocal (a.rmax + 4 * r) 4 (maxs.getD r 0)
  pure (24 + 4 * nt + (32 + a.m * a.d / 32) * kept)

/-- `MX_QK` (R180). -/
def execMxQk (tag : Half) (sf : Bool) (desc : Word) (s : State) : Host.Outcome State Fault Refusal :=
  let _ := (tag, sf)
  runCommand .mx false s (workQk desc.toNat)

/-- `MX_PV` (R182); the codes are decoded by the descriptor word latched at dispatch.
Log 7 (DEDUCED, unsafe). -/
def workPv (t0 desc : Nat) : EM Nat := do
  let cfg ← tileCfg
  demand (!cfgInt cfg && decide (cfgCols cfg = 32)) cTileCfg
  let a ← attDesc desc cfg
  let k ← theCmd
  let nt := (a.n + 31) / 32
  let noDiv := decide (a.div = 0xFFFFFFFF)
  demand (decide (t0 + a.d / 32 ≤ 8) && !fmtBad k.fmtWord k.fmtRest) cCmdMalformed
  let mut kept := 0
  for t in List.range nt do
    let w ← ldLocal (a.skip + 4 * (t / 32)) 4
    if w / 2 ^ (t % 32) % 2 = 0 then
      kept := kept + 1
      let js := (List.range (Nat.min 32 (a.n - 32 * t))).map (32 * t + ·)
      let vs ← js.mapM fun j => (List.range a.d).mapM fun d => ldLocal (a.values + 2 * (a.d * j + d)) 2
      for r in List.range a.m do
        let ps ← js.mapM fun j => ldLocal (a.probs + a.n * r + j) 1
        for d in List.range a.d do
          let c ← theCore
          let l := (ps.zip vs).map fun x => (c.decodeC8 (ptab k.fmtWord) x.1, fmt16.decode (x.2.getD d 0))
          let v ← flagged (accumulate (← ldTile (t0 + d / 32) r (d % 32)) l)
          onCore fun c => c.setTile (t0 + d / 32) r (d % 32) v
  unless noDiv do
    for r in List.range a.m do
      let y ← ldLocal (a.div + 4 * r) 4
      for d in List.range a.d do
        let v ← flagged (fmt32.div 0 (← ldTile (t0 + d / 32) r (d % 32)) y)
        onCore fun c => c.setTile (t0 + d / 32) r (d % 32) v
  pure (24 + a.m * (a.d / 32) * kept)

/-- `MX_PV` (R182). -/
def execMxPv (tag : Half) (sf : Bool) (tile : BitVec 3) (desc : Word) (s : State) : Host.Outcome State Fault Refusal :=
  let _ := (tag, sf)
  runCommand .mx false s (workPv tile.toNat desc.toNat)

end Sys2Proof.Machine
end

