-- ==== Sys2Proof/Machine/Vector.lean ====
section
/-!
DEFINITION. The commands of the vector engine (R183 to R193), the long accumulator (R105) and quantised probabilities (R106).
Elements are processed in ascending order over the local store as it stands (R183).
-/
namespace Sys2Proof.Machine

/-- LongAdd (R105): the accumulator, its marker and the flags. -/
def longAdd (l : Nat) (e : Bool) (x : Nat) : Nat × Bool × FlagSet :=
  match fmt32.decode x with
  | .nan _ => (l, e, fNV)
  | .inf true => (l, e, fNV)
  | .fin true _ _ => (l, e, fNV)
  | .inf false => (2 ^ 128 - 1, true, fLACCSAT)
  | .zero _ => (l, e, 0)
  | .fin false m ex =>
    let (q, r) := shiftOut m (-(ex + 104))
    let g := flagIf (r != 0) fTINY
    if e then (l, e, g ||| flagIf (q != 0) fLACCSAT)
    else if 2 ^ 128 ≤ l + q then (2 ^ 128 - 1, true, g ||| flagIf (decide (2 ^ 128 < l + q)) fLACCSAT)
    else (l + q, false, g)

/-- LongRead (R105): RoundFP32NE of the accumulator.
Log 39 (DEDUCED, unsafe). -/
def longRead (l : Nat) : Nat × FlagSet := fmt32.pack 0 (.ofInt l (-104) false)

/-- Clears the long accumulator. -/
def longClear : EM Unit := onCore fun c => { c with lacc := 0, laccE := false }

/-- Adds a term to the core's long accumulator. -/
def longTerm (x : Nat) : EM Unit := do
  let v ← look do
    let c ← theCore
    pure (2 * c.lacc + c.laccE.toNat)
  let (l, e, g) := longAdd (v / 2) (v % 2 == 1) x
  addFlags g
  onCore fun c => { c with lacc := l, laccE := e }

/-- Reads the core's long accumulator. -/
def longValue : EM Nat := do flagged (longRead (← look (do pure (← theCore).lacc)))

/-- The element count and the fields that an entry leaves unused (R183). -/
def vecCheck (v : VecOps) (useB useX : Bool) : EM Unit := do
  demand (decide (1 ≤ v.n.toNat) && decide (v.n.toNat ≤ 98304) && (useB || v.b == 0) && (useX || v.x == 0) && v.y == 0)
    cCmdMalformed

/-- A local operand of n elements of a size (R160, R183). -/
def vecArea (off n size : Nat) : EM Unit := do
  demand (decide (off % size = 0)) cCmdMalformed
  inStore off (n * size)

/-- Cycles of a vector command of p passes over n elements (R165). -/
def vecTime (p n : Nat) : Nat := 16 + p * ((n + 31) / 32)

/-- `VX_MAP` (R184).
Log 38 (DESIGN CHOICE, unsafe). -/
def workMap (v : VecOps) : EM Nat := do
  let f := v.ctl.toNat
  let n := v.n.toNat
  vecCheck v false (f == 12)
  demand (decide (f ≤ 12)) cCmdMalformed
  vecArea v.a.toNat n 4
  vecArea v.dst.toNat n 4
  let rm := (← theCmd).rm
  for i in List.range n do
    let x ← ldLocal (v.a.toNat + 4 * i) 4
    let r ← if f = 11 then pure x else if f = 12 then flagged (fmt32.mul rm x v.x.toNat) else flagged (sfuFn f x)
    stLocal (v.dst.toNat + 4 * i) 4 r
  pure (vecTime 1 n)

/-- `VX_MAP` (R184). -/
def execVxMap (tag : Half) (sf : Bool) (v : VecOps) (s : State) : Host.Outcome State Fault Refusal :=
  let _ := (tag, sf)
  runCommand .vx false s (workMap v)

/-- `VX_FMA` (R185).
Log 38 (DESIGN CHOICE, unsafe). -/
def workFma (v : VecOps) : EM Nat := do
  let n := v.n.toNat
  vecCheck v true true
  demand (v.ctl.extractLsb' 2 30 == 0#30) cCmdMalformed
  let oneB := v.ctl.getLsbD 0
  let oneC := v.ctl.getLsbD 1
  vecArea v.a.toNat n 4
  vecArea v.dst.toNat n 4
  vecArea v.b.toNat (if oneB then 1 else n) 4
  vecArea v.x.toNat (if oneC then 1 else n) 4
  let rm := (← theCmd).rm
  for i in List.range n do
    let x ← ldLocal (v.a.toNat + 4 * i) 4
    let y ← ldLocal (v.b.toNat + if oneB then 0 else 4 * i) 4
    let z ← ldLocal (v.x.toNat + if oneC then 0 else 4 * i) 4
    let r ← flagged (fmt32.fma rm false false x y z)
    stLocal (v.dst.toNat + 4 * i) 4 r
  pure (vecTime 1 n)

/-- `VX_FMA` (R185). -/
def execVxFma (tag : Half) (sf : Bool) (v : VecOps) (s : State) : Host.Outcome State Fault Refusal :=
  let _ := (tag, sf)
  runCommand .vx false s (workFma v)

/-- A fold from element 0 itself (R186): a lone NaN becomes the default NaN. -/
def foldFp (f : Fmt) (op : Nat → Nat → Nat × FlagSet) : List Nat → Nat × FlagSet
  | [] => (0, 0)
  | x :: t =>
    let first := if (f.decode x).isNan then f.pack 0 (f.decode x) else (x, 0)
    t.foldl (fun p y => let (n, g) := op p.1 y; (n, g ||| p.2)) first

/-- `VX_RED` (R186). -/
def workRed (v : VecOps) : EM Nat := do
  let n := v.n.toNat
  vecCheck v false false
  let mode := v.ctl.toNat % 4
  demand (v.ctl.extractLsb' 3 29 == 0#29 && (!v.ctl.getLsbD 2 || mode == 3)) cCmdMalformed
  vecArea v.a.toNat n 4
  vecArea v.dst.toNat 1 4
  let rm := (← theCmd).rm
  if v.ctl.getLsbD 2 then longClear
  let xs ← (List.range n).mapM fun i => ldLocal (v.a.toNat + 4 * i) 4
  let r ←
    if mode = 3 then do
      for x in xs do longTerm x
      longValue
    else flagged (foldFp fmt32 (if mode = 0 then fmt32.add rm else fmt32.minMax (mode == 2)) xs)
  stLocal v.dst.toNat 4 r
  pure (vecTime 1 n)

/-- `VX_RED` (R186). -/
def execVxRed (tag : Half) (sf : Bool) (v : VecOps) (s : State) : Host.Outcome State Fault Refusal :=
  let _ := (tag, sf)
  runCommand .vx false s (workRed v)

/-- Whether a table holds a zero among codes 0 to 253 (R106). -/
def Core.tableZero (c : Core) (t : Nat) : Bool :=
  (List.range 254).any fun i => match c.decodeC8 t i with | .zero _ => true | _ => false

/-- The lowest code of a zero: of +0, or of −0 if the table has no +0 (R106).
Log 40 (DESIGN CHOICE, unsafe). -/
def Core.zeroCode (c : Core) (t : Nat) : Nat :=
  match (List.range 254).find? fun i => c.decodeC8 t i == .zero false with
  | some i => i
  | none => ((List.range 254).find? fun i => c.decodeC8 t i == .zero true).getD 0

/-- The smallest positive entry among codes 0 to 253 (R106); entries never decrease. A table may hold a zero and no positive entry.
Log 40 (DESIGN CHOICE, unsafe). -/
def Core.minPositive (c : Core) (t : Nat) : Option FVal :=
  ((List.range 254).find? fun i => decide (0 < cmpVal (c.decodeC8 t i) (.zero false))).map fun i => c.decodeC8 t i

/-- ProbCode (R106), with the flags of a rounding (R97). Where the table has no positive entry there is no c_min, and every
probability encodes by R101.
Log 40 (DESIGN CHOICE, unsafe). -/
def Core.probCode (c : Core) (t p : Nat) : Nat × FlagSet :=
  let v := fmt32.decode p
  match c.minPositive t with
  | some m => if !v.isNan && decide (cmpVal v m < 0) then (c.zeroCode t, c.codeFlags t (c.zeroCode t) v) else c.encodeC8 t v
  | none => c.encodeC8 t v

/-- A value of an accord table as FP32, exactly (R94). -/
def widenVal (v : FVal) : Nat := (fmt32.pack 0 v).1

/-- `VX_EXPSUM` (R187): a score of −∞ gives +0, whatever the maximum is. The table is that of the descriptor word latched at dispatch.
Log 7 (DEDUCED, unsafe). -/
def workExpsum (v : VecOps) : EM Nat := do
  let n := v.n.toNat
  let k ← theCmd
  let given := v.ctl.getLsbD 2
  let consistent := v.ctl.getLsbD 0
  vecCheck v true given
  demand (v.ctl.extractLsb' 3 29 == 0#29 && !fmtBad k.fmtWord k.fmtRest && (← theCore).tableZero (ptab k.fmtWord)) cCmdMalformed
  vecArea v.a.toNat n 4
  vecArea v.dst.toNat n 1
  vecArea v.b.toNat 4 4
  let t := ptab k.fmtWord
  let xs ← (List.range n).mapM fun i => ldLocal (v.a.toNat + 4 * i) 4
  let m ← if given then pure v.x.toNat else flagged (foldFp fmt32 (fmt32.minMax true) xs)
  if v.ctl.getLsbD 1 then longClear
  let es ← xs.mapM fun x => do
    let e ← if x = negInf32 then pure 0 else do
      let d ← flagged (fmt32.sub 0 x m)
      flagged (sfuExp2 d)
    longTerm e
    pure e
  let d ← longValue
  let c ← theCore
  let codes ← es.mapM fun e => do
    let p ← flagged (fmt32.div 0 e d)
    flagged (c.probCode t p)
  for i in List.range n do stLocal (v.dst.toNat + i) 1 (codes.getD i 0)
  let d' ←
    if consistent then do
      longClear
      for x in codes do longTerm (widenVal (c.decodeC8 t x))
      longValue
    else pure d
  let zeros := (codes.filter fun x => match c.decodeC8 t x with | .zero _ => true | _ => false).length
  stLocal v.b.toNat 4 m
  stLocal (v.b.toNat + 4) 4 d
  stLocal (v.b.toNat + 8) 4 d'
  stLocal (v.b.toNat + 12) 4 zeros
  pure (vecTime (if consistent then 4 else 3) n)

/-- `VX_EXPSUM` (R187). -/
def execVxExpsum (tag : Half) (sf : Bool) (v : VecOps) (s : State) : Host.Outcome State Fault Refusal :=
  let _ := (tag, sf)
  runCommand .vx false s (workExpsum v)

/-- `VX_NORM` (R188).
Log 38 (DESIGN CHOICE, unsafe). -/
def workNorm (v : VecOps) : EM Nat := do
  let n := v.n.toNat
  vecCheck v true true
  demand (v.ctl == 0) cCmdMalformed
  vecArea v.a.toNat n 4
  vecArea v.b.toNat n 4
  vecArea v.dst.toNat n 4
  let rm := (← theCmd).rm
  let xs ← (List.range n).mapM fun i => ldLocal (v.a.toNat + 4 * i) 4
  let mut sum := 0
  for x in xs do sum ← flagged (fmt32.fma rm false false x x sum)
  let q ← flagged (fmt32.finish rm (divVal fmt32 (fmt32.decode sum) (.ofInt n 0 false)))
  let e ← flagged (fmt32.add rm q v.x.toNat)
  let rho ← flagged (sfuRsqrt e)
  for i in List.range n do
    let x ← ldLocal (v.a.toNat + 4 * i) 4
    let y ← ldLocal (v.b.toNat + 4 * i) 4
    let p ← flagged (fmt32.mul rm x rho)
    let r ← flagged (fmt32.mul rm p y)
    stLocal (v.dst.toNat + 4 * i) 4 r
  pure (vecTime 2 n)

/-- `VX_NORM` (R188). -/
def execVxNorm (tag : Half) (sf : Bool) (v : VecOps) (s : State) : Host.Outcome State Fault Refusal :=
  let _ := (tag, sf)
  runCommand .vx false s (workNorm v)

/-- `VX_REQUANT` (R189); the tables are those of the descriptor word latched at dispatch.
Logs 7 (DEDUCED, unsafe), 38 (DESIGN CHOICE, unsafe). -/
def workRequant (v : VecOps) : EM Nat := do
  let n := v.n.toNat
  let k ← theCmd
  vecCheck v true true
  demand (v.ctl == 0 && !fmtBad k.fmtWord k.fmtRest) cCmdMalformed
  inStore v.a.toNat n
  inStore v.b.toNat ((n + 31) / 32)
  inStore v.x.toNat ((n + 31) / 32)
  inStore v.dst.toNat n
  for i in List.range n do
    let x ← ldLocal (v.a.toNat + i) 1
    let o ← ldLocal (v.b.toNat + i / 32) 1
    let w ← ldLocal (v.x.toNat + i / 32) 1
    let c ← theCore
    let r ←
      if o = 255 ∨ w = 255 then flagged (254, fNV)
      else
        let y := match c.decodeC8 (atab k.fmtWord) x with
          | .fin g m e => FVal.fin g m (e + (o : Int) - w)
          | y => y
        flagged (c.encodeC8 (otab k.fmtWord) y)
    stLocal (v.dst.toNat + i) 1 r
  pure (vecTime 1 n)

/-- `VX_REQUANT` (R189). -/
def execVxRequant (tag : Half) (sf : Bool) (v : VecOps) (s : State) : Host.Outcome State Fault Refusal :=
  let _ := (tag, sf)
  runCommand .vx false s (workRequant v)

/-- `VX_CMPST` (R190, R108). -/
def workCmpst (n a thr : Nat) (cmp dst : Dword) : EM Nat := do
  demand (decide (1 ≤ n) && decide (n ≤ 16384) && decide (cmp.toNat % 2 = 0) && decide (dst.toNat % 2 = 0)) cCmdMalformed
  vecArea a n 4
  let new ← (List.range n).mapM fun i => do
    let x ← ldLocal (a + 4 * i) 4
    flagged (fmt16.pack 0 (fmt32.decode x))
  let old ← (List.range n).mapM fun i => ldGlobal (cmp + BitVec.ofNat 64 (2 * i)) 2
  let moved := blockMoved thr new old
  modify fun e => { e with moved }
  if moved then
    for i in List.range n do stGlobal (dst + BitVec.ofNat 64 (2 * i)) 2 (new.getD i 0)
  pure (vecTime 1 n)

/-- `VX_CMPST` (R190). -/
def execVxCmpst (tag : Half) (sf : Bool) (n a : Word) (thr : Half) (cmp dst : Dword) (s : State) :
    Host.Outcome State Fault Refusal :=
  let _ := (tag, sf)
  runCommand .vx false s (workCmpst n.toNat a.toNat thr.toNat cmp dst)

/-- Whether logit X at index i ranks above Y at index j (R191). -/
def ranksAbove (x i y j : Nat) : Bool :=
  let a := fmt32.decode x
  let b := fmt32.decode y
  if a.isNan && b.isNan then decide (i < j)
  else if a.isNan then false
  else if b.isNan then true
  else decide (0 < cmpVal a b) || (cmpVal a b == 0 && decide (i < j))

/-- Puts a logit in a list of the best, which is in rank order. -/
def rankInsert (x i : Nat) : List (Nat × Nat) → List (Nat × Nat)
  | [] => [(x, i)]
  | y :: t => if ranksAbove x i y.1 y.2 then (x, i) :: y :: t else y :: rankInsert x i t

/-- `VX_TOPK` (R191). -/
def workTopk (v : VecOps) : EM Nat := do
  let n := v.n.toNat
  let k := v.ctl.toNat
  demand (decide (1 ≤ n) && decide (n ≤ 1048576) && decide (1 ≤ k) && decide (k ≤ 64) && decide (k ≤ n) && v.b == 0 && v.x == 0
    && v.y == 0) cCmdMalformed
  vecArea v.a.toNat n 4
  vecArea v.dst.toNat (2 * k) 4
  let xs ← (List.range n).mapM fun i => ldLocal (v.a.toNat + 4 * i) 4
  let best := (List.range n).foldl (fun l i => (rankInsert (xs.getD i 0) i l).take k) []
  for i in List.range k do
    let p := best.getD i (0, 0)
    stLocal (v.dst.toNat + 8 * i) 4 (if (fmt32.decode p.1).isNan then fmt32.nan else p.1)
    stLocal (v.dst.toNat + 8 * i + 4) 4 p.2
  pure (vecTime 1 n + 2 * k)

/-- `VX_TOPK` (R191). -/
def execVxTopk (tag : Half) (sf : Bool) (v : VecOps) (s : State) : Host.Outcome State Fault Refusal :=
  let _ := (tag, sf)
  runCommand .vx false s (workTopk v)

/-- `VX_KSUM` (R192). -/
def workKsum (v : VecOps) : EM Nat := do
  let n := v.n.toNat
  vecCheck v false false
  demand (v.ctl.extractLsb' 3 29 == 0#29) cCmdMalformed
  let d := 32 * (v.ctl.toNat % 8 + 1)
  let nt := (n + 31) / 32
  vecArea v.a.toNat (n * d) 2
  vecArea v.dst.toNat (2 * d * nt) 2
  for t in List.range nt do
    let js := (List.range (Nat.min 32 (n - 32 * t))).map (32 * t + ·)
    for i in List.range d do
      let xs ← js.mapM fun j => ldLocal (v.a.toNat + 2 * (d * j + i)) 2
      let hi ← flagged (foldFp fmt16 (fmt16.minMax true) xs)
      let lo ← flagged (foldFp fmt16 (fmt16.minMax false) xs)
      stLocal (v.dst.toNat + 4 * d * t + 2 * i) 2 hi
      stLocal (v.dst.toNat + 4 * d * t + 2 * (d + i)) 2 lo
  pure (vecTime (d / 32) n)

/-- `VX_KSUM` (R192). -/
def execVxKsum (tag : Half) (sf : Bool) (v : VecOps) (s : State) : Host.Outcome State Fault Refusal :=
  let _ := (tag, sf)
  runCommand .vx false s (workKsum v)

/-- `VX_CVT` (R193, R129).
Log 38 (DESIGN CHOICE, unsafe). -/
def workCvt (v : VecOps) : EM Nat := do
  let n := v.n.toNat
  let k ← theCmd
  vecCheck v false false
  match laneOf (v.ctl.extractLsb' 0 4), laneOf (v.ctl.extractLsb' 4 4), rndOf (v.ctl.extractLsb' 8 3) with
  | some st, some dt, some r =>
    demand (v.ctl.extractLsb' 11 21 == 0#21 && dt.isCvt && st.isCvt && dt != st
      && !((dt == .c8 || st == .c8) && fmtBad k.fmtWord k.fmtRest)) cCmdMalformed
    let ss := st.width / 8
    let ds := dt.width / 8
    vecArea v.a.toNat n ss
    vecArea v.dst.toNat n ds
    let rm := match r with | .rne => 0#2 | .rtz => 1#2 | .rdn => 2#2 | .rup => 3#2 | .dyn => k.rm
    for i in List.range n do
      let x ← ldLocal (v.a.toNat + ss * i) ss
      let y ← flagged ((← theCore).convert k.fmtWord rm dt st x)
      stLocal (v.dst.toNat + ds * i) ds y
    pure (vecTime 1 n)
  | _, _, _ => throw (.fail cCmdMalformed)

/-- `VX_CVT` (R193). -/
def execVxCvt (tag : Half) (sf : Bool) (v : VecOps) (s : State) : Host.Outcome State Fault Refusal :=
  let _ := (tag, sf)
  runCommand .vx false s (workCvt v)

end Sys2Proof.Machine
end

