-- ==== Sys2Proof/Machine/Copy.lean ====
section
/-!
DEFINITION. The commands of the copy engine (R280 to R286), remote accesses at their target (R251, R284, R285) and the writes of
an instruction store (R259, R286). `cp.frame` stands with the sequencers.
-/
namespace Sys2Proof.Machine

/-- A copy operand (R280): a global address, or a local offset, a multiple of 4 with the upper word zero.
Log 42 (DEDUCED, unsafe). -/
def operandOk (va : Dword) (glob : Bool) : EM Unit :=
  demand (glob || (decide (va.toNat < 2 ^ 32) && decide (va.toNat % 4 = 0))) cCmdMalformed

/-- Only an open-mode thread may push `cp.put`, `cp.get`, `cp.amo` and `cp.ist` (R280). -/
def openOnly : EM Unit := do demand (!(← theCmd).taskMode) cCmdMalformed

/-- Byte i of a value. -/
def natByte (v i : Nat) : Nat := v / 2 ^ (8 * i) % 256

/-- Reads bytes of global memory in ascending order, up to the first that stops: the bytes, and why it stopped. -/
def ldBytes (va : Dword) : Nat → EM (List Nat × Option Stop)
  | 0 => pure ([], none)
  | n + 1 => do
    let x ← tryCatch (do pure (Sum.inl (← ldGlobal va 1))) fun e => pure (Sum.inr e)
    match x with
    | .inl v => do
      let (l, e) ← ldBytes (va + 1) n
      pure (v :: l, e)
    | .inr e => pure ([], some e)

/-- Copies a word from global memory to the local store: whole, but where a byte of it faults, the bytes before that (R281). -/
def copyWord (src : Dword) (off : Nat) : EM Unit := do
  let (l, e) ← ldBytes src 4
  match e with
  | none => stLocal off 4 (leNat (l.map (BitVec.ofNat 8)))
  | some (.fail c) =>
    for i in List.range l.length do stLocal (off + i) 1 (l.getD i 0)
    throw (.fail c)
  | some e => throw e

/-- Copies n bytes in ascending order, byte by byte (R281); local sides take whole words. -/
def copyRun (gs gd : Bool) (src dst : Dword) (n : Nat) : EM Unit := do
  if gs then
    if gd then
      for i in List.range n do
        let v ← ldGlobal (src + BitVec.ofNat 64 i) 1
        stGlobal (dst + BitVec.ofNat 64 i) 1 v
    else
      for i in List.range (n / 4) do copyWord (src + BitVec.ofNat 64 (4 * i)) (dst.toNat + 4 * i)
  else
    for i in List.range (n / 4) do
      let v ← ldLocal (src.toNat + 4 * i) 4
      if gd then
        for j in List.range 4 do stGlobal (dst + BitVec.ofNat 64 (4 * i + j)) 1 (natByte v j)
      else stLocal (dst.toNat + 4 * i) 4 v

/-- A copy shape (R281): counts, and source and destination strides. -/
structure CopyShape where
  c1 : Nat
  c2 : Nat
  s1 : Int
  s2 : Int
  d1 : Int
  d2 : Int
  deriving DecidableEq, Repr

/-- Reads a copy shape (R281); 0xFFFF_FFFF stands for one run. -/
def copyShape (off : Nat) : EM CopyShape := do
  if off = 0xFFFFFFFF then pure { c1 := 1, c2 := 1, s1 := 0, s2 := 0, d1 := 0, d2 := 0 }
  else
    demand (decide (off % 32 = 0)) cCmdMalformed
    inStore off 32
    let w ← (List.range 8).mapM fun i => ldLocal (off + 4 * i) 4
    let f := fun i => w.getD i 0
    let g := fun i => laneInt 32 true (f i)
    demand (decide (1 ≤ f 0) && decide (f 0 ≤ 65536) && decide (1 ≤ f 1) && decide (f 1 ≤ 65536) && decide (f 6 = 0)
      && decide (f 7 = 0)) cCmdMalformed
    pure { c1 := f 0, c2 := f 1, s1 := g 2, s2 := g 3, d1 := g 4, d2 := g 5 }

/-- Checks that every run of a local side lies in the local store, from the corners of its shape, and is aligned (R280). -/
def runsOk (glob : Bool) (base : Nat) (len c1 c2 : Nat) (t1 t2 : Int) : EM Unit := do
  unless glob do
    demand (t1 % 4 == 0 && t2 % 4 == 0) cCmdMalformed
    let ends := [(0 : Int), (c1 - 1 : Nat) * t1, (c2 - 1 : Nat) * t2, (c1 - 1 : Nat) * t1 + (c2 - 1 : Nat) * t2]
    let lo := ends.foldl (fun m x => if x < m then x else m) 0
    let hi := ends.foldl (fun m x => if m < x then x else m) 0
    noteArea (base + lo).toNat (hi - lo + len).toNat
    demand (ends.all fun o => decide (0 ≤ base + o) && decide (base + o + len ≤ Config.localBytes)) cLocalBound

/-- `CP_COPY` (R281).
Log 42 (DEDUCED, unsafe). -/
def workCopy (gs gd : Bool) (src dst : Dword) (len shape : Nat) : EM Nat := do
  operandOk src gs
  operandOk dst gd
  demand (decide (1 ≤ len) && decide (len ≤ 2 ^ 24) && ((gs && gd) || decide (len % 4 = 0))) cCmdMalformed
  let x ← copyShape shape
  runsOk gs src.toNat len x.c1 x.c2 x.s1 x.s2
  runsOk gd dst.toNat len x.c1 x.c2 x.d1 x.d2
  for i2 in List.range x.c2 do
    for i1 in List.range x.c1 do
      copyRun gs gd (src + BitVec.ofInt 64 (i1 * x.s1 + i2 * x.s2)) (dst + BitVec.ofInt 64 (i1 * x.d1 + i2 * x.d2)) len
  pure (16 + x.c1 * x.c2 * len / 64)

/-- `CP_COPY` (R281). -/
def execCpCopy (tag : Half) (sf ff tf : Bool) (src dst : Dword) (len shape : Word) (s : State) :
    Host.Outcome State Fault Refusal :=
  let _ := (tag, sf)
  runCommand .cp false s (workCopy ff tf src dst len.toNat shape.toNat)

/-- Copies one element of a gather or scatter (R282). -/
def copyElem (gs gd : Bool) (src dst : Dword) (size : Nat) : EM Unit := do
  unless gs do inStore src.toNat size
  unless gd do inStore dst.toNat size
  let v ← if gs then ldGlobal src size else ldLocal src.toNat size
  if gd then stGlobal dst size v else stLocal dst.toNat size v

/-- `CP_GATHER` and `CP_SCATTER` (R282), in ascending i.
Log 10 (DESIGN CHOICE, unsafe). -/
def workIndexed (scatter gs gd : Bool) (src dst : Dword) (idx n esz : Nat) : EM Nat := do
  operandOk src gs
  operandOk dst gd
  let size := 2 ^ (esz % 8)
  let bytes := decide (esz / 2 ^ 8 % 2 = 1)
  demand (decide (1 ≤ n) && decide (n ≤ 65536) && decide (esz % 8 + esz / 2 ^ 8 % 2 * 2 ^ 8 = esz) && decide (idx % 4 = 0)
    && decide (src.toNat % size = 0) && decide (dst.toNat % size = 0)) cCmdMalformed
  inStore idx (if bytes then n else 4 * n)
  for i in List.range n do
    let k ← if bytes then ldLocal (idx + i) 1 else ldLocal (idx + 4 * i) 4
    let at' := fun j : Nat => BitVec.ofNat 64 (j * size)
    copyElem gs gd (src + at' (if scatter then i else k)) (dst + at' (if scatter then k else i)) size
  pure (16 + n * size / 64)

/-- `CP_GATHER` (R282). -/
def execCpGather (tag : Half) (sf ff tf : Bool) (src dst : Dword) (idx n esz : Word) (s : State) :
    Host.Outcome State Fault Refusal :=
  let _ := (tag, sf)
  runCommand .cp false s (workIndexed false ff tf src dst idx.toNat n.toNat esz.toNat)

/-- `CP_SCATTER` (R282). -/
def execCpScatter (tag : Half) (sf ff tf : Bool) (src dst : Dword) (idx n esz : Word) (s : State) :
    Host.Outcome State Fault Refusal :=
  let _ := (tag, sf)
  runCommand .cp false s (workIndexed true ff tf src dst idx.toNat n.toNat esz.toNat)

/-- `CP_FILL` (R283). -/
def workFill (tf ef : Bool) (dst : Dword) (len pat : Nat) : EM Nat := do
  operandOk dst tf
  demand (decide (4 ≤ len) && decide (len ≤ 2 ^ 31) && decide (len % 4 = 0) && decide (dst.toNat % 4 = 0) && !(ef && tf))
    cCmdMalformed
  unless tf do inStore dst.toNat len
  for i in List.range (len / 4) do
    if tf then stGlobal (dst + BitVec.ofNat 64 (4 * i)) 4 pat
    else
      if ef then
        noteWord (dst.toNat + 4 * i)
        onCore fun c => (c.engineWrite (dst.toNat + 4 * i) 4 pat).setFull (dst.toNat / 4 + i) false
      else stLocal (dst.toNat + 4 * i) 4 pat
  pure (16 + len / 64)

/-- `CP_FILL` (R283). -/
def execCpFill (tag : Half) (tf ef : Bool) (dst : Dword) (len pat : Word) (s : State) : Host.Outcome State Fault Refusal :=
  let _ := tag
  runCommand .cp false s (workFill tf ef dst len.toNat pat.toNat)

/-! Other devices. -/

/-- Whether a partition may reach a device (R358, R387). -/
def State.mayReach (s : State) (part dev : Nat) : Bool :=
  dev == s.host.prov.device.toNat || (s.host.prov.beacon && (s.part part).spec.devices.contains dev)

/-- Checks a remote command and sends its operation. -/
def remoteOp (dev : Nat) (op : Nat → Nat → Nat → RemoteOp) : EM Unit := do
  let e ← get
  demand (e.s.mayReach e.c.part dev) cPartitionViolation
  act (modify fun e => { e with s := e.s.sendRemote dev (op e.s.host.prov.device.toNat e.core e.c.part) })

/-- The checks of `cp.put` and `cp.get` (R280, R284). -/
def putCheck (glob : Bool) (laddr : Dword) (len : Nat) : EM Unit := do
  openOnly
  operandOk laddr glob
  demand (decide (1 ≤ len) && decide (len ≤ 2 ^ 24) && (glob || decide (len % 4 = 0))) cCmdMalformed
  unless glob do inStore laddr.toNat len

/-- The bytes of this device's operand, in order. -/
def operandBytes (glob : Bool) (laddr : Dword) (len : Nat) : EM (List Byte) := do
  if glob then
    (List.range len).mapM fun i => do
      let v ← ldGlobal (laddr + BitVec.ofNat 64 i) 1
      pure (BitVec.ofNat 8 v)
  else
    let l ← (List.range (len / 4)).mapM fun i => do
      let v ← ldLocal (laddr.toNat + 4 * i) 4
      pure (leBytes 4 v)
    pure l.flatten

/-- `CP_PUT` (R284): the command completes when the target's reply comes. -/
def workPut (ff : Bool) (dev : Nat) (raddr laddr : Dword) (len : Nat) : EM Nat := do
  putCheck ff laddr len
  let l ← operandBytes ff laddr len
  remoteOp dev fun d core part => .put d core part raddr l
  pure 0

/-- `CP_PUT` (R284). -/
def execCpPut (tag : Half) (sf ff : Bool) (dev : BitVec 21) (raddr laddr : Dword) (len : Word) (s : State) :
    Host.Outcome State Fault Refusal :=
  let _ := (tag, sf)
  runCommand .cp true s (workPut ff dev.toNat raddr laddr len.toNat)

/-- `CP_GET` (R284): what comes back is written as the reply arrives. -/
def workGet (ff : Bool) (dev : Nat) (raddr laddr : Dword) (len : Nat) : EM Nat := do
  putCheck ff laddr len
  remoteOp dev fun d core part => .get d core part raddr len
  pure 0

/-- `CP_GET` (R284). -/
def execCpGet (tag : Half) (sf ff : Bool) (dev : BitVec 21) (raddr laddr : Dword) (len : Word) (s : State) :
    Host.Outcome State Fault Refusal :=
  let _ := (tag, sf)
  runCommand .cp true s (workGet ff dev.toNat raddr laddr len.toNat)

/-- `CP_AMO` (R285). -/
def workAmo (dev : Nat) (raddr : Dword) (op lso : Nat) : EM Nat := do
  openOnly
  demand (decide (raddr.toNat % 8 = 0) && decide (op ≤ 9) && decide (lso % 4 = 0)) cCmdMalformed
  inStore lso 16
  let b ← ldLocal lso 8
  let x ← if op = 9 then ldLocal (lso + 8) 8 else pure 0
  remoteOp dev fun d core part => .amo d core part raddr op (BitVec.ofNat 64 b) (BitVec.ofNat 64 x)
  pure 0

/-- `CP_AMO` (R285). -/
def execCpAmo (tag : Half) (sf : Bool) (dev : BitVec 21) (raddr : Dword) (op lso : Word) (s : State) :
    Host.Outcome State Fault Refusal :=
  let _ := (tag, sf)
  runCommand .cp true s (workAmo dev.toNat raddr op.toNat lso.toNat)

/-- `CP_IST` (R286, R259): one unit of 64 bytes in a cycle, in ascending order; a fenced core belongs to no partition (R362). -/
def workIst (core : Nat) (src : Dword) (iso len : Nat) : EM Nat := do
  openOnly
  demand (decide (src.toNat % 64 = 0) && decide (iso % 64 = 0) && decide (len % 64 = 0) && decide (64 ≤ len)
    && decide (iso + len ≤ Config.istBytes)) cCmdMalformed
  let e ← get
  demand ((e.s.part e.c.part).spec.clusters.getLsbD (clusterOf core) && !e.s.isFenced core) cPartitionViolation
  let units ← (List.range (len / 64)).mapM fun i => ldGlobal (src + BitVec.ofNat 64 (64 * i)) 64
  let e ← get
  let first := Nat.max (e.start + 16 + e.lat.getD 0) (e.s.cycle + 1)
  for i in List.range (len / 64) do
    let ev := Ev.instructionStoreWrite core (iso / 64 + i) (BitVec.ofNat 512 (units.getD i 0))
    act (modify fun e => { e with s := e.s.after (first + i - e.s.cycle) ev })
  pure (first + len / 64 - e.start - e.lat.getD 0)

/-- `CP_IST` (R286). -/
def execCpIst (tag : Half) (core : BitVec 11) (src : Dword) (iso len : Word) (s : State) :
    Host.Outcome State Fault Refusal :=
  let _ := tag
  runCommand .cp false s (workIst core.toNat src iso.toNat len.toNat)

/-- Gives each halfword of a 64-byte unit a value, and notes for each thread of the core those it may have fetched already. -/
def Core.loadUnit (c : Core) (unit : Nat) (data : BitVec 512) : Core :=
  (List.range 32).foldl (fun c i =>
    let k := 32 * unit + i
    let v : Half := data.extractLsb' (16 * i) 16
    let old := smGetD c.ist k 0
    let note := fun (_ : Nat) (t : Thread) => if (smGet t.ahead k).isSome then t else { t with ahead := smSet t.ahead k old }
    let ist := if v = 0 then smDel c.ist k else smSet c.ist k v
    if v = old then c else { c with ist, threads := smMap note c.threads }) c

/-- `INSTRUCTION_STORE_WRITE` (R259): a unit is written whole in one cycle. -/
def execInstructionStoreWrite (core unit : Nat) (data : BitVec 512) (s : State) : Host.Outcome State Fault Refusal :=
  if unit < Config.istBytes / 64 then .next (s.modCore core fun c => c.loadUnit unit data) else .next s

/-- Translates an address of the space that this device has exported to a partition (R284).
Log 106 (DESIGN CHOICE, safe). -/
def State.exportXlate (s : State) (part : Nat) (va : Dword) (n : Nat) (store : Bool) : Option Access :=
  match s.walkAll 0 25 (s.walkStart 0 (Walk.new part (Config.exportedSpace part) va [])) with
  | .done e =>
    match s.applyXlate e va n store true 0 with
    | .ok a => some a
    | _ => none
  | _ => none

/-- The lines of bytes written from an exported address upward; none when a byte does not translate. -/
def State.exportLines (s : State) (part : Nat) (va : Dword) : Nat → List Byte → List (Access × LineWrite) →
    Option (List (Access × LineWrite))
  | _, [], acc => some acc
  | i, b :: t, acc =>
    match s.exportXlate part (va + BitVec.ofNat 64 i) 1 true with
    | some a => s.exportLines part va (i + 1) t (addOut a (lineWriteOf a.pa 1 b.toNat) acc)
    | none => none

/-- The bytes read from an exported address upward, at their homes. -/
def State.exportBytes (s : State) (part : Nat) (va : Dword) (n : Nat) : Option (List (Access × Byte)) :=
  (List.range n).mapM fun i =>
    (s.exportXlate part (va + BitVec.ofNat 64 i) 1 false).map fun a =>
      (a, lineByte (s.homeValue a.homeDie a.line) (a.pa % 128))

/-- Writes a line at its home for another device: it enters the home die's release log (R251). -/
def State.remoteWrite (s : State) (home : Nat) (lw : LineWrite) : State :=
  (s.modDie home fun d => { d with log := d.log.push (sigAdd 0 lw.line) }).writeMine home lw

/-- Whether a read that an agent makes at once at a home must wait there: for a secure task (R227), for an ordered round (R202), or for the
line's transaction and the requests before it (R242). -/
def State.homeReadWaits (s : State) (home line : Nat) : Bool :=
  s.homeHolds home line none false || s.lineTaken home line none

/-- The thread that stands for another device in a reservation queue (R285). -/
def farWho : Who := { core := 4096, slot := 0 }

/-- An atomic of another device joins its word's queue (R271, R285). -/
def State.farAmo (s : State) (dev core : Nat) (a : Access) (op : RsvOp) (b x : Dword) : State :=
  s.modRsv a.homeDie (a.pa / 8 * 8) fun q =>
    q.enter { w := farWho, far := some (dev, core), op, d := 0, b, x, acc := a, due := s.cycle }

/-- Sends the reply of an operation (R251): to this device's own copy engine, or over the link. -/
def State.sendReply (s : State) (dev core : Nat) (ok : Bool) (l : List Byte) : State :=
  s.sendRemote dev (.reply core ok l)

/-- The atomic of an operation code of R285. -/
def remoteAmo (op : Nat) : RsvOp :=
  match op with
  | 0 => .add
  | 1 => .and
  | 2 => .or
  | 3 => .xor
  | 4 => .min
  | 5 => .max
  | 6 => .minZ
  | 7 => .maxZ
  | 8 => .swp
  | _ => .cas

/-- What a reply brings to a command: its destination is written, and the command completes (R159, R284, R285). -/
def replyWork (c : Cmd) (ok : Bool) (l : List Byte) : EM Nat := do
  demand ok cEnginePageFault
  let op := (c.bits.extractLsb' 20 8).toNat
  if op = 5 then
    let laddr : Dword := c.bits.extractLsb' 128 64
    if c.bits.getLsbD 17 then
      for i in List.range l.length do stGlobal (laddr + BitVec.ofNat 64 i) 1 (l.getD i 0).toNat
    else
      for i in List.range (l.length / 4) do stLocal (laddr.toNat + 4 * i) 4 (leNat ((l.drop (4 * i)).take 4))
  else if op = 6 then stLocal (c.bits.extractLsb' 160 32).toNat 8 (leNat (l.take 8))
  pure (l.length / 64)

/-- A reply reaches the copy engine that waits for it. -/
def State.takeReply (s : State) (core : Nat) (ok : Bool) (l : List Byte) : State :=
  match (s.core core).cp.exec with
  | some r =>
    if r.begun && r.remote then
      let r' := { r with remote := false, since := s.cycle }
      match StateT.run (ExceptT.run (replyWork r.cmd ok l)) (r'.eng s core none) with
      | (.ok n, e) => s.beginDone r.cmd.w .cp r' e r.err n
      | (.error (.fail cause), e) => s.beginDone r.cmd.w .cp r' e (some cause) 0
      | (.error _, _) => s
    else s
  | none => s

/-- `REMOTE_ACCESS` (R251, R284, R285): a put is performed line by line, each in its turn at its home (R242), a get once nothing holds its lines
back, and an atomic joins the queue of its word; a reply completes the command that waits for it.
Log 20 (DEDUCED, safe). -/
def execRemoteAccess (a : RemoteOp) (s : State) : Host.Outcome State Fault Refusal :=
  match a with
  | .put dev core part raddr l =>
    (match s.exportLines part raddr 0 l [] with
    | none => .next (s.sendReply dev core false [])
    | some [] => .next (s.sendReply dev core true [])
    | some ((x, lw) :: _) =>
      match s.claim x.homeDie x.line (.remoteAccess a) none (s.homeHolds x.homeDie x.line none true) false with
      | .error s1 => .next s1
      | .ok s1 =>
        let n := 128 - raddr.toNat % 128
        let s2 := s1.remoteWrite x.homeDie lw
        if l.length ≤ n then .next (s2.sendReply dev core true [])
        else .next (s2.after 0 (.remoteAccess (.put dev core part (raddr + BitVec.ofNat 64 n) (l.drop n)))))
  | .get dev core part raddr len =>
    (match s.exportBytes part raddr len with
    | none => .next (s.sendReply dev core false [])
    | some l =>
      if l.any fun x => s.homeReadWaits x.1.homeDie x.1.line then .next (s.after 1 (.remoteAccess a))
      else .next (s.sendReply dev core true (l.map (·.2))))
  | .amo dev core part raddr op b x =>
    (match s.exportXlate part raddr 8 true with
    | none => .next (s.sendReply dev core false [])
    | some y => .next (s.farAmo dev core y (remoteAmo op) b x))
  | .reply core ok l => .next (s.takeReply core ok l)

end Sys2Proof.Machine
end

