-- ==== Sys2Proof/Machine/Gang.lean ====
section
/-!
DEFINITION. Gangs, opcode 0x27 (R151 to R157): the rendezvous, the steps of the forwarding network, and the end of a gang.
-/
namespace Sys2Proof.Machine

/-- `GANG_FORM` (R152): a thread already in a gang raises RESERVED_FIELD. -/
def execGangForm (a : GReg) (n : BitVec 2) (s : State) : Host.Outcome State Fault Refusal :=
  issue (useG (enc (.gangForm a n)) [a.toNat] [a.toNat] []) s fun s t rd =>
    if t.gang.isSome then .trap cReservedField (bitsOf (.gangForm a n))
    else
      .wait (s.modThread s.cur fun t => { t with gret := (rd a.toNat).truncate 16 &&& 0xFFFE#16 }) (.gangForm (2 ^ n.toNat))

/-- `GANG_END` (R156): the leader goes on; a follower resumes its own fetch at `gret`. A thread in no gang goes on. -/
def execGangEnd (s : State) : Host.Outcome State Fault Refusal :=
  issue (useG (enc .gangEnd) [] [] []) s fun s t _ =>
    let s1 := s.modThread s.cur fun t => { t with gang := none, gidx := 0, fq := [] }
    if t.follower then .jump s1 t.gret else .done s1

/-- `GANG_BAR` (R155): a no-op in followers; the leader waits for them. In a thread that is in no gang it is a no-op as well, which the
spec does not say.
Log 122 (DESIGN CHOICE, unsafe). -/
def execGangBar (s : State) : Host.Outcome State Fault Refusal :=
  issue (useG (enc .gangBar) [] [] []) s fun s t _ =>
    match t.gang with
    | some g => if g.member = 0 then .wait s .gangBar else .done s
    | none => .done s

/-- Whether a slot waits at the rendezvous of gangs of n members (R152). -/
def State.atRendezvous (s : State) (w : Who) (n : Nat) : Bool := s.waitOf w == some (.gangForm n)

/-- The size of the gang whose rendezvous is complete at a leader: all members of the aligned group wait for it (R151, R152).
Log 25 (DESIGN CHOICE, unsafe). -/
def State.gangReady (s : State) (leader : Who) : Option Nat :=
  match s.waitOf leader with
  | some (.gangForm n) =>
    if leader.core % n = 0 ∧ (List.range n).all (fun j => s.atRendezvous { leader with core := leader.core + j } n) then some n
    else none
  | _ => none

/-- A member of a gang that forms (R152): the followers wait for what is forwarded to them. -/
def Thread.join (t : Thread) (n j : Nat) : Thread :=
  { t with gang := some { n, member := j, ended := false }, gidx := BitVec.ofNat 3 j, fq := [], fwd := false, run := .ready }

/-- `GANG_FORMATION` (R152). -/
def execGangFormation (leader : Who) (s : State) : Host.Outcome State Fault Refusal :=
  match s.gangReady leader with
  | none => .next s
  | some n =>
    .next (((List.range n).foldl (fun s j => s.modThread { leader with core := leader.core + j } fun t => t.join n j) s).complete
      leader [])

/-- `FORWARDED_INSTRUCTION_ARRIVAL` (R153): into the queue of the follower, with the cycle of its arrival. -/
def execForwardedInstructionArrival (w : Who) (f : FwdInstr) (s : State) : Host.Outcome State Fault Refusal :=
  .next (s.modThread w fun t => if t.follower then { t with fq := t.fq ++ [(s.cycle, f)] } else t)

/-- `GANG_TRAP_NOTICE` (R157): forwarding stops, the followers drain their queues, and the leader raises GANG_DISBANDED before
its next instruction.
Log 25 (DESIGN CHOICE, unsafe). -/
def execGangTrapNotice (leader : Who) (member cause : Nat) (s : State) : Host.Outcome State Fault Refusal :=
  match s.thread leader with
  | none => .next s
  | some t =>
    match t.gang with
    | none => .next s
    | some g =>
      if g.member ≠ 0 then .next s
      else
        let s1 := ((s.endFollowers leader g.n).leaderLeaves leader).pend leader cGangDisbanded
          (BitVec.ofNat 64 (member % 8 + cause % 128 * 256))
        .next (if s1.waitOf leader = some .gangBar then s1.complete leader [] else s1)

/-- Whether an instruction that satisfies a test is on its way to a member of a gang. -/
def State.forwardOnWay (s : State) (w : Who) (p : FwdInstr → Bool) : Bool :=
  s.agenda.any fun x => match x.ev with | .forwardedInstructionArrival v f => v == w && p f | _ => false

/-- Whether a follower has issued what was forwarded to it and satisfies a test, and waits for nothing. -/
def State.drained (s : State) (w : Who) (p : FwdInstr → Bool) : Bool :=
  match s.thread w with
  | none => true
  | some t => !t.follower || (!t.fq.any (fun x => p x.2) && t.run == .ready && !s.forwardOnWay w p)

/-- Whether a forwarded instruction came before a `gang.bar` that the leader waits in: any but the `gang.bar` itself. -/
def beforeBar (f : FwdInstr) : Bool := f.bits != enc .gangBar

/-- The leader of a gang completes its `gang.bar` in the cycle in which the last result of what was forwarded before it is written
(R155). -/
def State.gangBarDone (s : State) (w : Who) : State :=
  match s.waitOf w, s.thread w with
  | some .gangBar, some t =>
    let n := (t.gang.map (·.n)).getD 1
    if (List.range n).all fun j =>
        let v : Who := { w with core := w.core + j }
        j == 0 || (s.drained v beforeBar && (s.core v.core).writes.all fun x => x.slot != v.slot) then s.complete w []
    else s
  | _, _ => s

/-- A follower of a disbanded gang that has drained resumes its own fetch at `gret` (R157). -/
def State.gangResume (s : State) (w : Who) : State :=
  match s.thread w with
  | none => s
  | some t =>
    match t.gang with
    | none => s
    | some g =>
      if g.ended && g.member != 0 && s.drained w (fun _ => true) then
        s.modThread w fun t => { t with gang := none, gidx := 0, pc := t.gret }
      else s

/-- Whether a gang's leader must wait to issue, since a follower's queue is full (R153).
Log 25 (DESIGN CHOICE, unsafe). -/
def State.gangFull (s : State) (w : Who) (t : Thread) : Bool :=
  match t.gang with
  | none => false
  | some g =>
    g.member == 0 && (List.range g.n).any fun j =>
      j != 0 && (match s.thread { w with core := w.core + j } with
        | some x => decide (16 ≤ x.fq.length)
        | none => false)

end Sys2Proof.Machine
end

