-- ==== Sys2Proof/Machine/Msg.lean ====
section
/-!
DEFINITION. Messages, opcode 0x2A (R60, R205, R206, R295, R334 to R336, R343), with MESSAGE_ARRIVAL and HELD_MESSAGE_DEPOSIT, and
the waking of a clock-gated core (R399).
-/
namespace Sys2Proof.Machine

/-- A class that nothing has reached and nobody has bound. -/
def MsgClass.empty : MsgClass :=
  { slot := none, reg := 0, n := 0, named := false, armed := false, ready := false, held := [], lane := [], counts := [],
    taken := [], senders := [] }

/-- A class of a core. -/
def State.msgClass (s : State) (core cls : Nat) : MsgClass := smGetD (s.core core).classes cls MsgClass.empty

/-- Changes a class. -/
def State.modClass (s : State) (core cls : Nat) (f : MsgClass → MsgClass) : State :=
  s.modCore core fun c => { c with classes := smSet c.classes cls (f (smGetD c.classes cls MsgClass.empty)) }

/-- A sender slot as a key (R205). -/
def senderKey (m : Msg) : Nat := m.origin * 2 ^ 20 + m.src.core * 64 + m.src.slot

/-- Begins the wake of a clock-gated core, if one has not begun, and tells how many cycles it takes (R399). -/
def State.rouse (s : State) (core : Nat) : State × Nat :=
  if (s.core core).gated then
    match s.agenda.find? fun x => x.ev == .coreWake core with
    | some x => (s, Nat.max 1 (x.due - s.cycle))
    | none =>
      if (s.die (dieOf core)).retained then
        ((s.after (50 * Config.cyclesPerUs) (.dieWake (dieOf core))).after (50 * Config.cyclesPerUs) (.coreWake core),
          50 * Config.cyclesPerUs)
      else (s.after (2 * Config.cyclesPerUs) (.coreWake core), 2 * Config.cyclesPerUs)
  else (s, 0)

/-- Whether a write of a unit of a core's instruction store is a loader's remote store, and not one of a `cp.ist`, whose route is the
copy engine's (R260).
Log 115 (DESIGN CHOICE, unsafe). -/
def State.byLoader (s : State) (core unit : Nat) : Bool :=
  !(s.cores.any fun p => match p.2.cp.exec with
    | some r =>
      let c := r.cmd.bits
      let iso := (c.extractLsb' 128 32).toNat
      (c.extractLsb' 20 8).toNat == 7 && (c.extractLsb' 32 11).toNat == core && decide (iso ≤ 64 * unit)
        && decide (64 * unit < iso + (c.extractLsb' 160 32).toNat)
    | none => false)

/-- The latest arrival among what a sender slot has on its way to a core: a later message arrives no earlier (R251, R335), and only after
a loader's writes of the core's instruction store (R260); since the spec gives a loader's stores no slot, after those of every loader.
Log 115 (DESIGN CHOICE, unsafe). -/
def State.lastArrival (s : State) (m : Msg) : Nat :=
  s.agenda.foldl (fun n x => match x.ev with
    | .messageArrival m' => if senderKey m' == senderKey m && m'.dst == m.dst then Nat.max n x.due else n
    | .instructionStoreWrite core unit _ => if core == m.dst && s.byLoader core unit then Nat.max n (x.due + 1) else n
    | _ => n) 0

/-- Cycles until the message network lets a core inject, under deterministic rotation (R206). -/
def State.injectIn (s : State) (core : Nat) : Nat :=
  if (s.core core).rot = 0 then 0 else (localOf core + 256 - (s.die (dieOf core)).frame % 256) % 256

/-- Sends a message that takes a number of cycles unloaded; contention adds to it but under deterministic rotation (R206, R335). -/
def State.sendIn (s : State) (n : Nat) (fixed : Bool) (m : Msg) : State :=
  let at' := s.cycle + n + if fixed then 0 else Config.extraCycles s.fresh
  let s1 := if fixed then s else { s with fresh := s.fresh + 1 }
  { s1 with agenda := s1.agenda ++ [{ due := Nat.max at' (s.lastArrival m), ev := .messageArrival m }] }

/-- Sends a message of a core of this device to another core of it (R206, R335).
Log 36 (DEDUCED, unsafe). -/
def State.sendMsg (s : State) (m : Msg) : State :=
  let s1 := s.modClass m.dst m.cls fun k => if k.senders.contains m.src then k else { k with senders := m.src :: k.senders }
  s1.sendIn (s.injectIn m.src.core + latMsg (dieOf m.src.core) (dieOf m.dst)) ((s.core m.src.core).rot != 0) m

/-- Whether a message can enter the lane of a class: nothing waits there (R60, R295).
Log 36 (DEDUCED, unsafe). -/
def State.laneOpen (s : State) (core cls : Nat) : Bool := (s.msgClass core cls).lane.isEmpty

/-- Reports that a message of `msg.sendw` was deposited or held (R335). -/
def State.reportMsg (s : State) (m : Msg) : State :=
  if !m.report then s
  else if m.origin ≠ 0 then s
  else match s.waitOf m.src with
    | some .report =>
      let s1 := s.modThread m.src fun t => { t with run := .waiting (.answer []) s.cycle }
      let n := latMsg (dieOf m.dst) (dieOf m.src.core) - 1
      if (s.core m.src.core).rot = 0 then s1.afterFree n (.agentAnswer m.src) else s1.after n (.agentAnswer m.src)
    | _ => s

/-- Sends the words of a message to the bound registers of a class, through one write slot (R60, R336). -/
def State.depositWords (s : State) (w : Who) (k : MsgClass) (cls : Option Nat) (m : Msg) : State :=
  s.modCore w.core fun c =>
    { c with
      writes := c.writes ++
        [{ due := s.cycle, slot := w.slot, kind := .deposit cls,
           regs := (List.range k.n).map fun i => (.reg (k.reg + i), (m.words.getD i 0).zeroExtend 512) }] }

/-- A class is armed again in cycle now + n, and deposits its oldest held message in the cycle after (R295). -/
def State.rearm (s : State) (core cls n : Nat) : State :=
  let s1 := s.modClass core cls fun k => { k with armed := true, ready := false }
  if (s1.msgClass core cls).held.isEmpty then s1 else s1.after (n + 1) (.heldMessageDeposit core cls)

/-- Deposits a message into a bound and armed class (R295), which is disarmed. -/
def State.deposit (s : State) (core cls slot : Nat) (m : Msg) : State :=
  (s.modClass core cls fun k => { k with armed := false }).depositWords { core, slot } (s.msgClass core cls) (some cls) m

/-- The words of a deposit have been written (R295): the ready bit is set, the event bit too (R393), and a thread that waits for the
message completes its `msg.wait`, which clears the bit and arms the class again in the next cycle. -/
def State.deposited (s : State) (w : Who) (cls : Nat) : State :=
  let s1 := (s.modClass w.core cls fun k => { k with ready := true }).setEvent w
  if s1.waitOf w = some (.msg cls) then (s1.complete w []).rearm w.core cls 1 else s1

/-- A message is deposited or held at a class that has room for it (R205, R295, R343).
Log 36 (DEDUCED, unsafe). -/
def State.acceptMsg (s : State) (core cls : Nat) (m : Msg) : State :=
  let k := s.msgClass core cls
  let num := smGetD k.counts (senderKey m) 0
  let s1 := (s.modClass core cls fun k => { k with counts := smSet k.counts (senderKey m) (num + 1) }).reportMsg m
  let hold := s1.modClass core cls fun k => { k with held := k.held ++ [{ num, msg := m }] }
  match k.slot with
  | none => hold
  | some slot =>
    let w : Who := { core, slot }
    if k.named then
      if s.waitOf w = some (.named cls m.src num) ∧ m.origin = 0 then
        ((s1.modClass core cls fun k => { k with taken := (senderKey m, num) :: k.taken }).depositWords w k none m).landing w
      else hold
    else if k.armed && k.held.isEmpty then s1.deposit core cls slot m
    else hold

/-- The messages that wait in a lane enter their class as places free (R295), with fuel for the lane. -/
def State.laneOn (s : State) (core cls : Nat) : Nat → State
  | 0 => s
  | n + 1 =>
    let k := s.msgClass core cls
    match k.lane with
    | m :: rest =>
      if k.held.length < 4 then ((s.modClass core cls fun k => { k with lane := rest }).acceptMsg core cls m).laneOn core cls n
      else s
    | [] => s

/-- A held message has left its class. -/
def State.freedPlace (s : State) (core cls : Nat) : State := s.laneOn core cls ((s.msgClass core cls).lane.length)

/-- `MESSAGE_ARRIVAL` (R290, R295, R399): class 15 starts a launch; a clock-gated core takes the message as it wakes. -/
def execMessageArrival (m : Msg) (s : State) : Host.Outcome State Fault Refusal :=
  let (s1, n) := s.rouse m.dst
  if n ≠ 0 then .next (s1.after n (.messageArrival m))
  else if m.cls = 15 then
    let s2 := s1.reportMsg m
    match m.copy with
    | some r => .next (s2.after 0 (.launchRecordPlace m.dst r))
    | none => .next (s2.after 0 (.launchMessage m.dst (m.words.getD 0 0)))
  else
    let k := s1.msgClass m.dst m.cls
    if k.lane.isEmpty && (decide (k.held.length < 4) || (k.named && (match k.slot with
        | some slot => s1.waitOf { core := m.dst, slot } == some (.named m.cls m.src (smGetD k.counts (senderKey m) 0))
        | none => false))) then
      .next (s1.acceptMsg m.dst m.cls m)
    else .next (s1.modClass m.dst m.cls fun k => { k with lane := k.lane ++ [m] })

/-- `HELD_MESSAGE_DEPOSIT` (R295). -/
def execHeldMessageDeposit (core cls : Nat) (s : State) : Host.Outcome State Fault Refusal :=
  let k := s.msgClass core cls
  match k.slot, k.held with
  | some slot, h :: rest =>
    if k.armed && !k.named then
      .next (((s.modClass core cls fun k => { k with held := rest }).deposit core cls slot h.msg).freedPlace core cls)
    else .next s
  | _, _ => .next s

/-! The instructions. -/

/-- The destination word of R334. -/
def dstReserved (v : Dword) : Bool :=
  v.extractLsb' 53 10 != 0#10 || v.extractLsb' 22 10 != 0#10 || v.extractLsb' 11 5 != 0#5
    || (!v.getLsbD 63 && v.extractLsb' 32 21 != 0#21)

/-- The registers from a number up, each read as a source (R279, R335). -/
def State.readRun (s : State) (w : Who) (t : Thread) (b n : Nat) : Except Res (State × List Dword) :=
  let ns := (List.range n).map (b + ·)
  match s.pops w t ns [] with
  | .error r => .error r
  | .ok (s1, vals) => .ok (s1, ns.map fun i => ((vals.find? fun p => p.1 == i).map (·.2)).getD 0)

/-- Whether a register that a run of registers reaches is outside what the thread holds (R57, R63, R335, R392).
Log 66 (DEDUCED, unsafe). -/
def Thread.outOfRange (t : Thread) (n : Nat) : Bool :=
  decide (128 ≤ n) || (decide (t.glim - t.gbase ≤ n) && !t.shadow n)

/-- Whether a run of registers leaves what the thread holds (R335, R392).
Logs 66 (DEDUCED, unsafe), 67 (DEDUCED, unsafe). -/
def Thread.runOut (t : Thread) (b n : Nat) : Bool := (List.range n).any fun k => t.outOfRange (b + k)

/-- Sends a message over the Beacon link (R335).
Log 20 (DEDUCED, safe). -/
def State.sendFar (s : State) (dev : Nat) (m : Msg) : State :=
  if dev = s.host.prov.device.toNat then s.sendIn Config.latBeacon false m
  else { s with beaconMsgs := s.beaconMsgs ++ [(dev, m)] }

/-- The shape of `msg.send` and `msg.sendw` (R335). In task mode both are held effects (R229). -/
def msgOp (i : Instr) (a b : Nat) (report : Bool) (s : State) : Host.Outcome State Fault Refusal :=
  issue (useG (enc i) [a, b] [a] []) s fun s t rd =>
    let me := s.cur
    let v := rd a
    let count := (v.extractLsb' 20 2).toNat + 1
    let dst := (v.extractLsb' 0 11).toNat
    let far := v.getLsbD 63
    let dev := (v.extractLsb' 32 21).toNat
    if dstReserved v then .trap cReservedField (bitsOf i)
    else if t.runOut b count then .trap cRegLimit (bitsOf i)
    else if (if far then !s.mayReach t.part dev else !(s.part t.part).spec.clusters.getLsbD (clusterOf dst)) then
      .trap cPartitionViolation v
    else match s.readRun me t b count with
      | .error r => r
      | .ok (s1, words) =>
        let m : Msg :=
          { src := me, origin := if far then 2 else 0, dst, cls := (v.extractLsb' 16 4).toNat, words, report, copy := none }
        match s1.taskOf me t with
        | some _ => .done (s1.holdEffect me t (if far then .far dev { m with report := false } else .msg { m with report := false }))
        | none =>
          if far then (if report then .wait (s1.sendFar dev m) .report else .done (s1.sendFar dev m))
          else if !s1.laneOpen dst m.cls then .retry (.lane dst m.cls) false
          else if report then .wait (s1.sendMsg m) .report
          else .done (s1.sendMsg m)

/-- `MSG_SEND` (R335).
Log 67 (DEDUCED, unsafe). -/
def execMsgSend (a b : GReg) (s : State) : Host.Outcome State Fault Refusal :=
  msgOp (.msgSend a b) a.toNat b.toNat false s

/-- `MSG_SENDW` (R335). -/
def execMsgSendw (a b : GReg) (s : State) : Host.Outcome State Fault Refusal :=
  msgOp (.msgSendw a b) a.toNat b.toNat true s

/-- Numbers the held messages of a class afresh, sender by sender (R336).
Log 37 (DEDUCED, safe). -/
def renumber : List Held → SMap Nat → List Held × SMap Nat
  | [], c => ([], c)
  | h :: t, c =>
    let n := smGetD c (senderKey h.msg) 0
    let (l, c') := renumber t (smSet c (senderKey h.msg) (n + 1))
    ({ h with num := n } :: l, c')

/-- `MSG_BIND` (R336).
Log 37 (DEDUCED, safe). -/
def execMsgBind (d : GReg) (m : Bool) (n : BitVec 2) (c : BitVec 4) (s : State) : Host.Outcome State Fault Refusal :=
  issue (useG (enc (.msgBind d m n c)) [d.toNat] [] []) s fun s t _ =>
    let me := s.cur
    let k := s.msgClass me.core c.toNat
    let count := n.toNat + 1
    if d = 0 then
      if k.slot = some me.slot then
        .done (s.modClass me.core c.toNat fun k => { k with slot := none, armed := false, ready := false, named := false })
      else .done s
    else if c = 15 ∨ (k.slot.isSome ∧ k.slot ≠ some me.slot) ∨ t.glim - t.gbase ≤ d.toNat + count - 1 then
      .trap cReservedField (c.zeroExtend 64)
    else
      let s1 := s.modClass me.core c.toNat fun k =>
        { k with slot := some me.slot, reg := d.toNat, n := count, named := m, armed := true, ready := false }
      if m then
        .done (s1.modClass me.core c.toNat fun k =>
          { k with held := (renumber k.held []).1, counts := (renumber k.held []).2, taken := [] })
      else .done (s1.rearm me.core c.toNat 0)

/-- `MSG_WAIT` (R295, R336). -/
def execMsgWait (c : BitVec 4) (s : State) : Host.Outcome State Fault Refusal :=
  issue (useG (enc (.msgWait c)) [] [] []) s fun s _ _ =>
    let me := s.cur
    let k := s.msgClass me.core c.toNat
    if k.slot ≠ some me.slot then .trap cMsgUnbound (c.zeroExtend 64)
    else if k.named then .trap cReservedField (c.zeroExtend 64)
    else if k.ready then .done (s.rearm me.core c.toNat 0)
    else .wait s (.msg c.toNat)

/-- `DET_WAIT` (R205, R343). -/
def execDetWait (a b : GReg) (s : State) : Host.Outcome State Fault Refusal :=
  issue (useG (enc (.detWait a b)) [a.toNat, b.toNat] [a.toNat, b.toNat] []) s fun s _ rd =>
    let me := s.cur
    let v := rd a.toNat
    let q := rd b.toNat
    let cls := (v.extractLsb' 24 4).toNat
    let sender : Who := { core := (v.extractLsb' 0 11).toNat, slot := (v.extractLsb' 16 6).toNat }
    let key := sender.core * 64 + sender.slot
    let k := s.msgClass me.core cls
    if v.extractLsb' 28 36 != 0#36 || v.extractLsb' 22 2 != 0#2 || v.extractLsb' 11 5 != 0#5 then .trap cReservedField v
    else if q.extractLsb' 32 32 != 0#32 || k.taken.contains (key, q.toNat) then .trap cReservedField q
    else if !(k.slot == some me.slot && k.named) then .trap cMsgUnbound (BitVec.ofNat 64 cls)
    else
      let hit := fun h : Held => senderKey h.msg == key && h.num == q.toNat
      match k.held.find? hit with
      | some h =>
        .done (((s.modClass me.core cls fun k =>
            { k with held := k.held.filter fun x => !hit x, taken := (key, q.toNat) :: k.taken }).depositWords me k
          none h.msg).freedPlace me.core cls)
      | none => .wait s (.named cls sender q.toNat)

end Sys2Proof.Machine
end

