-- ==== Sys2Proof/Machine/Dispatcher.lean ====
section
/-!
DEFINITION. Records on their way to a core's slots: launches, deques and spills (R290 to R292), fixed lists (R203), what fits a
core and the start of a group (R56, R59, R77, R293), and stealing (R294).
-/
namespace Sys2Proof.Machine

/-! Reads of a unit that holds no thread. -/

/-- Reads n bytes that lie in one line at once, in a space of a partition, or gives the fault.
Logs 7 (DEDUCED, unsafe), 47 (DEDUCED, unsafe). -/
def State.unitRead (s : State) (core part space : Nat) (va : Dword) (n : Nat) (user : Bool) :
    Except (Nat × Dword) (Access × List Byte) :=
  if Config.lb ≤ va.toNat then .error (cPageFaultLoad, va)
  else match s.xlateNow core part space va n false user 0x0000FF00#32 with
    | .ok a =>
      (match smGet s.poison a.line with
      | some cause => .error (cause, va)
      | none =>
        .ok (a, leBytes n (lineNat (s.overFlights core a.line (s.dieValue (dieOf core) a.homeDie a.line)) (a.pa % 128) n)))
    | .fault cause tval => .error (cause, tval)
    | _ => .error (cPageFaultLoad, va)

/-- Reads n pieces of `size` bytes each, in ascending address. -/
def State.unitSpan (s : State) (core part space : Nat) (va : Dword) (size : Nat) (user : Bool) :
    Nat → Except (Nat × Dword) (List Byte)
  | 0 => .ok []
  | n + 1 =>
    match s.unitRead core part space va size user with
    | .error e => .error e
    | .ok (_, l) =>
      match s.unitSpan core part space (va + BitVec.ofNat 64 size) size user n with
      | .error e => .error e
      | .ok l' => .ok (l ++ l')

/-- Whether a read of n bytes must wait for one of its lines (R202, R224, R227, R242). -/
def State.spanHeld (s : State) (core part space : Nat) (va : Dword) (n : Nat) (user : Bool) : Bool :=
  (List.range ((va.toNat % 128 + n + 127) / 128)).any fun i =>
    match s.xlateNow core part space (if i = 0 then va else BitVec.ofNat 64 (va.toNat / 128 * 128 + 128 * i)) 1 false user 0x0000FF00#32 with
    | .ok a => s.readHeld (dieOf core) a none
    | _ => false

/-- The record that 64 bytes hold. -/
def recordOf (addr : Dword) (l : List Byte) : RecCopy :=
  { addr, bits := BitVec.ofNat 512 (leNat l), faulted := false, again := false }

/-! Deques, the spill ring and fixed lists. -/

/-- Takes up to n records from the oldest end of the ring, with the bytes that memory holds for them once they have been written (R292).
Log 44 (DEDUCED, unsafe). -/
def State.unspill (s : State) (core part : Nat) : Nat → State × List RecCopy
  | 0 => (s, [])
  | n + 1 =>
    let p := s.part part
    match p.ring with
    | [] => (s, [])
    | r :: rest =>
      let r' := r.map fun r => match s.outWriting .remote (ringId part), s.unitRead core part 0 (p.ringAddr 0) 64 false with
        | false, .ok (_, l) => { r with bits := BitVec.ofNat 512 (leNat l) }
        | _, _ => r
      let s1 := s.modPart part fun p => { p with ring := rest, ringHead := (p.ringHead + 1) % Nat.max 1 p.spillen.toNat }
      let (s2, l) := s1.unspill core part n
      (s2, r'.toList ++ l)

/-- A deque that has fallen to 32 records takes up to 32 back from the ring (R292).
Log 44 (DEDUCED, unsafe). -/
def State.refill (s : State) (core : Nat) : State :=
  if (s.core core).deque.length = 32 then
    let (s1, l) := s.unspill core ((s.partOf core).getD 0) 32
    s1.modCore core fun c => { c with deque := l ++ c.deque }
  else s

/-- Removes the record at a place of a deque. -/
def State.takeDeque (s : State) (core i : Nat) : State :=
  (s.modCore core fun c => { c with deque := c.deque.eraseIdx i }).refill core

/-- Clears the fault-pending mark of a record of a core (R391, R394), in the ring too if it has spilled there. -/
def State.clearMark (s : State) (core : Nat) (a : Dword) : State :=
  let f := fun r : RecCopy => if r.addr == a && r.faulted then { r with faulted := false } else r
  (s.modCore core fun c => { c with deque := c.deque.map f, fixed := c.fixed.map f }).modPart ((s.partOf core).getD 0) fun p =>
    { p with ring := p.ring.map fun x => x.map f }

/-- Drops a fault-pending record and logs it (R391, R394, R398). -/
def State.dropRecord (s : State) (core part : Nat) (a : Dword) : State :=
  let f := fun r : RecCopy => !(r.addr == a && r.faulted)
  let s1 := s.modCore core fun c => { c with fixed := c.fixed.filter f }
  let s2 := match s1.core core |>.deque.findIdx? fun r => !f r with
    | some i => s1.takeDeque core i
    | none => s1
  s2.klog (dieOf core) kDropped 0 part 0 core 0 a

/-- The ordered core set C of a partition (R203), empty while detp is 0. -/
def State.detCores (s : State) (part : Nat) : List Nat :=
  let p := s.part part
  if p.detp then (s.usable part).filter fun c => p.detset.getLsbD c else []

/-- Whether a core is one of C (R203). -/
def State.isDetCore (s : State) (core : Nat) : Bool :=
  match s.partOf core with
  | some p => (s.part p).detp && (s.part p).detset.getLsbD core && !s.isFenced core
  | none => false

/-- Places a record whose det flag is 1 (R203): `core` is the core that placed it, which an error concerns.
Log 45 (DEDUCED, unsafe). -/
def State.placeFixed (s : State) (core : Nat) (r : RecCopy) : State :=
  let cs := s.detCores ((s.partOf core).getD 0)
  match cs[r.lidx.toNat % cs.length]? with
  | none => s.detach core cReservedField r.addr none
  | some c =>
    if (s.core c).fixed.any fun x => x.lidx == r.lidx then s.detach c cReservedField r.addr none
    else s.modCore c fun k => { k with fixed := insertFixed r k.fixed }

/-- Places a record that a launch brings (R203, R290): on a core of C, one whose det flag is 0 is an invalid record.
Log 45 (DEDUCED, unsafe). -/
def State.placeLaunch (s : State) (core : Nat) (r : RecCopy) : State :=
  if r.isDet then s.placeFixed core r
  else if s.isDetCore core then s.detach core cReservedField r.addr none
  else s.addDeque core r

/-- `LAUNCH_RECORD_PLACE` (R290). -/
def execLaunchRecordPlace (core : Nat) (r : RecCopy) (s : State) : Host.Outcome State Fault Refusal := .next (s.placeLaunch core r)

/-- `LAUNCH_MESSAGE` (R290): the record is read as a load of the supervisor's space, and placed in the cycle after the read
returns. One that cannot be read is an invalid record.
Log 43 (DEDUCED, unsafe). -/
def execLaunchMessage (core : Nat) (addr : Dword) (s : State) : Host.Outcome State Fault Refusal :=
  if addr.toNat % 64 ≠ 0 then .next (s.detach core cReservedField addr none)
  else match s.unitRead core ((s.partOf core).getD 0) 0 addr 64 false with
    | .error _ => .next (s.detach core cReservedField addr none)
    | .ok (a, l) =>
      if s.readHeld (dieOf core) a none then .next (s.after 1 (.launchMessage core addr))
      else .next (s.afterFree (s.readLat core a) (.launchRecordPlace core (recordOf addr l)))

/-! What fits a core. -/

/-- Whether n entries from b on overlap one of a list of ranges. -/
def clash (l : List (Nat × Nat)) (b n : Nat) : Bool := l.any fun p => decide (p.1 < b + n) && decide (b < p.2)

/-- The lowest aligned place for n entries in a file (log 14).
Log 14 (DESIGN CHOICE, unsafe). -/
def roomFor (l : List (Nat × Nat)) (n align limit : Nat) : Option Nat :=
  let cand := (0 :: l.map fun p => (p.2 + align - 1) / align * align).filter fun b => decide (b + n ≤ limit) && !clash l b n
  cand.foldl (fun m b => match m with | none => some b | some x => some (Nat.min x b)) none

/-- Places for several allocations of n entries each. -/
def roomsFor (n align limit : Nat) : Nat → List (Nat × Nat) → Option (List Nat)
  | 0, _ => some []
  | k + 1, l =>
    match roomFor l n align limit with
    | none => none
    | some b => (roomsFor n align limit k ((b, b + n) :: l)).map fun t => b :: t

/-- The windows of a core's general file that are taken (R56). -/
def Core.windows (c : Core) : List (Nat × Nat) := c.threads.map fun p => (p.2.gbase, p.2.galloc)

/-- The groups of a core's wide file that are taken (R62). -/
def Core.wgroups (c : Core) : List (Nat × Nat) :=
  (c.threads.filter fun p => p.2.wcount != 0).map fun p => (p.2.wbase, p.2.wbase + p.2.wcount)

/-- The free slots of a core, ascending (R54, R74). -/
def Core.freeSlots (c : Core) : List Nat :=
  (List.range (if c.rot = 0 then Config.slots else c.rot)).filter fun i => (smGet c.threads i).isNone

/-- The mirror extension of a window (R59): four entries for each mirrored register of the bank with most copies.
Log 15 (DEDUCED, safe). -/
def mirrorExt (mask : Dword) (regs : Nat) : Nat :=
  let ns := (List.range (Nat.min 64 regs)).filter fun n => n != 0 && mask.getLsbD n
  4 * (List.range 4).foldl (fun m b => Nat.max m (ns.filter fun n => (n + 2) % 4 == b).length) 0

/-- Entries that a window takes (R56). -/
def windowSize (mask : Dword) (regs : Nat) : Nat := (regs + 7) / 8 * 8 + mirrorExt mask regs

/-- The mirror mask of the kernel header (R45, R48): the first eight of the sixteen bytes before the entry. Bit 0 is ignored.
Log 14 (DESIGN CHOICE, unsafe). -/
def Core.headerMask (c : Core) (entry : Nat) : Dword :=
  let h := fun i => (smGetD c.ist ((entry + 32760 + i) % 32768) 0).toNat
  BitVec.ofNat 64 ((h 0 + h 1 * 2 ^ 16 + h 2 * 2 ^ 32 + h 3 * 2 ^ 48) / 2 * 2)

/-- Whether a record claims the tiles of a core (R168). -/
def Core.claims (c : Core) (r : RecCopy) : Bool := cfgClaim (c.tileCfg r.tcfg) && r.compute

/-- Whether a claiming group may take the tiles (R168): no live claim holds them, and every matrix command of an earlier claim
has completed. -/
def Core.tilesFree (c : Core) : Bool := c.claimer.isNone && c.mx.all.all fun k => !k.claim

/-- Slots, windows and wide groups for the threads of a record. -/
structure Berth where
  slots : List Nat
  gs : List Nat
  ws : List Nat
  deriving DecidableEq, Repr

/-- The space in which a core runs U-level work (R366). -/
def State.coreSpace (s : State) (core : Nat) : Nat := ((s.part ((s.partOf core).getD 0)).coreEnt core).space

/-- The second footprint range of a record, read from its area (R75).
Log 7 (DEDUCED, unsafe). -/
def State.range2 (s : State) (core : Nat) (r : RecCopy) : Except (Nat × Dword) (Option FpRange) :=
  if r.hasR2 then
    match s.unitSpan core ((s.partOf core).getD 0) (s.coreSpace core) r.arg 1 true 16 with
    | .ok l => .ok (some (fpRange (BitVec.ofNat 64 (leNat (l.take 8))) (BitVec.ofNat 64 (leNat (l.drop 8)))))
    | .error e => .error e
  else .ok none

/-- The footprint ranges of a record with a nonzero length, in ascending address (R293); a range 2 that cannot be read is left
out. -/
def State.ranges (s : State) (core : Nat) (r : RecCopy) : List FpRange :=
  let l := (r.range1 :: (match s.range2 core r with | .ok x => x.toList | .error _ => [])).filter fun x => x.len != 0
  match l with
  | [a, b] => if b.base.toNat < a.base.toNat then [b, a] else [a, b]
  | l => l

/-- Whether a record is valid in the copy that a core holds (R76). -/
def State.recordOk (s : State) (core : Nat) (r : RecCopy) : Bool :=
  r.addr.toNat % 64 == 0 && recordValid r (match s.range2 core r with | .ok x => x | .error _ => none)

/-- Whether a read that a record's dispatch makes must wait (R202): its second range, or its format descriptor. -/
def State.recordHeld (s : State) (core : Nat) (r : RecCopy) : Bool :=
  let held := fun va n => s.spanHeld core ((s.partOf core).getD 0) (s.coreSpace core) va n true
  (r.hasR2 && held r.arg 16) || (r.fmtp != 0 && held r.fmtp 32)

/-- What a core can host at this moment (R293, R294). -/
def Core.shape (c : Core) : Shape :=
  { free := c.freeSlots.length, windows := c.windows, wgroups := c.wgroups, tiles := c.tilesFree,
    pins := c.groups.flatMap fun p => p.2.pins.map fun x => (x.1, x.1 + x.2) }

/-- Where a record fits a shape (R293): its windows of a size and its wide groups. -/
def Shape.hosts (x : Shape) (r : RecCopy) (size : Nat) (claims : Bool) (xs : List FpRange) : Option (List Nat × List Nat) :=
  let n := r.threads
  if x.free < n || (claims && !x.tiles) || xs.any (fun y => clash x.pins y.off y.len) then none
  else
    match roomsFor size 8 Config.gfileSize n x.windows,
      if r.wide = 0 then some (List.replicate n 0) else roomsFor r.wide 1 Config.wfileSize n x.wgroups with
    | some gs, some ws => some (gs, ws)
    | _, _ => none

/-- Where a record fits a shape of a core (R293). -/
def State.hostsOn (s : State) (core : Nat) (x : Shape) (r : RecCopy) : Option (List Nat × List Nat) :=
  let c := s.core core
  x.hosts r (windowSize (c.headerMask r.entry.toNat) r.regs) (c.claims r) (s.ranges core r)

/-- Where a record fits on a core (R293). -/
def State.fits (s : State) (core : Nat) (r : RecCopy) : Option Berth :=
  let c := s.core core
  (s.hostsOn core c.shape r).map fun x => { slots := c.freeSlots.take r.threads, gs := x.1, ws := x.2 }

/-! The start of a group. -/

/-- A thread with every register zero.
Log 2 (DESIGN CHOICE, unsafe). -/
def Thread.fresh : Thread :=
  { pc := 0, ilen := 4, run := .ready, handler := false, level := .u, compute := false, openMode := true, part := 0, space := 0,
    gid := 0, num := 0, spawned := false, gbase := 0, glim := 0, gext := 0, galloc := 0, mirmask := 0, wbase := 0, wcount := 0,
    kregs := [], hregs := [], gidx := 0, gret := 0, tstamp := 0, lidx := 0, detidx := 0, prio := 0, inh := 0, fmtp := 0,
    sclp := 0, mpol := 0x0000FF00, frm := 0, fen := 0, fflags := 0, lvec := 0, cause := 0, tpc := 0, tval := 0, ix0 := 0,
    ix1 := 0, ix2 := 0, fmtWord := 0, fmtRest := false, nestL := 0, nestC0 := 0, nestC1 := 0, wcb := [], dirty := 0, acqClu := 0, acqDie := 0,
    repMx := [], repVx := [], repCp := [], wakePending := false, event := false, lastIssue := none, next := [], gang := none,
    fq := [], fwd := false, rsv := none, rsvVa := 0, parts := [], leases := [], ended := false, record := none, recCore := 0, ahead := [],
    pieces := [], away := [] }

/-- Entries from b on, n of them, written zero in a file. -/
def zeroRun {α : Type} (m : SMap α) (b n : Nat) : SMap α := m.filter fun p => !(decide (b ≤ p.1) && decide (p.1 < b + n))

/-- Puts a new thread in a slot, with its window and wide group zero but for g1 and g2 (R77). -/
def Core.seat (c : Core) (slot : Nat) (t : Thread) (g1 g2 : Dword) : Core :=
  { c with
    threads := smSet c.threads slot t,
    gfile := smSet (smSet (zeroRun c.gfile t.gbase (t.galloc - t.gbase)) (t.gbase + 1) g1) (t.gbase + 2) g2,
    wfile := zeroRun c.wfile t.wbase t.wcount }

/-- Thread j of a record, before its group's footprint is there (R77). -/
def recordThread (r : RecCopy) (part space gid j gbase wbase : Nat) (mask : Dword) (taskMode : Bool) (fw : Word × Bool) :
    Thread :=
  { Thread.fresh with
    pc := BitVec.ofNat 16 (r.entry.toNat * 2), run := .waiting .footprint 0, compute := r.compute, openMode := !taskMode, part,
    space, gid, num := j, gbase, glim := gbase + r.regs, gext := gbase + windowSize 0 r.regs, galloc := gbase + windowSize mask r.regs, mirmask := mask, wbase,
    wcount := r.wide, tstamp := r.tstamp, lidx := r.lidx, detidx := r.lidx, prio := BitVec.ofNat 2 r.prio, fmtp := r.fmtp,
    sclp := r.sclp, fmtWord := fw.1, fmtRest := fw.2 }

/-- Whether a record's group runs in task mode (R55, R76): control threads always run in open mode. -/
def taskModeOf (r : RecCopy) : Bool := r.compute && !r.isOpen

/-- Word 0 of the format descriptor, zero where `fmtp` is 0 (R130), and whether its reserved words 1 to 7 are not all zero (R99). An
address that is no multiple of 32 is read as it stands: the spec names no cause for it.
Logs 7 (DEDUCED, unsafe), 114 (DESIGN CHOICE, unsafe). -/
def State.formatWord (s : State) (core : Nat) (fmtp : Dword) : Except (Nat × Dword) (Word × Bool) :=
  if fmtp = 0 then .ok (0, false)
  else match s.unitSpan core ((s.partOf core).getD 0) (s.coreSpace core) fmtp 1 true 32 with
    | .ok l => .ok (BitVec.ofNat 32 (leNat (l.take 4)), (l.drop 4).any (· != 0))
    | .error e => .error e

/-- The accesses of a footprint's words that translate, one for each line (R223). -/
def State.fpLines (s : State) (core : Nat) (x : FpRange) : List Access :=
  let part := (s.partOf core).getD 0
  let first := x.base.toNat / 128
  (List.range ((x.base.toNat + x.len + 127) / 128 - first)).filterMap fun i =>
    match s.xlateNow core part (s.coreSpace core) (BitVec.ofNat 64 (Nat.max x.base.toNat ((first + i) * 128))) 4 false true
      0x0000FF00#32 with
    | .ok a => some a
    | _ => none

/-- A new task group of a record (R221, R223). -/
def newGroup (r : RecCopy) (taskMode : Bool) (part space seq : Nat) (slots : List Nat) (claim : Bool) : Group :=
  { task := r, taskMode, level := .u, part, space, tstamp := r.tstamp, seq, slots, threads := slots.length, phase := .fetch,
    rsig := 0, wsig := 0, secure := false, unbounded := false, held := [], leases := [], pins := [], cfg := r.tcfg, claim,
    succ := none }

/-- Cycles that a footprint fetch takes (R293): the first line's latency and one for each 64 bytes. -/
def State.fpTime (s : State) (core : Nat) (xs : List FpRange) : Nat :=
  let total := xs.foldl (fun n x => n + x.len) 0
  match (xs.flatMap (s.fpLines core)).head? with
  | some a => s.readLat core a + (total + 63) / 64
  | none => if total = 0 then 0 else Config.latL2

/-- Dispatches a record that fits (R77, R168, R221, R293): its group takes slots, windows and wide groups, and its footprint is
on its way. -/
def State.startGroup (s : State) (core : Nat) (r : RecCopy) (b : Berth) (fw : Word × Bool) : State :=
  let c := s.core core
  let part := (s.partOf core).getD 0
  let space := s.coreSpace core
  let gid := c.nextGid
  let mask := c.headerMask r.entry.toNat
  let task := taskModeOf r
  let xs := s.ranges core r
  let lines := (xs.flatMap (s.fpLines core)).map (·.line)
  let g := { newGroup r task part space c.dispatchSeq b.slots (c.claims r) with
    pins := xs.map fun x => (x.off, x.len), rsig := if task then lines.foldl sigAdd 0 else 0 }
  let c1 := (List.range r.threads).foldl
    (fun c j => c.seat (b.slots.getD j 0) (recordThread r part space gid j (b.gs.getD j 0) (b.ws.getD j 0) mask task fw)
      (BitVec.ofNat 64 j) r.arg)
    { c with nextGid := gid + 1, dispatchSeq := c.dispatchSeq + 1, tiles := if c.claims r then [] else c.tiles }
  let s1 := (s.setCore core { c1 with groups := smSet c1.groups gid g }).secureUp (dieOf core)
  (if xs.isEmpty then s1.after 0 else s1.afterFree (s.fpTime core xs)) (.footprintFetchDone core gid)

/-- The records of a deque in the order in which they may be taken (R225, R291, R384): an aborted one before any other, else the
newest of the highest priority.
Log 103 (DEDUCED, unsafe). -/
def dispatchOrder (q : List RecCopy) : List (RecCopy × Nat) :=
  let l := q.zipIdx.filter fun x => !x.1.faulted
  match l.find? fun x => x.1.again with
  | some x => [x]
  | none => [3, 2, 1, 0].flatMap fun p => (l.filter fun x => x.1.prio == p).reverse

/-- Which record a core dispatches next: one that a steal has brought, the head of its fixed list, or one of its deque. -/
inductive Pick where
  | granted (r : RecCopy)
  | fixed (r : RecCopy)
  | deque (r : RecCopy) (i : Nat)
  deriving DecidableEq, Repr

/-- The record of a pick. -/
def Pick.task : Pick → RecCopy
  | .granted r | .fixed r | .deque r _ => r

/-- Whether a task of the core's fixed list is under way (R203: one at a time): until it has committed, since an abort runs it again before the
next (R204, R225). -/
def Core.detRuns (c : Core) : Bool := c.groups.any fun p => p.2.task.isDet

/-- Whether the dispatcher would take a record now: it fits, or it is invalid and is removed (R76). -/
def State.takes (s : State) (core : Nat) (r : RecCopy) : Bool :=
  !s.recordHeld core r && (!s.recordOk core r || (s.fits core r).isSome)

/-- The record that an abort has returned to a core, which is dispatched before any other (R225). -/
def Core.returned (c : Core) : Option Pick :=
  match c.fixed.find? fun r => r.again && !r.faulted with
  | some r => some (.fixed r)
  | none => (c.deque.zipIdx.find? fun x => x.1.again && !x.1.faulted).map fun x => .deque x.1 x.2

/-- The record that a core dispatches now (R203, R225, R291, R293).
Log 103 (DEDUCED, unsafe). -/
def State.nextPick (s : State) (core : Nat) : Option Pick :=
  let c := s.core core
  let may := fun p : Pick => s.takes core p.task && (match p with
    | .fixed _ => !c.detRuns
    | _ => true)
  match c.returned with
  | some p => if may p then some p else none
  | none =>
    let det := (c.fixed.head?.filter fun r => !r.faulted).map Pick.fixed
    let deq := (dispatchOrder c.deque).map fun x => Pick.deque x.1 x.2
    ((c.granted.map Pick.granted).toList ++ det.toList ++ deq).find? may

/-- Takes a picked record from where it stands. -/
def State.unpick (s : State) (core : Nat) : Pick → State
  | .granted _ => s.modCore core fun c => { c with granted := none }
  | .fixed r => s.modCore core fun c => { c with fixed := c.fixed.erase r }
  | .deque _ i => s.takeDeque core i

/-- Returns a record fault-pending (R293): to the head of the deque, or to its place in the fixed list; the fault goes to the
supervisor, detached, or to the hypervisor. -/
def State.faultRecord (s : State) (core : Nat) (r : RecCopy) (cause : Nat) (tval : Dword) : State :=
  let s1 := s.putBack core { r with faulted := true }
  if cause = cGuestFault then s1.sendEvent { core, slot := 0 } ((s.partOf core).getD 0) cause tval 0
  else s1.detach core cause tval (some r.addr)

/-- `TASK_DISPATCH` (R293): an invalid record is removed, and RESERVED_FIELD goes to the supervisor (R76). -/
def execTaskDispatch (core : Nat) (s : State) : Host.Outcome State Fault Refusal :=
  match s.nextPick core with
  | none => .next s
  | some p =>
    let r := { p.task with again := false }
    let s1 := s.unpick core p
    if !s.recordOk core r then .next (s1.detach core cReservedField r.addr none)
    else match s.range2 core r, s.formatWord core r.fmtp, s.fits core r with
      | .error (cause, tval), _, _ => .next (s1.faultRecord core r cause tval)
      | _, .error (cause, tval), _ => .next (s1.faultRecord core r cause tval)
      | _, .ok fw, some b => .next (s1.startGroup core r b fw)
      | _, _, none => .next s

/-- Fetches the words of a footprint range, in ascending address, setting each full (R293); with the first fault. -/
def State.fetchWords (s : State) (core : Nat) (va : Dword) (off : Nat) : Nat → State × Option (Nat × Dword)
  | 0 => (s, none)
  | n + 1 =>
    match s.unitRead core ((s.partOf core).getD 0) (s.coreSpace core) va 4 true with
    | .error e => (s, some e)
    | .ok (_, l) => (s.modCore core fun c => c.engineWrite off 4 (leNat l)).fetchWords core (va + 4) (off + 4) n

/-- Fetches ranges in turn. -/
def State.fetchRanges (s : State) (core : Nat) : List FpRange → State × Option (Nat × Dword)
  | [] => (s, none)
  | x :: t =>
    match s.fetchWords core x.base x.off (x.len / 4) with
    | (s1, none) => s1.fetchRanges core t
    | r => r

/-- The threads of a group start (R77). -/
def State.startThreads (s : State) (core gid : Nat) : State :=
  (s.modCore core fun c =>
    { c with
      threads := smMap (fun _ t => if t.gid == gid && t.run == .waiting .footprint 0 then { t with run := .ready } else t)
        c.threads }).modGroup core gid fun g => { g with phase := .running }

/-- `FOOTPRINT_FETCH_DONE` (R77, R293): a line held back for a secure task, a commit or a round is waited for.
Log 47 (DEDUCED, unsafe). -/
def execFootprintFetchDone (core gid : Nat) (s : State) : Host.Outcome State Fault Refusal :=
  match s.group core gid with
  | none => .next s
  | some g =>
    if g.phase != .fetch then .next s
    else
      let xs := s.ranges core g.task
      let as := xs.flatMap (s.fpLines core)
      if as.any fun a => s.loadBlocked (dieOf core) a.homeDie a.line (some (core, gid)) then
        .next (s.after 1 (.footprintFetchDone core gid))
      else
        let s0 := if g.taskMode then s.modGroup core gid fun g => { g with rsig := (as.map (·.line)).foldl sigAdd g.rsig } else s
        match s0.fetchRanges core xs with
        | (s1, none) => .next (s1.startThreads core gid)
        | (s1, some (cause, tval)) => .next (((s1.killGroup core gid none).faultRecord core g.task cause tval).secureUp (dieOf core))

/-! Stealing. -/

/-- The victims of an idle core, in order (R294).
Log 46 (DEDUCED, unsafe). -/
def State.victimOrder (s : State) (core : Nat) : List Nat :=
  let d := dieOf core
  let k := core / 16 % 16
  let c := core % 16
  let near := (List.range 15).map fun i => d * 256 + k * 16 + (c + 1 + i) % 16
  let ring := fun d n0 n => (List.range n).flatMap fun j => (List.range 16).map fun i => d * 256 + (k + n0 + j) % 16 * 16 + (c + i) % 16
  let far := (List.range 7).flatMap fun m => ring ((d + 1 + m) % 8) 0 16
  let p := (s.partOf core).getD 0
  (near ++ ring d 1 15 ++ (if (s.part p).xsteal then far else [])).filter fun v => s.partOf v == some p && !s.isDetCore v

/-- Cycles that a steal request takes (R294).
Log 46 (DEDUCED, unsafe). -/
def stealLat (a b : Nat) : Nat := if clusterOf a = clusterOf b then 40 else if dieOf a = dieOf b then 200 else 340

/-- Whether a core is idle (R294). -/
def State.idle (s : State) (core : Nat) : Bool :=
  let c := s.core core
  !c.held && !c.gated && !isLantern core && !s.isDetCore core && c.deque.isEmpty && c.fixed.isEmpty && c.granted.isNone
    && !c.freeSlots.isEmpty && (s.partOf core).isSome

/-- The oldest record, among those of the highest priority present, that fits the shape that the thief's request carries (R294). -/
def State.stealable (s : State) (victim thief : Nat) (x : Shape) : Option (RecCopy × Nat) :=
  let l := (s.core victim).deque.zipIdx.filter fun x => !x.1.faulted && !x.1.isDet
  let top := l.foldl (fun m x => Nat.max m x.1.prio) 0
  l.find? fun y => y.1.prio == top && !s.recordHeld thief y.1 && s.recordOk thief y.1 && (s.hostsOn thief x y.1).isSome

/-- An idle core sends a steal request to its next victim, with the shape that it can host at this moment (R294).
Log 46 (DEDUCED, unsafe). -/
def State.askVictim (s : State) (core : Nat) (l : List Nat) : State :=
  match l with
  | [] => s
  | v :: _ =>
    (s.modCore core fun c => { c with stealing := true, victims := l, asked := c.shape }).afterFree (stealLat core v) (.stealRequest core)

/-- An idle core starts the order of its victims (R294). -/
def State.startSteal (s : State) (core : Nat) : State := s.askVictim core (s.victimOrder core)

/-- Whether a steal may take a record from a victim to a thief (R203, R294): neither is a core of C, and both are in one partition. -/
def State.mayMove (s : State) (victim thief : Nat) : Bool :=
  !s.isDetCore victim && !s.isDetCore thief && s.partOf victim == s.partOf thief

/-- `STEAL_REQUEST` (R294): the request reaches the victim, which gives a record or refuses.
Log 46 (DEDUCED, unsafe). -/
def execStealRequest (core : Nat) (s : State) : Host.Outcome State Fault Refusal :=
  match (s.core core).victims with
  | v :: _ =>
    (match if s.mayMove v core then s.stealable v core (s.core core).asked else none with
    | some (r, i) => .next ((s.takeDeque v i).after 0 (.stealReply core (some { r with again := false })))
    | none => .next (s.after 0 (.stealReply core none)))
  | [] => .next (s.modCore core fun c => { c with stealing := false })

/-- `STEAL_REPLY` (R294): a granted record is dispatched here, or goes back where the core has become one of C (R203); a core that is no
longer idle stops asking, and after the last refusal it waits 1,024 cycles.
Log 46 (DEDUCED, unsafe). -/
def execStealReply (core : Nat) (r : Option RecCopy) (s : State) : Host.Outcome State Fault Refusal :=
  let stop := fun s : State => s.modCore core fun c => { c with stealing := false, victims := [] }
  match r with
  | some r =>
    if s.isDetCore core then .next (stop (s.putBack ((s.core core).victims.headD core) r))
    else .next ((stop s).modCore core fun c => { c with granted := some r })
  | none =>
    let rest := (s.core core).victims.drop 1
    if rest.isEmpty then
      .next ((s.modCore core fun c => { c with victims := [], backoff := some (s.cycle + 1024) }).after 1024 (.stealBackoffEnd core))
    else if !s.idle core then .next (stop s)
    else .next (s.askVictim core rest)

/-- `STEAL_BACKOFF_END` (R294). -/
def execStealBackoffEnd (core : Nat) (s : State) : Host.Outcome State Fault Refusal :=
  .next (s.modCore core fun c => { c with stealing := false, backoff := none })

end Sys2Proof.Machine
end

