-- ==== Sys2Proof/Machine/Seq.lean ====
section
/-!
DEFINITION. The wave sequencer's own data (R261 to R263, R308 to R320, R324): handles, the layout of a context store, its
accesses, versions and leases, waves and what they decide, records and their places, input windows, and pushes.
-/
namespace Sys2Proof.Machine

/-! Handles and layout. -/

/-- The open context of a handle, with its die and descriptor place (R309); none for one of another partition. -/
def State.ctxOf (s : State) (part h : Nat) : Option (Nat × Nat × Ctx) :=
  let die := h / 4096 % 8
  match smGet (s.die die).ctxs (h % 4096) with
  | some c => if c.handle.toNat = h && c.part == part then some (die, h % 4096, c) else none
  | none => none

/-- Changes an open context. -/
def State.modCtx (s : State) (die idx : Nat) (f : Ctx → Ctx) : State :=
  match smGet (s.die die).ctxs idx with
  | some c => s.modDie die fun d => { d with ctxs := smSet d.ctxs idx (f c) }
  | none => s

/-- The handle in the upper half of an operand (R327).
Log 54 (DESIGN CHOICE, unsafe). -/
def handleOf (v : Dword) : Nat := (v.extractLsb' 32 32).toNat

/-- n rounded up to a multiple of 128. -/
def up128 (n : Nat) : Nat := (n + 127) / 128 * 128

/-- The smallest power of two that is at least x and n, with fuel. -/
def pow2From (x n : Nat) : Nat → Nat
  | 0 => x
  | k + 1 => if n ≤ x then x else pow2From (2 * x) n k

/-- B of a context (R308). -/
def Ctx.b (c : Ctx) : Nat := 2 ^ c.lgb
/-- Bytes of a frame copy, F (R310). -/
def Ctx.f (c : Ctx) : Nat := pow2From 128 (c.b * (2 * c.width + 64 * c.dk + 64 * c.dv) + 128 * c.dk) 24
/-- Bytes of a row of hidden states. -/
def Ctx.row (c : Ctx) : Nat := 2 * c.width
/-- Bytes of an input window. -/
def Ctx.window (c : Ctx) : Nat := (c.b + 1) * c.row
/-- Bytes of a record place, P (R310). -/
def Ctx.p (c : Ctx) : Nat := 128 + up128 c.window
/-- Bytes of the frames of a store. -/
def Ctx.frameBytes (c : Ctx) : Nat := (c.layers + 1) * c.cap * 2 * c.f
/-- Bytes of a chain image. -/
def Ctx.imageBytes (c : Ctx) : Nat := up128 (384 + 8 * c.cap)
/-- Bytes of a context store. -/
def Ctx.storeBytes (c : Ctx) : Nat :=
  c.frameBytes + 2 * c.imageBytes + up128 (4 * c.b * c.cap) + c.layers * c.cap * 2 * c.p

/-- The address of a chain image. -/
def Ctx.imageAddr (c : Ctx) (k : Nat) : Dword := c.store + BitVec.ofNat 64 (c.frameBytes + k * c.imageBytes)
/-- The token ids of a context's own store. -/
def Ctx.tokenBase (c : Ctx) : Dword := c.store + BitVec.ofNat 64 (c.frameBytes + 2 * c.imageBytes)
/-- The address of a frame copy (R310): in the store that the block lies in (R324). -/
def Ctx.frameAddr (c : Ctx) (layer phys copy : Nat) : Dword :=
  ((smGet c.shared phys).map (·.1)).getD c.store + BitVec.ofNat 64 ((phys * (c.layers + 1) + layer) * 2 * c.f + copy * c.f)
/-- The address of a token id. -/
def Ctx.tokenAddr (c : Ctx) (phys slot : Nat) : Dword :=
  ((smGet c.shared phys).map (·.2)).getD c.tokenBase + BitVec.ofNat 64 (4 * (c.b * phys + slot))
/-- The address of a record place (R310). -/
def Ctx.placeAddr (c : Ctx) (layer phys k : Nat) : Dword :=
  c.tokenBase + BitVec.ofNat 64 (up128 (4 * c.b * c.cap) + ((phys * c.layers + layer - 1) * 2 + k) * c.p)

/-- A frame's key. -/
def Ctx.frameKey (c : Ctx) (layer phys : Nat) : Nat := phys * (c.layers + 1) + layer
/-- A record place's key. -/
def Ctx.placeKey (c : Ctx) (layer phys k : Nat) : Nat := (phys * c.layers + layer - 1) * 2 + k
/-- The layer of a place's frame. -/
def Ctx.placeLayer (c : Ctx) (key : Nat) : Nat := key / 2 % c.layers + 1
/-- The physical block of a place's frame. -/
def Ctx.placePhys (c : Ctx) (key : Nat) : Nat := key / 2 / c.layers

/-- A frame without versions. -/
def Frame.blank : Frame := { v0 := none, v1 := none, l0 := 0, l1 := 0 }
/-- A frame of a context. -/
def Ctx.frame (c : Ctx) (layer phys : Nat) : Frame := smGetD c.frames (c.frameKey layer phys) Frame.blank

/-! The sequencer's accesses, through the translations it keeps (R309). -/

/-- Cuts n bytes at an address into pieces that each lie in one line, with fuel. -/
def pieces (va n : Nat) : Nat → List (Nat × Nat)
  | 0 => []
  | k + 1 => if n = 0 then [] else let m := Nat.min n (128 - va % 128); (va, m) :: pieces (va + m) (n - m) k

/-- Translates an address of a context's store. -/
def State.ctxAccess (s : State) (c : Ctx) (va : Dword) (n : Nat) : Option Access :=
  match c.trans.find? fun e => e.page == va.toNat / 2 ^ e.bits with
  | some e => (match s.applyXlate e va n false false 0x0000FF00#32 with | .ok a => some a | _ => none)
  | none => none

/-- Reads bytes of a context's store; one that does not translate any more reads zero. -/
def State.ctxRead (s : State) (die : Nat) (c : Ctx) (va : Dword) (n : Nat) : List Byte :=
  (pieces va.toNat n n).flatMap fun x =>
    match s.ctxAccess c (BitVec.ofNat 64 x.1) x.2 with
    | some a => leBytes x.2 (lineNat (s.dieValue die a.homeDie a.line) (a.pa % 128) x.2)
    | none => List.replicate x.2 0

/-- Writes bytes of a context's store, as direct writes (R226).
Log 55 (DEDUCED, unsafe). -/
def State.ctxWrite (s : State) (c : Ctx) (va : Dword) (l : List Byte) : State :=
  (pieces va.toNat l.length l.length).foldl
    (fun s x => match s.ctxAccess c (BitVec.ofNat 64 x.1) x.2 with
      | some a => s.writeHome a.homeDie (lineWriteOf a.pa x.2 (leNat ((l.drop (x.1 - va.toNat)).take x.2)))
      | none => s) s

/-- The translation that an agent of a core finds for an address (R370). -/
def State.entryNow (s : State) (core part space : Nat) (va : Dword) : Option TlbEntry :=
  match tlbFind (s.core core).tlb part space va with
  | some e => some e
  | none =>
    match tlbFind (s.cluster (clusterOf core)).tlb part space va with
    | some e => some e
    | none =>
      match s.walkAll (dieOf core) 25 (s.walkStart (dieOf core) (Walk.new part space va [])) with
      | .done e => some e
      | _ => none

/-- The translations of every page of a range, if all of it translates (R309); with fuel for the pages. -/
def State.transRange (s : State) (core part space : Nat) (store user : Bool) (va n : Nat) : Nat → Option (List TlbEntry)
  | 0 => some []
  | k + 1 =>
    if n = 0 then some []
    else match s.entryNow core part space (BitVec.ofNat 64 va) with
      | none => none
      | some e =>
        (match s.applyXlate e (BitVec.ofNat 64 va) 1 store user 0x0000FF00#32 with
        | .ok _ =>
          let m := Nat.min n (2 ^ e.bits - va % 2 ^ e.bits)
          (s.transRange core part space store user (va + m) (n - m) k).map fun l => e :: l
        | _ => none)

/-! Versions (R261, R262). -/

/-- Whether a version is older than another: by stamp, and by order of commit for equal stamps. -/
def Ver.older (a b : Ver) : Bool := decide (a.stamp < b.stamp) || (a.stamp == b.stamp && decide (a.ord < b.ord))

/-- The version that a copy holds. -/
def Frame.ver (f : Frame) (k : Nat) : Option Ver := if k = 0 then f.v0 else f.v1

/-- Leases on a copy. -/
def Frame.leased (f : Frame) (k : Nat) : Nat := if k = 0 then f.l0 else f.l1

/-- The newest version that satisfies a test, and its copy. -/
def Frame.best (f : Frame) (ok : Ver → Bool) : Option (Nat × Ver) :=
  match f.v0.filter ok, f.v1.filter ok with
  | some a, some b => if a.older b then some (1, b) else some (0, a)
  | some a, none => some (0, a)
  | none, some b => some (1, b)
  | none, none => none

/-- The copy that a new version goes to: the one that does not hold the newest (R313, R319). -/
def Frame.target (f : Frame) : Nat :=
  match f.best fun _ => true with
  | some (k, _) => 1 - k
  | none => 0

/-- The version that a read selects (R262): mode 2 the newest, otherwise the newest with stamp at most S.
Log 56 (DEDUCED, unsafe). -/
def Frame.select (f : Frame) (mode stamp : Nat) : Option (Nat × Ver) :=
  f.best fun v => mode == 2 || decide (v.stamp ≤ stamp)

/-- Sets the version of a copy. -/
def Frame.setVer (f : Frame) (k : Nat) (v : Option Ver) : Frame := if k = 0 then { f with v0 := v } else { f with v1 := v }

/-- Adds a lease to a copy. -/
def Frame.addLease (f : Frame) (k : Nat) : Frame := if k = 0 then { f with l0 := f.l0 + 1 } else { f with l1 := f.l1 + 1 }

/-- Changes a frame of a context. -/
def Ctx.modFrame (c : Ctx) (layer phys : Nat) (g : Frame → Frame) : Ctx :=
  { c with frames := smSet c.frames (c.frameKey layer phys) (g (c.frame layer phys)) }

/-- Whether an image is older than another (R312): one that is not valid is the oldest, and of two with one version the one written first. -/
def Image.older (a b : Image) : Bool :=
  if a.valid != b.valid then b.valid
  else decide (a.version < b.version) || (a.version == b.version && decide (a.ord < b.ord))

/-- The newer image of a context. -/
def Ctx.newest (c : Ctx) : Image := if c.img0.older c.img1 then c.img1 else c.img0

/-- The chain that serves a stamp (R312), with the image that holds it. -/
def Ctx.imageFor (c : Ctx) (stamp : Nat) : Option Image :=
  let ok := fun i : Image => i.valid && decide (i.version ≤ stamp)
  if ok c.newest then some c.newest
  else if ok c.img0 then some c.img0
  else if ok c.img1 then some c.img1
  else none

/-- Tokens of a chain. -/
def chainTotal (l : List ChainEnt) : Nat := l.foldl (fun n e => n + e.fill) 0

/-- The entry that holds a position, and the slot (R312); a position at the total lies behind the last block (R314). -/
def chainFind : List ChainEnt → Nat → Nat → Option (Nat × Nat)
  | [], _, _ => none
  | [e], pos, j => if pos ≤ e.fill then some (j, pos) else none
  | e :: t, pos, j => if pos < e.fill then some (j, pos) else chainFind t (pos - e.fill) (j + 1)

/-! Waves (R316). -/

/-- The status of a frame in a wave. -/
def Wave.at (w : Wave) (layer j : Nat) : Nat := smGetD w.st (65536 * layer + j) 0
/-- Sets the status of a frame. -/
def Wave.put (w : Wave) (layer j x : Nat) : Wave := { w with st := smSet w.st (65536 * layer + j) x }
/-- Whether a frame is decided and, if dirty, reported. -/
def frameDone (x : Nat) : Bool := x == 1 || x == 3 || x == 4

/-- The chain index of a block in a wave. -/
def Wave.indexOf (w : Wave) (phys : Nat) : Option Nat := w.chain.findIdx? fun e => e.phys == phys

/-- The status of a frame in the wave of a stamp; a wave that has ended has decided every frame. -/
def Ctx.status (c : Ctx) (stamp layer j : Nat) : Nat :=
  match c.waves.find? fun w => w.stamp == stamp with
  | some w => w.at layer j
  | none => 1

/-- Whether a frame has, for some stamp up to S, an unreported recompute or an undecided dirtiness (R261, R315, R316). -/
def Ctx.unreported (c : Ctx) (layer phys stamp : Nat) : Bool :=
  layer != 0
    && (c.waves.any (fun w => decide (w.stamp ≤ stamp) && (match w.indexOf phys with
        | some j => !frameDone (w.at layer j)
        | none => false))
      || c.places.any fun p => c.placeLayer p.1 == layer && c.placePhys p.1 == phys && decide (p.2.stamp ≤ stamp)
        && p.2.st != .prepared)

/-- Decides one frame of a wave, if it can be decided (R316). -/
def Wave.decide (w : Wave) (layer j : Nat) : Wave :=
  if w.at layer j ≠ 0 then w
  else
    let prev := (List.range (j + 1)).map fun i => w.at (layer - 1) i
    if prev.any (· == 3) then w.put layer j 2 else if prev.all (fun x => x == 1 || x == 4) then w.put layer j 1 else w

/-- Whether a block is in the current chain of a context. -/
def Ctx.inChain (c : Ctx) (phys : Nat) : Bool := c.chain.any fun e => e.phys == phys

/-- Whether a frame has a record of a stamp. -/
def Ctx.hasRecord (c : Ctx) (stamp layer phys : Nat) : Bool :=
  c.places.any fun p => c.placeLayer p.1 == layer && c.placePhys p.1 == phys && p.2.stamp == stamp

/-- Decides what can be decided in a wave, layer by layer; a dirty frame that has left the chain without a record counts as
reported unmoved (R319). -/
def Ctx.decideWave (c : Ctx) (w : Wave) : Wave :=
  (List.range c.layers).foldl
    (fun w i => (w.chain.zipIdx).foldl
      (fun w x =>
        let w1 := w.decide (i + 1) x.2
        if w1.at (i + 1) x.2 == 2 && !c.inChain x.1.phys && !c.hasRecord w.stamp (i + 1) x.1.phys then w1.put (i + 1) x.2 4
        else w1) w) w

/-- Whether a wave has ended (R316). -/
def Ctx.waveOver (c : Ctx) (w : Wave) : Bool :=
  (List.range c.layers).all fun i => (List.range w.chain.length).all fun j => frameDone (w.at (i + 1) j)

/-- The dirty bit of a chain index of the current chain (R315). -/
def Ctx.dirtyBit (c : Ctx) (layer j : Nat) : Bool :=
  match c.chain[j]? with
  | some e => c.unreported layer e.phys (2 ^ 48)
  | none => false

/-- Frees the places of records that are not needed (R318): no predecessor names them any longer, and their frame is decided
clean; the record that such a one names at +8 is then named by no one. With fuel. -/
def Ctx.discardClean (c : Ctx) : Nat → Ctx
  | 0 => c
  | n + 1 =>
    match c.places.find? fun p =>
      p.2.st == .prepared && !p.2.byPred && c.status p.2.stamp (c.placeLayer p.1) p.2.j == 1 with
    | none => c
    | some (k, p) =>
      let layer := c.placeLayer k
      let phys := c.placePhys k
      let next := fun (i : Nat) (x : Place) =>
        if c.placeLayer i == layer + 1 && c.placePhys i == phys && x.stamp == p.stamp && x.st == .prepared then
          { x with byPred := false }
        else x
      ({ c with places := smMap next (smDel c.places k) } : Ctx).discardClean n

/-! Blocks (R314, R324). -/

/-- The blocks that a context refers to: its chains, its waves that are in flight, its records and its leases. -/
def Ctx.refs (c : Ctx) : List Nat :=
  let img := fun i : Image => if i.valid then i.chain.map (·.phys) else []
  c.chain.map (·.phys) ++ img c.img0 ++ img c.img1 ++ c.waves.flatMap (fun w => w.chain.map (·.phys))
    ++ c.places.map (fun p => c.placePhys p.1)
    ++ (c.frames.filter fun p => p.2.l0 + p.2.l1 != 0).map fun p => p.1 / (c.layers + 1)

/-- Whether another context of the die refers to the block at a frame address, in a store of the same partition and space.
Log 53 (DEDUCED, unsafe). -/
def State.sharedWith (s : State) (die idx : Nat) (c : Ctx) (phys : Nat) : Bool :=
  (s.die die).ctxs.any fun p =>
    p.1 != idx && p.2.part == c.part && p.2.space == c.space
      && p.2.refs.any fun q => p.2.frameAddr 0 q 0 == c.frameAddr 0 phys 0

/-- The lowest physical block of a context that nothing refers to (R314).
Log 64 (DEDUCED, unsafe). -/
def State.freeBlock (s : State) (die idx : Nat) (c : Ctx) : Option Nat :=
  let own := { c with shared := [] }
  let used := c.refs
  (List.range c.cap).find? fun p => !used.contains p && !s.sharedWith die idx own p

/-- The contexts of a die that see a frame's block: descriptor place, context and block. -/
def State.sharers (s : State) (die : Nat) (c : Ctx) (phys : Nat) : List (Nat × Ctx × Nat) :=
  (s.die die).ctxs.filterMap fun p =>
    if p.2.part == c.part && p.2.space == c.space then
      (p.2.refs.find? fun q => p.2.frameAddr 0 q 0 == c.frameAddr 0 phys 0).map fun q => (p.1, p.2, q)
    else none

/-- Whether a frame is settled for a stamp (R261): no recompute of it remains unreported, here or, from before this context was forked, in
another context that sees it (R324).
Log 53 (DEDUCED, unsafe). -/
def State.settled (s : State) (die idx : Nat) (c : Ctx) (layer phys stamp : Nat) : Bool :=
  decide (stamp ≤ c.counter) && !c.unreported layer phys stamp
    && (s.sharers die c phys).all fun x => x.1 == idx || !x.2.1.unreported layer x.2.2 (Nat.min stamp c.born)

/-- Gives a version to a copy of a frame, in every context that sees it. -/
def State.setVersion (s : State) (die : Nat) (c : Ctx) (layer phys k : Nat) (v : Option Ver) : State :=
  (s.sharers die c phys).foldl (fun s x => s.modCtx die x.1 fun c => c.modFrame layer x.2.2 fun f => f.setVer k v) s

/-- The leases on a copy of a frame, through every context that sees it (R263).
Log 57 (DEDUCED, safe). -/
def State.leases (s : State) (die : Nat) (c : Ctx) (layer phys k : Nat) : Nat :=
  (s.sharers die c phys).foldl (fun n x => n + (x.2.1.frame layer x.2.2).leased k) 0

/-- Whether a copy of a frame is leased. -/
def State.copyLeased (s : State) (die : Nat) (c : Ctx) (layer phys k : Nat) : Bool := s.leases die c layer phys k != 0

/-- A chain image in bytes (R312). -/
def imageBytesOf (i : Image) : List Byte :=
  let hd := leBytes 8 (i.version + i.valid.toNat * 2 ^ 63) ++ leBytes 4 i.chain.length ++ leBytes 4 (chainTotal i.chain)
    ++ List.replicate 48 0
  let sg := leBytes 4 i.segs.length ++ i.segs.flatMap fun g => leBytes 4 g.first ++ g.factors.flatMap fun x => leBytes 4 x.toNat
  let es := (i.chain.foldl (fun (a : List Byte × Nat) e =>
    (a.1 ++ leBytes 8 (a.2 + e.phys * 2 ^ 32 + e.fill * 2 ^ 48), a.2 + e.fill)) ([], 0)).1
  let top := hd ++ sg
  top ++ List.replicate (384 - top.length) 0 ++ es

/-- Writes the current chain into the image with the older version (R312). -/
def State.writeImage (s : State) (die idx : Nat) (version : Nat) : State :=
  match smGet (s.die die).ctxs idx with
  | none => s
  | some c =>
    let first := !c.img0.valid || (c.img1.valid && c.img0.older c.img1)
    let i : Image := { valid := true, version, ord := c.newest.ord + 1, chain := c.chain, segs := c.segs }
    (s.ctxWrite c (c.imageAddr (!first).toNat) (imageBytesOf i)).modCtx die idx fun c =>
      if first then { c with img0 := i } else { c with img1 := i }

/-- Puts block q in the place of block p in a chain. -/
def chainSwap (p q : Nat) (l : List ChainEnt) : List ChainEnt := l.map fun e => if e.phys = p then { e with phys := q } else e

/-- Whether a block is shared, and a record of this context for it is outstanding: it is not replaced before that record has been reported.
Log 64 (DEDUCED, unsafe). -/
def State.blockBusy (s : State) (die idx : Nat) (c : Ctx) (phys : Nat) : Bool :=
  s.sharedWith die idx c phys && c.places.any fun p => c.placePhys p.1 == phys

/-- Takes a private block in the place of a shared one (R324): its token ids and each layer's newest version are copied, and the
current chain and the waves in flight name it; the image that names it is left to be written. Gives none when no block is free.
Log 64 (DEDUCED, unsafe). -/
def State.takePrivate (s : State) (die idx phys : Nat) : State × Option Nat :=
  match smGet (s.die die).ctxs idx with
  | none => (s, none)
  | some c =>
    if !s.sharedWith die idx c phys then (s, some phys)
    else match s.freeBlock die idx c with
      | none => (s, none)
      | some q =>
        let own := { c with shared := smDel c.shared q }
        let s1 := s.ctxWrite c (own.tokenAddr q 0) (s.ctxRead die c (c.tokenAddr phys 0) (4 * c.b))
        let step := fun (s : State) (layer : Nat) =>
          match (c.frame layer phys).best fun _ => true with
          | some (k, v) =>
            (s.ctxWrite c (own.frameAddr layer q 0) (s.ctxRead die c (c.frameAddr layer phys k) c.f)).modCtx die idx fun c =>
              { c with frames := smSet c.frames (c.frameKey layer q) { Frame.blank with v0 := some v } }
          | none => s.modCtx die idx fun c => { c with frames := smDel c.frames (c.frameKey layer q) }
        let s2 := (List.range (c.layers + 1)).foldl step (s1.modCtx die idx fun c => { c with shared := smDel c.shared q })
        let swap := chainSwap phys q
        (s2.modCtx die idx fun c =>
          { c with chain := swap c.chain, waves := c.waves.map fun w => { w with chain := swap w.chain } }, some q)

/-! Records (R317). -/

/-- The entry of a layer. -/
def Ctx.layerEnt (c : Ctx) (layer : Nat) : Option LayerEnt := c.table[layer - 1]?

/-- A free record place of a frame. -/
def Ctx.freePlace (c : Ctx) (layer phys : Nat) : Option Nat :=
  if (smGet c.places (c.placeKey layer phys 0)).isNone then some 0
  else if (smGet c.places (c.placeKey layer phys 1)).isNone then some 1
  else none

/-- The record of a frame (R317). -/
def Ctx.recordBits (c : Ctx) (e : LayerEnt) (stamp layer phys : Nat) (addr : Dword) : BitVec 512 :=
  BitVec.ofNat 512
    (e.entry.toNat + e.flags.toNat * 2 ^ 32 + (stamp * 2 ^ 16 + layer * 2 ^ 8) % 2 ^ 64 * 2 ^ 64 + phys * 2 ^ 128
      + (addr + 64).toNat * 2 ^ 192 + (addr + 128).toNat * 2 ^ 256 + (e.fpo.toNat * 2 ^ 24 + c.window) % 2 ^ 48 * 2 ^ 320
      + e.fmt.toNat * 2 ^ 384 + e.scl.toNat * 2 ^ 448)

/-- The argument area of a record (R317). -/
def Ctx.argBytes (c : Ctx) (stamp layer j : Nat) (succ : Dword) : List Byte :=
  let h := c.handle.toNat * 2 ^ 32
  leBytes 8 (h + layer * 2 ^ 16 + j) ++ leBytes 8 succ.toNat ++ leBytes 8 stamp
    ++ leBytes 8 (h + (layer - 1) * 2 ^ 24 + (layer - 1) * 2 ^ 16 + j) ++ List.replicate 32 0

/-- Prepares the record of a frame in a free place, and in the same step the one that it names at +8 (R317); gives its address.
With fuel for the layers. -/
def State.prepare (s : State) (die idx stamp j phys : Nat) (byPred : Bool) : Nat → Nat → State × Option Dword
  | 0, _ => (s, none)
  | n + 1, layer =>
    match smGet (s.die die).ctxs idx with
    | none => (s, none)
    | some c =>
      match c.layerEnt layer, c.freePlace layer phys with
      | some e, some k =>
        if c.hasRecord stamp layer phys then (s, none)
        else
          let addr := c.placeAddr layer phys k
          let r : RecCopy := { addr, bits := c.recordBits e stamp layer phys addr, faulted := false, again := false }
          let x : Place := { stamp, j, task := r, byPred, window := false, st := .prepared }
          let s1 := s.modCtx die idx fun c => { c with places := smSet c.places (c.placeKey layer phys k) x }
          let (s2, nx) :=
            if layer < c.layers && ((c.layerEnt (layer + 1)).map (·.die)) == some e.die then
              s1.prepare die idx stamp j phys true n (layer + 1)
            else (s1, none)
          (s2.ctxWrite c addr (leBytes 64 r.bits.toNat ++ c.argBytes stamp layer j (nx.getD 0)), some addr)
      | _, _ => (s, none)

/-- Prepares the records of a wave's dirty frames that have none (R317), taking private blocks first (R324). -/
def State.prepareWave (s : State) (die idx : Nat) (w : Wave) : State :=
  ((List.range w.chain.length).flatMap fun j =>
      ((List.range ((smGet (s.die die).ctxs idx).map (·.layers) |>.getD 0)).map fun i => (i + 1, j))).foldl
    (fun s x =>
      match smGet (s.die die).ctxs idx with
      | none => s
      | some c =>
        match (c.waves.find? fun v => v.stamp == w.stamp) with
        | none => s
        | some v =>
          match v.chain[x.2]? with
          | none => s
          | some e =>
            if v.at x.1 x.2 == 2 && !c.hasRecord w.stamp x.1 e.phys && !s.blockBusy die idx c e.phys then
              match s.takePrivate die idx e.phys with
              | (s1, some q) =>
                let s2 := if q = e.phys then s1 else s1.writeImage die idx c.newest.version
                (s2.prepare die idx w.stamp x.2 q false (c.layers + 1) x.1).1
              | (s1, none) => s1
            else s) s

/-- Cycles of one way to a sequencer and of the way back (R352). -/
def seqWay (core die : Nat) : Nat := latDie (dieOf core) die / 2

/-- Sends the answer of a sequencer to a thread that waits for a request of a kind. -/
def State.seqAnswer (s : State) (w : Option Who) (op : SeqOp) (die : Nat) (val : Dword) : State :=
  match w with
  | none => s
  | some w =>
    match s.waitOf w with
    | some (.seq op' d _ _) =>
      if op' = op then
        (s.modThread w fun t => { t with run := .waiting (.answer [(d, val)]) s.cycle }).afterFree
          (latDie (dieOf w.core) die - seqWay w.core die - 1) (.agentAnswer w)
      else s
    | _ => s

/-- The request that an edit answers. -/
def editOp : EditKind → SeqOp
  | .ins => .ins
  | .del => .del
  | .chg => .chg
  | .rope => .rope

/-- Whether the layer-1 records of a wave are all prepared (R313). -/
def Ctx.layer1Ready (c : Ctx) (stamp : Nat) : Bool :=
  match c.waves.find? fun w => w.stamp == stamp with
  | none => true
  | some w => w.chain.zipIdx.all fun x => w.at 1 x.2 != 2 || c.hasRecord stamp 1 x.1.phys

/-- Answers the edits of a context whose layer-1 records are prepared (R313). -/
def State.answerEdits (s : State) (die idx : Nat) : State :=
  match smGet (s.die die).ctxs idx with
  | none => s
  | some c =>
    let ready := fun x : Nat × EditReq => c.layer1Ready x.1
    (c.answers.filter ready).foldl (fun s x => s.seqAnswer x.2.w (editOp x.2.kind) die (BitVec.ofNat 64 x.1))
      (s.modCtx die idx fun c => { c with answers := c.answers.filter fun x => !ready x })

/-- What follows from every change at a context (R313, R316 to R318): frames are decided, needless records discarded, waves that are
over end, records are prepared, and edits answered. -/
def State.seqOn (s : State) (die idx : Nat) : State :=
  let s1 := s.modCtx die idx fun c =>
    let c1 := { c with waves := c.waves.map c.decideWave }
    let c2 := c1.discardClean (c1.places.length + 1)
    { c2 with waves := c2.waves.filter fun w => !c2.waveOver w }
  match smGet (s1.die die).ctxs idx with
  | none => s1
  | some c => (c.waves.foldl (fun s w => s.prepareWave die idx w) s1).answerEdits die idx

/-! Windows and pushes (R318). -/

/-- Whether every record of a frame for a smaller stamp has been reported (R318, R320). -/
def Ctx.olderDone (c : Ctx) (layer phys stamp : Nat) : Bool :=
  c.waves.all (fun w => decide (stamp ≤ w.stamp) || (match w.indexOf phys with
      | some j => frameDone (w.at layer j)
      | none => true))
    && c.places.all fun p =>
      !(c.placeLayer p.1 == layer && c.placePhys p.1 == phys && decide (p.2.stamp < stamp))

/-- The chain that a record of a stamp belongs to: its wave's, or the image that serves the stamp. -/
def Ctx.chainOf (c : Ctx) (stamp : Nat) : List ChainEnt :=
  match c.waves.find? fun w => w.stamp == stamp with
  | some w => w.chain
  | none => ((c.imageFor stamp).map (·.chain)).getD []

/-- Whether a record's input window can be assembled (R318). -/
def State.windowReady (s : State) (die idx : Nat) (c : Ctx) (key : Nat) (p : Place) : Bool :=
  let ch := c.chainOf p.stamp
  let ok := fun j => match ch[j]? with
    | some e => s.settled die idx c (c.placeLayer key - 1) e.phys p.stamp
    | none => true
  !p.window && ok p.j && (p.j == 0 || ok (p.j - 1))

/-- Rows of a frame as a prior read at a stamp selects them; zero where no version serves it. -/
def State.frameRows (s : State) (die : Nat) (c : Ctx) (layer phys stamp first n : Nat) : List Byte :=
  match (c.frame layer phys).select 0 stamp with
  | some (k, _) => s.ctxRead die c (c.frameAddr layer phys k + BitVec.ofNat 64 (first * c.row)) (n * c.row)
  | none => List.replicate (n * c.row) 0

/-- The key of a place that a `PlaceId` names. -/
def Ctx.keyOf (c : Ctx) (p : PlaceId) : Nat := c.placeKey p.layer p.phys p.k

/-- `WINDOW_ASSEMBLY` (R318): row 0 is the last token row of the frame before, then the B rows of the own input frame. -/
def execWindowAssembly (p : PlaceId) (s : State) : Host.Outcome State Fault Refusal :=
  match smGet (s.die p.die).ctxs p.idx with
  | none => .next s
  | some c =>
    match smGet c.places (c.keyOf p) with
    | none => .next s
    | some x =>
      if !s.windowReady p.die p.idx c (c.keyOf p) x then .next s
      else
        let ch := c.chainOf x.stamp
        let prev := if x.j = 0 then none else ch[x.j - 1]?
        let row0 := match prev with
          | some e => s.frameRows p.die c (p.layer - 1) e.phys x.stamp (e.fill - 1) 1
          | none => List.replicate c.row 0
        let fill := ((ch[x.j]?).map (·.fill)).getD 0
        let rows := s.frameRows p.die c (p.layer - 1) p.phys x.stamp 0 fill
        let s1 := s.ctxWrite c (x.task.addr + 128) (row0 ++ rows ++ List.replicate ((c.b - fill) * c.row) 0)
        .next (s1.modCtx p.die p.idx fun c => { c with places := smSet c.places (c.keyOf p) { x with window := true } })

/-- Whether a record can be pushed (R318): no predecessor names it, its window is there, its frame is dirty, and every record of
the frame for a smaller stamp has been reported.
Log 52 (DEDUCED, unsafe). -/
def Ctx.pushReady (c : Ctx) (key : Nat) (p : Place) : Bool :=
  p.st == .prepared && !p.byPred && p.window && c.status p.stamp (c.placeLayer key) p.j == 2
    && c.olderDone (c.placeLayer key) (c.placePhys key) p.stamp

/-- The core that a record of an index goes to (R318).
Log 52 (DEDUCED, unsafe). -/
def pushCore (e : LayerEnt) (j : Nat) : Nat :=
  let cl := (List.range 16).filter fun k => e.clusters.getLsbD k
  e.die * 256 + cl.getD (j / 16 % Nat.max 1 cl.length) 0 * 16 + j % 16

/-- `RECORD_PUSH` (R318): to the tail of the core's deque.
Log 52 (DEDUCED, unsafe). -/
def execRecordPush (p : PlaceId) (s : State) : Host.Outcome State Fault Refusal :=
  match smGet (s.die p.die).ctxs p.idx with
  | none => .next s
  | some c =>
    match smGet c.places (c.keyOf p), c.layerEnt p.layer with
    | some x, some e =>
      if c.pushReady (c.keyOf p) x && s.partOf (pushCore e x.j) == some c.part then
        .next ((s.modCtx p.die p.idx fun c =>
          { c with places := smSet c.places (c.keyOf p) { x with st := .pushed } }).placeLaunch (pushCore e x.j) x.task)
      else .next s
    | _, _ => .next s

/-! Commits and the records they name (R318, R319). -/

/-- The record place of a record of a partition's space: die, descriptor place, key and place. -/
def State.placeAt (s : State) (part space : Nat) (r : RecCopy) : Option (Nat × Nat × Nat × Place) :=
  s.dies.findSome? fun d =>
    d.2.ctxs.findSome? fun x =>
      if x.2.part == part && x.2.space == space then
        (x.2.places.find? fun p => p.2.task.addr == r.addr && p.2.task.bits == r.bits).map fun p => (d.1, x.1, p.1, p.2)
      else none

/-- Whether a record lies among the record places of an open context, and has been discarded from there (R319). -/
def State.recordGone (s : State) (part space : Nat) (r : RecCopy) : Bool :=
  (s.placeAt part space r).isNone && s.dies.any fun d => d.2.ctxs.any fun x =>
    x.2.part == part && x.2.space == space && decide ((x.2.placeAddr 1 0 0).toNat ≤ r.addr.toNat)
      && decide (r.addr.toNat < x.2.store.toNat + x.2.storeBytes)

/-- Whether a record that `retire.s` names may be handed on (R318, R319); one that lies in no context store may. -/
def State.handOnOk (s : State) (part space : Nat) (r : RecCopy) : Bool :=
  match s.placeAt part space r with
  | none => !s.recordGone part space r
  | some (die, idx, key, p) =>
    match smGet (s.die die).ctxs idx with
    | some c => p.st == .prepared && c.olderDone (c.placeLayer key) (c.placePhys key) p.stamp
    | none => true

/-- Whether a successor's window is assembled (R318). -/
def State.windowDoneAt (s : State) (part space : Nat) (r : RecCopy) : Bool :=
  match s.placeAt part space r with
  | some (_, _, _, p) => p.window
  | none => true

/-- `COMMIT_NOTICE` (R318) to a context, numbered 4,096 × die + descriptor place: the record that the committed one names at +8 is handed on
when it was named, and is otherwise named by no one. -/
def execCommitNotice (ctx : Nat) (recAddr : Dword) (succ : Option Dword) (s : State) : Host.Outcome State Fault Refusal :=
  let die := ctx / 4096
  let idx := ctx % 4096
  match (smGet (s.die die).ctxs idx).bind fun c => (c.places.find? fun p => p.2.task.addr == recAddr).map fun p => (c, p.1, p.2) with
  | none => .next s
  | some (c, key, p) =>
    let next := fun (i : Nat) (x : Place) =>
      if c.placeLayer i == c.placeLayer key + 1 && c.placePhys i == c.placePhys key && x.stamp == p.stamp && x.st == .prepared
          && x.byPred then
        if succ == some x.task.addr then { x with byPred := false, st := .named } else { x with byPred := false }
      else x
    .next ((s.modCtx die idx fun c => { c with places := smMap next c.places }).seqOn die idx)

/-- The frame that a report names, with its place (R319). -/
def Ctx.reported (c : Ctx) (r : ReportMsg) : Option (Nat × Place) :=
  c.places.find? fun p =>
    p.2.stamp == (r.tstamp.extractLsb' 16 48).toNat && c.placeLayer p.1 == (r.tstamp.extractLsb' 8 8).toNat
      && c.placePhys p.1 == r.lidx.toNat

/-- The task-mode groups that hold a lease on a frame, taken in prior mode at a stamp from v on (R320), by core and number. -/
def State.staleReaders (s : State) (die : Nat) (c : Ctx) (layer phys v : Nat) : List (Nat × Nat × Group) :=
  let hit := fun l : Lease => l.die == die && l.prior && decide (v ≤ l.stamp)
    && (s.sharers die c phys).any fun x => x.1 == l.idx && x.2.1.frameKey layer x.2.2 == l.frame
  s.cores.flatMap fun k => (k.2.groups.filter fun g => g.2.uncommitted && g.2.leases.any hit).map fun g => (k.1, g.1, g.2)

/-- Whether the commit of a moved report must wait (R263, R319, R320): for a lease on the copy it overwrites, or for a secure
task that read an older version. The leases of the committing group itself drop with its commit.
Log 57 (DEDUCED, safe). -/
def State.reportWaits (s : State) (r : ReportMsg) (own : List Lease) (me : Option (Nat × Nat)) : Bool :=
  match s.ctxOf r.part (handleOf r.opnd) with
  | none => false
  | some (die, idx, c) =>
    match c.reported r with
    | none => false
    | some (key, p) =>
      let layer := c.placeLayer key
      let phys := c.placePhys key
      let k := (c.frame layer phys).target
      let mine := (own.filter fun l => l.die == die && l.idx == idx && l.frame == c.frameKey layer phys && l.copy == k).length
      r.moved && c.inChain phys
        && ((s.sharers die c phys).any (fun x =>
            decide ((if x.1 = idx then mine else 0) < (x.2.1.frame layer x.2.2).leased k))
          || (s.staleReaders die c layer phys p.stamp).any fun g => g.2.2.secure && me != some (g.1, g.2.1))

/-- A commit of a task overwrites the copy that its moved report will name: the version that the copy held is gone.
Log 56 (DEDUCED, unsafe). -/
def State.spoilTarget (s : State) (r : ReportMsg) : State :=
  match s.ctxOf r.part (handleOf r.opnd) with
  | none => s
  | some (die, _, c) =>
    match c.reported r with
    | none => s
    | some (key, _) =>
      let layer := c.placeLayer key
      let phys := c.placePhys key
      if r.moved && c.inChain phys then s.setVersion die c layer phys (c.frame layer phys).target none else s

/-- A report takes effect (R319, R320): a moved one commits the version, and aborts the tasks that read an older one. -/
def State.applyReport (s : State) (die idx : Nat) (c : Ctx) (r : ReportMsg) (key : Nat) (p : Place) : State :=
  let layer := c.placeLayer key
  let phys := c.placePhys key
  let inCh := c.inChain phys
  let s1 :=
    if r.moved && inCh then
      let s' := (s.staleReaders die c layer phys p.stamp).foldl (fun s g => s.abortGroup g.1 g.2.1 false none) s
      (s'.setVersion die c layer phys (c.frame layer phys).target (some { stamp := p.stamp, ord := c.ord })).modCtx die idx
        fun c => { c with ord := c.ord + 1 }
    else s
  (s1.modCtx die idx fun c =>
    { c with
      places := smDel c.places key,
      waves := c.waves.map fun w => if w.stamp = p.stamp then w.put layer p.j (if r.moved then 3 else 4) else w }).seqOn die idx

/-- A request that a sequencer refuses: a trap in the thread that waits for it, or a detached cause for a held effect of a
committed task (R327, R385). -/
def State.seqRefuse (s : State) (w : Option Who) (op : SeqOp) (core cause : Nat) (tval : Dword) : State :=
  match w with
  | none => s.detach core cause tval none
  | some w =>
    match s.waitOf w, s.thread w with
    | some (.seq op' _ _ _), some t => if op' = op then s.takeTrap w cause tval t.pc else s
    | _, _ => s

/-- `DMAP_REPORT` (R319, R320): one that names no outstanding record is ignored; one whose commit must wait is kept. -/
def execDmapReport (r : ReportMsg) (s : State) : Host.Outcome State Fault Refusal :=
  match s.ctxOf r.part (handleOf r.opnd) with
  | none => .next (s.seqRefuse r.w .dmapMov r.core cCtxInvalid r.opnd)
  | some (die, idx, c) =>
    match c.reported r with
    | none =>
      .next ((s.modCtx die idx fun c => { c with reports := c.reports.filter (· != r) }).seqAnswer r.w .dmapMov die 0)
    | some (key, p) =>
      if s.reportWaits r [] none then
        .next (s.modCtx die idx fun c => if c.reports.contains r then c else { c with reports := c.reports ++ [r] })
      else
        .next (((s.modCtx die idx fun c => { c with reports := c.reports.filter (· != r) }).applyReport die idx
          { c with reports := c.reports.filter (· != r) } r key p).seqAnswer r.w .dmapMov die 0)

end Sys2Proof.Machine
end

