-- ==== Sys2Proof/Machine/Frames.lean ====
section
/-!
DEFINITION. `cp.frame` (R287), the meaning of a command's 256 bits (R87, R88), and the spans of the local store that a command reaches (R300).
-/
namespace Sys2Proof.Machine

/-- The PTB entry that a lookup hits (R322). -/
def Core.ptbFind (c : Core) (handle pos stamp : Nat) : Option PtbEntry :=
  c.ptb.find? fun e =>
    e.handle.toNat == handle && decide (e.first ≤ pos) && decide (pos < e.first + e.fill) && decide (e.vlo ≤ stamp)
      && decide (stamp ≤ e.vhi)

/-- Makes an entry the most recently used one. -/
def Core.ptbUse (c : Core) (e : PtbEntry) : Core := { c with ptb := e :: c.ptb.erase e }

/-! `cp.frame`. -/

/-- The offset and the bytes of a slot's row in a copy (R310). -/
def Ctx.rowPlace (c : Ctx) (part slot : Nat) : Nat × Nat :=
  if part = 0 then (slot * c.row, c.row)
  else if part = 1 then (c.b * c.row + slot * 64 * c.dk, 64 * c.dk)
  else (c.b * (c.row + 64 * c.dk) + slot * 64 * c.dv, 64 * c.dv)

/-- Reads a run of global bytes, line by line. -/
def ldRun (va n : Nat) : EM (List Byte) := do
  let mut out : List Byte := []
  for x in pieces va n n do
    let v ← ldGlobal (BitVec.ofNat 64 x.1) x.2
    out := out ++ leBytes x.2 v
  pure out

/-- Writes bytes, a multiple of 4, to the local store. -/
def stRun (off : Nat) (l : List Byte) : EM Unit := do
  for i in List.range (l.length / 4) do stLocal (off + 4 * i) 4 (leNat ((l.drop (4 * i)).take 4))

/-- The version that a position of `cp.frame` reads (R287), as one number: its stamp plus one, above the n bytes of its row; 0 where no
retained version meets the mode. -/
def frameVer (c : Ctx) (layer part' pos stamp mode n : Nat) : EM Nat := do
  match c.imageFor stamp with
  | none => pure 0
  | some i =>
    demand (decide (pos < chainTotal i.chain)) cEditRange
    match (← theCore).ptbFind c.handle.toNat pos stamp with
    | none => waitFor (.row pos)
    | some e =>
      modify fun x => { x with s := x.s.modCore x.core fun k => k.ptbUse e }
      match (c.frame layer e.phys).select mode stamp with
      | none => pure 0
      | some (copy, ver) =>
        let l ← ldRun ((c.frameAddr layer e.phys copy).toNat + (c.rowPlace part' (pos - e.first)).1) n
        pure (leNat l + 2 ^ (8 * n) * (ver.stamp + 1))

/-- One position of `cp.frame` (R287): the row is read in one cycle, as its lease would keep it (R263).
Log 62 (DEDUCED, unsafe). -/
def frameRow (c : Ctx) (layer part' pos stamp mode dst : Nat) (st : Option Nat) : EM Unit := do
  let n := (c.rowPlace part' 0).2
  let v ← oneCycle (frameVer c layer part' pos stamp mode n)
  let ver := v / 2 ^ (8 * n)
  stRun dst (leBytes n (v % 2 ^ (8 * n)))
  match st with
  | some o => do
    stLocal o 4 ((ver - 1) % 2 ^ 32)
    stLocal (o + 4) 4 (if ver = 0 then 0x41000000 else (ver - 1) / 2 ^ 32)
  | none => pure ()

/-- Whether the frame of a position is settled for a stamp, which the counter has reached (R261, R262); where the position has none, there is
nothing to wait for. -/
def State.settledAt (s : State) (die idx : Nat) (c : Ctx) (layer pos stamp : Nat) : Bool :=
  decide (stamp ≤ c.counter) && (match c.imageFor stamp with
    | none => true
    | some i =>
      match chainFind i.chain pos 0 with
      | some (k, _) => (match i.chain[k]? with
        | some e => s.settled die idx c layer e.phys stamp
        | none => true)
      | none => true)

/-- `CP_FRAME` (R287).
Log 62 (DEDUCED, unsafe). -/
def workFrame (slot layer part' pos cnt stamp mode dst st : Nat) : EM Nat := do
  let cmd ← theCmd
  let core ← theCore
  let stat := st != 0xFFFFFFFF
  demand (part' != 3 && mode != 3 && decide (1 ≤ cnt) && decide (cnt ≤ 65536) && decide (dst % 4 = 0)
    && (!stat || decide (st % 4 = 0))) cCmdMalformed
  let h ← look (pure (smGetD core.beam slot 0).toNat)
  match (← get).s.ctxOf cmd.part h with
  | none => throw (.fail cCtxInvalid)
  | some (die, idx, c) =>
    demand (decide (layer ≤ c.layers)) cCmdMalformed
    let n := (c.rowPlace part' 0).2
    inStore dst (cnt * n)
    if stat then inStore st (8 * cnt)
    let at' ← look (pure (if mode = 1 then stamp else Nat.min stamp c.counter))
    for j in List.range cnt do
      part do
        if mode = 1 && !(← get).s.settledAt die idx c layer (pos + j) at' then waitFor (.frames h)
        frameRow c layer part' (pos + j) at' mode (dst + j * n) (if stat then some (st + 8 * j) else none)
    pure (16 + cnt * n / 64)

/-- `CP_FRAME` (R287). -/
def execCpFrame (tag : Half) (slot : BitVec 6) (layer : Byte) (part : BitVec 2) (pos cnt : Word) (stamp : BitVec 48)
    (mode : BitVec 2) (dst st : Word) (s : State) : Host.Outcome State Fault Refusal :=
  let _ := tag
  runCommand .cp false s
    (workFrame slot.toNat layer.toNat part.toNat pos.toNat cnt.toNat stamp.toNat mode.toNat dst.toNat st.toNat)

/-! The meaning of a command's bits. -/

/-- The machine as a meaning sees and leaves it. -/
abbrev Meaning := State → Host.Outcome State Fault Refusal

/-- A command behind the check of what its layout leaves unused (R160). -/
def guardC (z : Bool) (m : Meaning) : Option Meaning := if z then some m else none

/-- The meaning of a command of engine 1, by operation (R88). -/
def runCmd1 (c : BitVec 256) : Option Meaning :=
  match (c.extractLsb' 20 8).toNat with
  | 0 => guardC (c.extractLsb' 50 14 == 0#14 && c.extractLsb' 46 2 == 0#2 && c.extractLsb' 35 5 == 0#5 && c.extractLsb' 17 3 == 0#3) (execMxMma (c.extractLsb' 0 16) (c.getLsbD 16) (c.getLsbD 49) (c.getLsbD 48) (c.extractLsb' 40 6) (c.extractLsb' 32 3) (c.extractLsb' 64 32) (c.extractLsb' 96 32) (c.extractLsb' 128 32) (c.extractLsb' 160 32) (c.extractLsb' 192 32) (c.extractLsb' 224 32))
  | 1 => guardC (c.extractLsb' 160 96 == 0#96 && c.extractLsb' 16 4 == 0#4) (execMxLdb (c.extractLsb' 0 16) (c.extractLsb' 32 64) (c.extractLsb' 96 32) (c.extractLsb' 128 32))
  | 2 => guardC (c.extractLsb' 128 128 == 0#128 && c.extractLsb' 52 12 == 0#12 && c.extractLsb' 46 2 == 0#2 && c.extractLsb' 35 5 == 0#5 && c.extractLsb' 17 3 == 0#3) (execMxLdt (c.extractLsb' 0 16) (c.getLsbD 16) (c.extractLsb' 48 4) (c.extractLsb' 40 6) (c.extractLsb' 32 3) (c.extractLsb' 64 32) (c.extractLsb' 96 32))
  | 3 => guardC (c.extractLsb' 240 16 == 0#16 && c.extractLsb' 52 12 == 0#12 && c.extractLsb' 46 2 == 0#2 && c.extractLsb' 35 5 == 0#5 && c.extractLsb' 19 1 == 0#1) (execMxStt (c.extractLsb' 0 16) (c.getLsbD 16) (c.getLsbD 17) (c.getLsbD 18) (c.extractLsb' 48 4) (c.extractLsb' 40 6) (c.extractLsb' 32 3) (c.extractLsb' 64 64) (c.extractLsb' 128 64) (c.extractLsb' 192 32) (c.extractLsb' 224 16))
  | 4 => guardC (c.extractLsb' 40 216 == 0#216 && c.extractLsb' 16 4 == 0#4) (execMxZero (c.extractLsb' 0 16) (c.extractLsb' 32 8))
  | 5 => guardC (c.extractLsb' 96 160 == 0#160 && c.extractLsb' 32 32 == 0#32 && c.extractLsb' 17 3 == 0#3) (execMxQk (c.extractLsb' 0 16) (c.getLsbD 16) (c.extractLsb' 64 32))
  | 6 => guardC (c.extractLsb' 96 160 == 0#160 && c.extractLsb' 35 29 == 0#29 && c.extractLsb' 17 3 == 0#3) (execMxPv (c.extractLsb' 0 16) (c.getLsbD 16) (c.extractLsb' 32 3) (c.extractLsb' 64 32))
  | _ => none

/-- The meaning of a command of engine 2, by operation (R88). -/
def runCmd2 (c : BitVec 256) : Option Meaning :=
  match (c.extractLsb' 20 8).toNat with
  | 0 => guardC (c.extractLsb' 17 3 == 0#3) (execVxMap (c.extractLsb' 0 16) (c.getLsbD 16) { n := c.extractLsb' 32 32, dst := c.extractLsb' 64 32, a := c.extractLsb' 96 32, b := c.extractLsb' 128 32, ctl := c.extractLsb' 160 32, x := c.extractLsb' 192 32, y := c.extractLsb' 224 32 })
  | 1 => guardC (c.extractLsb' 17 3 == 0#3) (execVxFma (c.extractLsb' 0 16) (c.getLsbD 16) { n := c.extractLsb' 32 32, dst := c.extractLsb' 64 32, a := c.extractLsb' 96 32, b := c.extractLsb' 128 32, ctl := c.extractLsb' 160 32, x := c.extractLsb' 192 32, y := c.extractLsb' 224 32 })
  | 2 => guardC (c.extractLsb' 17 3 == 0#3) (execVxRed (c.extractLsb' 0 16) (c.getLsbD 16) { n := c.extractLsb' 32 32, dst := c.extractLsb' 64 32, a := c.extractLsb' 96 32, b := c.extractLsb' 128 32, ctl := c.extractLsb' 160 32, x := c.extractLsb' 192 32, y := c.extractLsb' 224 32 })
  | 3 => guardC (c.extractLsb' 17 3 == 0#3) (execVxExpsum (c.extractLsb' 0 16) (c.getLsbD 16) { n := c.extractLsb' 32 32, dst := c.extractLsb' 64 32, a := c.extractLsb' 96 32, b := c.extractLsb' 128 32, ctl := c.extractLsb' 160 32, x := c.extractLsb' 192 32, y := c.extractLsb' 224 32 })
  | 4 => guardC (c.extractLsb' 17 3 == 0#3) (execVxNorm (c.extractLsb' 0 16) (c.getLsbD 16) { n := c.extractLsb' 32 32, dst := c.extractLsb' 64 32, a := c.extractLsb' 96 32, b := c.extractLsb' 128 32, ctl := c.extractLsb' 160 32, x := c.extractLsb' 192 32, y := c.extractLsb' 224 32 })
  | 5 => guardC (c.extractLsb' 17 3 == 0#3) (execVxRequant (c.extractLsb' 0 16) (c.getLsbD 16) { n := c.extractLsb' 32 32, dst := c.extractLsb' 64 32, a := c.extractLsb' 96 32, b := c.extractLsb' 128 32, ctl := c.extractLsb' 160 32, x := c.extractLsb' 192 32, y := c.extractLsb' 224 32 })
  | 6 => guardC (c.extractLsb' 112 16 == 0#16 && c.extractLsb' 17 3 == 0#3) (execVxCmpst (c.extractLsb' 0 16) (c.getLsbD 16) (c.extractLsb' 32 32) (c.extractLsb' 64 32) (c.extractLsb' 96 16) (c.extractLsb' 128 64) (c.extractLsb' 192 64))
  | 7 => guardC (c.extractLsb' 17 3 == 0#3) (execVxTopk (c.extractLsb' 0 16) (c.getLsbD 16) { n := c.extractLsb' 32 32, dst := c.extractLsb' 64 32, a := c.extractLsb' 96 32, b := c.extractLsb' 128 32, ctl := c.extractLsb' 160 32, x := c.extractLsb' 192 32, y := c.extractLsb' 224 32 })
  | 8 => guardC (c.extractLsb' 17 3 == 0#3) (execVxKsum (c.extractLsb' 0 16) (c.getLsbD 16) { n := c.extractLsb' 32 32, dst := c.extractLsb' 64 32, a := c.extractLsb' 96 32, b := c.extractLsb' 128 32, ctl := c.extractLsb' 160 32, x := c.extractLsb' 192 32, y := c.extractLsb' 224 32 })
  | 9 => guardC (c.extractLsb' 17 3 == 0#3) (execVxCvt (c.extractLsb' 0 16) (c.getLsbD 16) { n := c.extractLsb' 32 32, dst := c.extractLsb' 64 32, a := c.extractLsb' 96 32, b := c.extractLsb' 128 32, ctl := c.extractLsb' 160 32, x := c.extractLsb' 192 32, y := c.extractLsb' 224 32 })
  | _ => none

/-- The meaning of a command of engine 3, by operation (R88). -/
def runCmd3 (c : BitVec 256) : Option Meaning :=
  match (c.extractLsb' 20 8).toNat with
  | 0 => guardC (c.extractLsb' 224 32 == 0#32 && c.extractLsb' 19 1 == 0#1) (execCpCopy (c.extractLsb' 0 16) (c.getLsbD 16) (c.getLsbD 17) (c.getLsbD 18) (c.extractLsb' 32 64) (c.extractLsb' 96 64) (c.extractLsb' 160 32) (c.extractLsb' 192 32))
  | 1 => guardC (c.extractLsb' 19 1 == 0#1) (execCpGather (c.extractLsb' 0 16) (c.getLsbD 16) (c.getLsbD 17) (c.getLsbD 18) (c.extractLsb' 32 64) (c.extractLsb' 96 64) (c.extractLsb' 160 32) (c.extractLsb' 192 32) (c.extractLsb' 224 32))
  | 2 => guardC (c.extractLsb' 19 1 == 0#1) (execCpScatter (c.extractLsb' 0 16) (c.getLsbD 16) (c.getLsbD 17) (c.getLsbD 18) (c.extractLsb' 32 64) (c.extractLsb' 96 64) (c.extractLsb' 160 32) (c.extractLsb' 192 32) (c.extractLsb' 224 32))
  | 3 => guardC (c.extractLsb' 160 96 == 0#96 && c.extractLsb' 16 2 == 0#2) (execCpFill (c.extractLsb' 0 16) (c.getLsbD 18) (c.getLsbD 19) (c.extractLsb' 32 64) (c.extractLsb' 96 32) (c.extractLsb' 128 32))
  | 4 => guardC (c.extractLsb' 224 32 == 0#32 && c.extractLsb' 53 11 == 0#11 && c.extractLsb' 18 2 == 0#2) (execCpPut (c.extractLsb' 0 16) (c.getLsbD 16) (c.getLsbD 17) (c.extractLsb' 32 21) (c.extractLsb' 64 64) (c.extractLsb' 128 64) (c.extractLsb' 192 32))
  | 5 => guardC (c.extractLsb' 224 32 == 0#32 && c.extractLsb' 53 11 == 0#11 && c.extractLsb' 18 2 == 0#2) (execCpGet (c.extractLsb' 0 16) (c.getLsbD 16) (c.getLsbD 17) (c.extractLsb' 32 21) (c.extractLsb' 64 64) (c.extractLsb' 128 64) (c.extractLsb' 192 32))
  | 6 => guardC (c.extractLsb' 192 64 == 0#64 && c.extractLsb' 53 11 == 0#11 && c.extractLsb' 17 3 == 0#3) (execCpAmo (c.extractLsb' 0 16) (c.getLsbD 16) (c.extractLsb' 32 21) (c.extractLsb' 64 64) (c.extractLsb' 128 32) (c.extractLsb' 160 32))
  | 7 => guardC (c.extractLsb' 192 64 == 0#64 && c.extractLsb' 43 21 == 0#21 && c.extractLsb' 16 4 == 0#4) (execCpIst (c.extractLsb' 0 16) (c.extractLsb' 32 11) (c.extractLsb' 64 64) (c.extractLsb' 128 32) (c.extractLsb' 160 32))
  | 8 => guardC (c.extractLsb' 186 6 == 0#6 && c.extractLsb' 176 8 == 0#8 && c.extractLsb' 50 14 == 0#14 && c.extractLsb' 38 2 == 0#2 && c.extractLsb' 16 4 == 0#4) (execCpFrame (c.extractLsb' 0 16) (c.extractLsb' 32 6) (c.extractLsb' 40 8) (c.extractLsb' 48 2) (c.extractLsb' 64 32) (c.extractLsb' 96 32) (c.extractLsb' 128 48) (c.extractLsb' 184 2) (c.extractLsb' 192 32) (c.extractLsb' 224 32))
  | _ => none

/-- The meaning of a command's 256 bits (R87, R88). -/
def runCmd (c : BitVec 256) : Option Meaning :=
  match (c.extractLsb' 28 4).toNat with
  | 1 => runCmd1 c
  | 2 => runCmd2 c
  | 3 => runCmd3 c
  | _ => none

/-- Whether two spans of the local store meet. -/
def spansMeet (a b : List (Nat × Nat)) : Bool :=
  a.any fun x => b.any fun y => decide (x.1 < y.1 + y.2) && decide (y.1 < x.1 + x.2)

/-- The spans of the local store that a command reads or writes (R300): found by doing its work in a copy of the machine, as if every word it
waits for were there; where the work does not come to its end in that copy, the spans of its operands too.
Log 50 (DESIGN CHOICE, unsafe). -/
def State.spansOf (s : State) (core : Nat) (k : Engine) (c : Cmd) : List (Nat × Nat) :=
  let c' := { c with bits := c.bits &&& ~~~0x10000#256 }
  let s1 := s.modUnit core k fun u => { u with exec := some { s.newRunning c' with pace := none } }
  match runCmd c'.bits with
  | none => []
  | some m =>
    match m { s1 with cur := { core, slot := c.w.slot } } with
    | .next s2 =>
      (match ((s2.core core).unit k).exec with
      | some r => if r.begun && !r.remote then r.reach else r.reach ++ r.areas
      | none => [])
    | _ => []

/-- Whether an engine command of a predecessor holds its successor back (R300 step 3): it reads or writes tiles, or local words of the
predecessor's footprint.
Log 50 (DESIGN CHOICE, unsafe). -/
def State.holdsBack (s : State) (core : Nat) (k : Engine) (c : Cmd) (pins : List (Nat × Nat)) : Bool :=
  namesTile c.bits || (!pins.isEmpty && spansMeet pins (match ((s.core core).unit k).exec with
      | some r =>
        if r.cmd.seq != c.seq then s.spansOf core k c
        else if r.begun then r.reach ++ (if r.remote then r.areas else [])
        else r.reach ++ s.spansOf core k c
      | none => s.spansOf core k c))

/-- The engines of a core with a command of a predecessor group that holds its successor back (R300 step 3).
Log 50 (DESIGN CHOICE, unsafe). -/
def State.heldBackBy (s : State) (core gid : Nat) (pins : List (Nat × Nat)) : List Engine :=
  [Engine.mx, .vx, .cp].filter fun k => ((s.core core).unit k).all.any fun c => c.gid == gid && s.holdsBack core k c pins

end Sys2Proof.Machine
end

