-- ==== Sys2Proof/Machine/Commit.lean ====
section
/-!
DEFINITION. Tasks, opcode 0x2B (R203, R299, R337 to R342): pushes, sends and lists of records, the retirement of a thread and of
its group, the commit of a task (R224), its held effects (R229), and the start of a successor (R300 to R304).
-/
namespace Sys2Proof.Machine

/-! Pushing and sending records. -/

/-- Places a pushed record (R203, R338): on the fixed list of its core, or at the tail of the pushing core's deque; a held one whose det flag is
0 fails on a core that has become one of C (R385). -/
def State.pushRecord (s : State) (core : Nat) (r : RecCopy) : State := s.placeLaunch core r

/-- A record that a thread reads (R338): 64 bytes at a multiple of 64.
Log 43 (DEDUCED, unsafe). -/
def State.readRecord (s : State) (w : Who) (t : Thread) (va : Dword) : Except Res (State × RecCopy) :=
  if va.toNat % 64 ≠ 0 then .error (.trap cMisaligned va)
  else match s.gather w t va 64 1 with
    | .error r => .error r
    | .ok (s1, l) => .ok (s1, recordOf va l)

/-- `TASK_PUSH` (R338). -/
def execTaskPush (a : GReg) (s : State) : Host.Outcome State Fault Refusal :=
  issue (useG (enc (.taskPush a)) [a.toNat] [a.toNat] []) s fun s t rd =>
    let me := s.cur
    match s.readRecord me t (rd a.toNat) with
    | .error r => r
    | .ok (s1, r) =>
      if !r.isDet && s1.isDetCore me.core then .trap cReservedField (bitsOf (.taskPush a))
      else if (s1.taskOf me t).isSome then .done (s1.holdEffect me t (.push r))
      else .done (s1.pushRecord me.core r)

/-- `TASK_SEND` (R338): the copy travels as a launch of class 15. -/
def execTaskSend (a b : GReg) (s : State) : Host.Outcome State Fault Refusal :=
  issue (useG (enc (.taskSend a b)) [a.toNat, b.toNat] [a.toNat, b.toNat] []) s fun s t rd =>
    let me := s.cur
    let v := rd a.toNat
    let dst := (v.extractLsb' 0 11).toNat
    if v.extractLsb' 11 53 != 0#53 then .trap cReservedField (bitsOf (.taskSend a b))
    else if !(s.part t.part).spec.clusters.getLsbD (clusterOf dst) then .trap cPartitionViolation v
    else match s.readRecord me t (rd b.toNat) with
      | .error r => r
      | .ok (s1, r) =>
        let m : Msg := { src := me, origin := 0, dst, cls := 15, words := [r.addr], report := false, copy := some r }
        if !r.isDet && s1.isDetCore dst then .trap cReservedField (bitsOf (.taskSend a b))
        else if (s1.taskOf me t).isSome then .done (s1.holdEffect me t (.msg m))
        else .done (s1.sendMsg m)

/-- `TSTAMP` (R341): the timestamp of the oldest uncommitted task of the die. -/
def execTstamp (d : GReg) (s : State) : Host.Outcome State Fault Refusal :=
  issue (useG (enc (.tstamp d)) [d.toNat] [] [d.toNat]) s fun s _ _ =>
    let v := match oldestTask ((s.dieGroups (dieOf s.cur.core)).filter fun x => x.2.2.uncommitted) with
      | some x => x.2.2.tstamp
      | none => BitVec.allOnes 64
    .wait (s.afterFree 199 (.agentAnswer s.cur)) (.answer [(d.toNat, v)])

/-- Places the records of a list on fixed lists (R203, R342): one whose det flag is 0 is an invalid record.
Log 58 (DEDUCED, unsafe). -/
def State.placeList (s : State) (core : Nat) (a : Dword) : List Byte → Nat → State
  | _, 0 => s
  | l, n + 1 =>
    let r := recordOf a (l.take 64)
    let s1 := if r.isDet then s.placeFixed core r else s.detach core cReservedField a none
    s1.placeList core (a + 64) (l.drop 64) n

/-- Unloaded latency of a thread's load at an address (R23). -/
def State.loadLat (s : State) (w : Who) (t : Thread) (va : Dword) : Nat :=
  match placeOf w.core va with
  | .memory => (match s.xlate w t va 1 false t.mpol with | .ok a => s.readLat w.core a | _ => Config.latL2)
  | _ => Config.latL1

/-- `DET_LIST` (R342).
Log 58 (DEDUCED, unsafe). -/
def execDetList (a b : GReg) (s : State) : Host.Outcome State Fault Refusal :=
  issue (useG (enc (.detList a b)) [a.toNat, b.toNat] [a.toNat, b.toNat] []) s fun s t rd =>
    let me := s.cur
    let va := rd a.toNat
    let n := (rd b.toNat).toNat
    if s.notSecure me t then .retry .secure false
    else if va.toNat % 64 ≠ 0 then .trap cMisaligned va
    else if n = 0 ∨ 65536 < n then .trap cReservedField (bitsOf (.detList a b))
    else match s.gather me t va 64 n with
      | .error r => r
      | .ok (s1, l) =>
        let last := recordOf va (l.drop (64 * (n - 1)))
        let cs := s1.detCores t.part
        let dst := cs.getD (last.lidx.toNat % Nat.max 1 cs.length) me.core
        let lat := s.loadLat me t va + (n - 1) + 2 * latMsg (dieOf me.core) (dieOf dst) - 1
        .wait ((s1.placeList me.core va l n).afterFree lat (.agentAnswer me)) (.answer [])

/-! The end of a group. -/

/-- The threads that a group has in slots of its core. -/
def Core.members (c : Core) (gid : Nat) : List (Nat × Thread) := c.threads.filter fun p => p.2.gid == gid

/-- Whether a thread has retired (R339). -/
def Thread.hasRetired (t : Thread) : Bool :=
  match t.run with
  | .waiting .retired _ => true
  | _ => false

/-- Writes local words zero and full (R302). -/
def Core.zeroLocal (c : Core) (off : Nat) : Nat → Core
  | 0 => c
  | n + 1 => ((c.setLword (off / 4) 0).setFull (off / 4) true).zeroLocal (off + 4) n

/-- Writes the pinned ranges of a group zero and full (R302). -/
def Core.scrubPins (c : Core) (l : List (Nat × Nat)) : Core := l.foldl (fun c x => c.zeroLocal x.1 (x.2 / 4)) c

/-- Zeroes what a group's threads hold and its footprint, and frees its slots (R303). -/
def State.scrubGroup (s : State) (core gid : Nat) : State :=
  match s.group core gid with
  | none => s
  | some g =>
    let ts := (s.core core).members gid
    let s1 := s.modCore core fun c =>
      let c1 := (ts.foldl (fun c p =>
        { c with
          gfile := zeroRun c.gfile p.2.gbase (p.2.galloc - p.2.gbase),
          wfile := zeroRun c.wfile p.2.wbase p.2.wcount }) c).scrubPins g.pins
      { c1 with tiles := if g.holdsTiles then [] else c1.tiles }
    let s2 := ts.foldl (fun s p => s.freeSlot { core, slot := p.1 }) s1
    s2.modCore core fun c => { c with groups := smDel c.groups gid }

/-- Frees the slots of a group that ends with no successor, and forgets the group. -/
def State.endGroup (s : State) (core gid : Nat) : State :=
  (((s.core core).members gid).foldl (fun s p => s.freeSlot { core, slot := p.1 }) s).modCore core fun c =>
    { c with groups := smDel c.groups gid }

/-- Tells the sequencer of a record place that its record has been committed, and which successor it has named (R318): gives
whether the successor may be handed on. -/
def State.tellSequencer (s : State) (g : Group) : State × Bool :=
  let ok := match g.succ with
    | some (r, _) => s.handOnOk g.part g.space r
    | none => true
  match s.placeAt g.part g.space g.task with
  | some (die, idx, _, _) =>
    (s.after 0 (.commitNotice (4096 * die + idx) g.task.addr (if ok then g.succ.map fun x => x.1.addr else none)), ok)
  | none => (s, ok)

/-- What follows when the last thread of a group has retired (R339): a task waits for its commit, with its slots if it has named
a successor; an open-mode group drops its leases, and ends or waits to start its successor.
Log 48 (DEDUCED, unsafe). -/
def State.groupEnd (s : State) (core gid : Nat) : State :=
  match s.group core gid with
  | none => s
  | some g =>
    let ts := (s.core core).members gid
    if g.phase != .running || !ts.all (fun p => p.2.hasRetired) then s
    else if g.taskMode then
      if g.succ.isSome then s.modGroup core gid fun g => { g with phase := .retired }
      else (ts.foldl (fun s p => s.freeSlot { core, slot := p.1 }) s).modGroup core gid fun g =>
        { g with phase := .retired, pins := [] }
    else
      let s1 := ts.foldl (fun s p => (s.dropLeases p.2.leases).modThread { core, slot := p.1 } fun t => { t with leases := [] })
        (s.dropLeases g.leases)
      let (s2, ok) := s1.tellSequencer g
      if g.succ.isNone then s2.endGroup core gid
      else if ok then s2.modGroup core gid fun g => { g with phase := .succeeding, leases := [] }
      else s2.scrubGroup core gid

/-- The reports of a thread that ends which a successor will hear (R304, R330): those of open-mode commands that have not completed and do not
hold it back. -/
def State.goOn (s : State) (w : Who) (t : Thread) (k : Engine) : List Report :=
  let pins := ((s.group w.core t.gid).map (·.pins)).getD []
  (t.reports k).filter fun r =>
    t.openMode && r.done.isNone && !(((s.core w.core).unit k).all.any fun c => c.seq == r.seq && s.holdsBack w.core k c pins)

/-- The issuing thread ends (R339, R346): a spawned thread that exits, and a thread whose group is gone, free their slots at
once; another keeps its slot until its group's last thread has ended. A thread whose task was aborted, or that handles a
detached cause, drops the record it left fault-pending (R391). -/
def State.endThread (s : State) (w : Who) (t : Thread) (exit : Bool) : State :=
  let s0 := if t.openMode then s.drainAll w else s
  let s1 := match t.record with
    | some a => s0.dropRecord t.recCore t.part a
    | none => s0
  match s1.group w.core t.gid with
  | none => s1.freeSlot w
  | some _ =>
    if exit && t.spawned then
      ((s1.freeSlot w).modGroup w.core t.gid fun g => { g with slots := g.slots.filter (· != w.slot) }).groupEnd w.core t.gid
    else
      (s1.modThread w fun t =>
        { t with
          run := .waiting .retired s.cycle, repMx := s1.goOn w t .mx, repVx := s1.goOn w t .vx, repCp := s1.goOn w t .cp, fflags := 0,
          next := [] }).groupEnd w.core t.gid

/-- `RETIRE` (R339). -/
def execRetire (s : State) : Host.Outcome State Fault Refusal :=
  issue (useG (enc .retire) [] [] []) s fun s t _ => .left (s.endThread s.cur t false)

/-- A record without its footprint, whose fields a successor that inherits one ignores (R301). -/
def succRecord (r : RecCopy) (m : Half) : RecCopy :=
  if m.getLsbD 6 then { r with bits := r.bits &&& ~~~(BitVec.ofNat 512 (2 ^ 56 + (2 ^ 128 - 1) * 2 ^ 256)) } else r

/-- The second range of a successor's record, as a load of the thread that names it (R211, R299): none where it has none, or where it cannot
be read.
Log 51 (DEDUCED, unsafe). -/
def State.succRange2 (s : State) (w : Who) (t : Thread) (r : RecCopy) : Except Res (State × Option FpRange) :=
  if r.hasR2 then
    match s.gather w t r.arg 1 16 with
    | .ok (s1, l) => .ok (s1, some (fpRange (BitVec.ofNat 64 (leNat (l.take 8))) (BitVec.ofNat 64 (leNat (l.drop 8)))))
    | .error (.trap _ _) => .ok (s, none)
    | .error x => .error x
  else .ok (s, none)

/-- `RETIRE_S` (R299): thread 0 of a group names the successor; any other thread acts as `retire`, after the checks. A record
that fails the checks of R76 is reported, and the group retires with no successor.
Log 51 (DEDUCED, unsafe). -/
def execRetireS (a b : GReg) (s : State) : Host.Outcome State Fault Refusal :=
  issue (useG (enc (.retireS a b)) [a.toNat, b.toNat] [a.toNat, b.toNat] []) s fun s t rd =>
    let me := s.cur
    let va := rd a.toNat
    let m := rd b.toNat
    if m.extractLsb' 16 48 != 0#48 || m.getLsbD 7 then .trap cReservedField (bitsOf (.retireS a b))
    else if va.toNat % 64 ≠ 0 then .trap cMisaligned va
    else if t.num ≠ 0 then .left (s.endThread me t false)
    else match s.readRecord me t va with
      | .error r => r
      | .ok (s1, r) =>
        match s1.succRange2 me t (succRecord r (m.truncate 16)) with
        | .error x => x
        | .ok (s2, r2) =>
          if recordValid (succRecord r (m.truncate 16)) r2 then
            .left ((s2.modGroup me.core t.gid fun g => { g with succ := some (r, m.truncate 16) }).endThread me t false)
          else .left ((s2.detach me.core cReservedField r.addr none).endThread me t false)

/-- `TASK_ABORT` (R340). -/
def execTaskAbort (s : State) : Host.Outcome State Fault Refusal :=
  issue (useG (enc .taskAbort) [] [] []) s fun s t _ =>
    match s.taskOf s.cur t with
    | some _ => .left ((s.killGroup s.cur.core t.gid none).secureUp (dieOf s.cur.core))
    | none => .trap cReservedField (bitsOf .taskAbort)

/-! Commit. -/

/-- The commands of a group that its engines have not completed.
Log 49 (DEDUCED, unsafe). -/
def Core.busyFor (c : Core) (gid : Nat) : Bool := (c.mx.all ++ c.vx.all ++ c.cp.all).any fun k => k.gid == gid

/-- The report that a held effect is. -/
def Effect.reportOf : Effect → Option ReportMsg
  | .report r => some r
  | _ => none

/-- The task that the commit arbiter of a die commits now (R224, R227): the secure task, once its threads have retired and its
engine commands have completed, and no lease holds a copy that one of its reports will overwrite.
Log 49 (DEDUCED, unsafe). -/
def State.commitPick (s : State) (die : Nat) : Option (Nat × Nat × Group) :=
  if s.cycle < (s.die die).nextCommit then none
  else (s.dieGroups die).find? fun x =>
    x.2.2.taskMode && x.2.2.phase == .retired && x.2.2.secure && !(s.core x.1).busyFor x.2.1
      && (x.2.2.held.filterMap Effect.reportOf).all fun r => !s.reportWaits r x.2.2.leases (some (x.1, x.2.1))

/-- Steps 1 and 2 of R224: the tasks that read what is written abort, and the L1s of the die drop those lines. -/
def State.commitCheck (s : State) (die core gid : Nat) (g : Group) : State :=
  if g.wsig = 0 then s
  else
    let hit := (s.dieGroups die).filter fun x =>
      x.2.2.uncommitted && (x.1 != core || x.2.1 != gid) && sigMeet x.2.2.rsig g.wsig
    let s1 := hit.foldl (fun s x => s.abortGroup x.1 x.2.1 false none) s
    { s1 with
      cores := smMap (fun c x => if dieOf c == die && !isLantern c then x.dropLines (fun l => sigHas g.wsig l) else x) s1.cores }

/-- Step 3 of R224: the speculative lines leave, and the held effects are released. -/
def State.commitSend (s : State) (die core gid : Nat) (g : Group) : State :=
  let mine := (s.core core).spec.filter fun x => x.gid == gid
  let away := (mine.filter fun x => x.acc.homeDie != die).map fun x => x.lw.line
  let s1 := s.modCore core fun c =>
    { c with
      spec := c.spec.filter fun x => x.gid != gid,
      effects := c.effects ++ g.held.map fun e => (e, away) }
  let s2 := mine.foldl (fun s x => s.sendLine { core, slot := 64 } x.lw x.acc (.commit core gid)) s1
  (g.held.filterMap Effect.reportOf).foldl (fun s r => s.spoilTarget r) s2

/-- `TASK_COMMIT` (R220, R224, R229, R263, R318). -/
def execTaskCommit (die : Nat) (s : State) : Host.Outcome State Fault Refusal :=
  match s.commitPick die with
  | none => .next s
  | some (core, gid, g) =>
    let s1 := (((s.commitCheck die core gid g).commitSend die core gid g).dropLeases g.leases).modDie die fun d =>
      { d with nextCommit := s.cycle + 4 }
    let (s2, ok) := s1.tellSequencer g
    let s3 :=
      if g.succ.isNone then s2.endGroup core gid
      else if ok then s2.modGroup core gid fun g => { g with phase := .succeeding, secure := false, leases := [], held := [] }
      else s2.scrubGroup core gid
    .next (s3.secureUp die)

/-! Held effects. -/

/-- The die that an effect is addressed to, if it is addressed to a core, a sequencer or a bank (R229); every message over the
Beacon link waits as one for another die does. -/
def Effect.target : Effect → Option Nat
  | .msg m => some (dieOf m.dst)
  | .far _ _ => some 8
  | .push _ => none
  | .report r => some (handleOf r.opnd / 4096 % 8)
  | .edit e => some (handleOf e.opnd / 4096 % 8)
  | .detOpen r | .detAdd r | .detDone r => some (r.bank / 256)

/-- Whether a held effect must wait (R229): for lines of its task's write set that are still pending, when it goes to another
die; or for room at its target. -/
def State.effectWaits (s : State) (core : Nat) (e : Effect) (lines : List Nat) : Bool :=
  let die := dieOf core
  let pending := lines.any fun l =>
    (s.core core).flights.any (fun f => f.lw.line == l)
      || (match smGet (s.die die).copies l with
        | some c => c.pend != 0
        | none => false)
  ((match e.target with | some d => d != die | none => false) && pending)
    || (match e with | .msg m => !s.laneOpen m.dst m.cls | _ => false)

/-- A held effect leaves (R229). -/
def State.sendEffect (s : State) (core : Nat) : Effect → State
  | .msg m => s.sendMsg m
  | .far dev m => s.sendFar dev m
  | .push r => s.pushRecord core r
  | .report r => s.afterRoute (seqWay core (handleOf r.opnd / 4096 % 8)) (.dmapReport r)
  | .edit e => s.afterRoute (seqWay core (handleOf e.opnd / 4096 % 8)) (.editApply e)
  | .detOpen r => s.afterRoute (latBank core r.bank) (.roundOpenArrival r)
  | .detAdd r => s.afterRoute (latBank core r.bank) (.roundUpdateArrival r)
  | .detDone r => s.afterRoute (latBank core r.bank) (.roundDoneArrival r)

/-- `HELD_EFFECT_SEND` (R229): in program order. -/
def execHeldEffectSend (core : Nat) (s : State) : Host.Outcome State Fault Refusal :=
  match (s.core core).effects with
  | [] => .next s
  | (e, lines) :: rest =>
    if s.effectWaits core e lines then .next s
    else .next ((s.modCore core fun c => { c with effects := rest }).sendEffect core e)

/-! Successors. -/

/-- The places of a successor's threads: those that are kept, and new ones for the others in turn. -/
def dealPlaces : List (Option Nat) → List Nat → List Nat
  | some b :: t, l => b :: dealPlaces t l
  | none :: t, x :: l => x :: dealPlaces t l
  | none :: t, [] => 0 :: dealPlaces t []
  | [], _ => []

/-- A successor's place: slot, window base and wide base of each of its threads, or none where R301 and R302 find no room. -/
def Core.succBerth (c : Core) (gid : Nat) (slots : List Nat) (r : RecCopy) (m : Half) : Option (List (Nat × Nat × Nat)) :=
  let n := r.threads
  let old := slots.filterMap fun i => (smGet c.threads i).map fun t => (i, t)
  let kept := old.take n
  let extra := n - kept.length
  let others : Core := { c with threads := c.threads.filter fun p => p.2.gid != gid }
  let size := windowSize (c.headerMask r.entry.toNat) r.regs
  let at' := fun (f : Thread → Option Nat) => (List.range n).map fun j => (kept[j]?).bind fun p => f p.2
  let placeG := at' fun t => if m.getLsbD 0 then some t.gbase else none
  let placeW := at' fun t => if m.getLsbD 1 && t.wcount != 0 then some t.wbase else none
  let keepG := placeG.filterMap id
  let keepW := placeW.filterMap id
  let fit := fun (keep : List Nat) (size limit : Nat) (taken : List (Nat × Nat)) =>
    keep.all (fun b => decide (b + size ≤ limit) && !clash taken b size
      && keep.all fun x => x == b || !clash [(x, x + size)] b size)
  let spansG := keepG.map fun b => (b, b + size)
  let spansW := keepW.map fun b => (b, b + r.wide)
  if c.freeSlots.length < extra || !fit keepG size Config.gfileSize others.windows
      || (r.wide != 0 && !fit keepW r.wide Config.wfileSize others.wgroups) then none
  else
    match roomsFor size 8 Config.gfileSize (n - keepG.length) (spansG ++ others.windows),
      if r.wide = 0 then some [] else roomsFor r.wide 1 Config.wfileSize (n - keepW.length) (spansW ++ others.wgroups) with
    | some gs, some ws =>
      let bg := dealPlaces placeG gs
      let bw := dealPlaces placeW ws
      some ((List.range n).map fun j =>
        ((kept[j]?).elim (c.freeSlots.getD (j - kept.length) 0) (·.1), bg.getD j 0, if r.wide = 0 then 0 else bw.getD j 0))
    | _, _ => none

/-- Whether the tiles that a mask asks for can be inherited (R301). -/
def Core.tileShapeOk (c : Core) (g : Group) (r : RecCopy) (m : Half) : Bool :=
  m.extractLsb' 8 8 == 0#8 || (r.tcfg == g.cfg && c.claims r && g.claim)

/-- Whether a successor's turn has come (R300, R318).
Log 50 (DESIGN CHOICE, unsafe). -/
def State.succReady (s : State) (core gid : Nat) : Bool :=
  match s.group core gid with
  | none => false
  | some g =>
    match g.succ with
    | none => false
    | some (r, m) =>
      let c := s.core core
      let pins := (c.groups.filter fun p => p.1 != gid).flatMap fun p => p.2.pins.map fun x => (x.1, x.1 + x.2)
      g.phase == .succeeding
        && (s.heldBackBy core gid g.pins).isEmpty
        && !s.recordHeld core (succRecord r m)
        && s.windowDoneAt g.part g.space r
        && (!c.claims r || m.extractLsb' 8 8 != 0#8 || c.tilesFree)
        && (m.getLsbD 6 || (s.ranges core r).all fun x => !clash pins x.off x.len)

/-- The bits of an inheritance mask whose state arrives (R70): wide registers only where both threads have a wide group, and mask
registers only where both are compute threads. -/
def arrived (t o : Thread) (m : Half) : Half :=
  let wide := o.wcount != 0 && t.wcount != 0
  let mask := o.compute && t.compute
  m &&& (if wide then 0xFFFF#16 else 0xFFFD#16) &&& (if mask then 0xFFFF#16 else 0xFFFB#16)

/-- The thread of a successor in the place of a predecessor's (R301, R302): what the mask carries stays. -/
def succThread (t : Thread) (old : Option Thread) (m : Half) : Thread :=
  match old with
  | none => { t with inh := m &&& 0xFF40#16 }
  | some o =>
    let five := m.getLsbD 5
    { t with
      inh := arrived t o m, kregs := if m.getLsbD 2 then o.kregs else [], fmtp := if five then o.fmtp else t.fmtp,
      sclp := if five then o.sclp else t.sclp, fmtWord := if five then o.fmtWord else t.fmtWord,
      fmtRest := if five then o.fmtRest else t.fmtRest, repMx := o.repMx,
      repVx := o.repVx, repCp := o.repCp, fflags := o.fflags, next := o.next }

/-- Seats a thread of a successor: windows and wide groups that are kept lose only what lies above the predecessor's (R301,
R302). -/
def Core.succSeat (c : Core) (slot : Nat) (t : Thread) (old : Option Thread) (m : Half) (arg : Dword) : Core :=
  let g := match old with
    | some o =>
      let keep := Nat.min (o.glim - o.gbase) (t.glim - t.gbase)
      if m.getLsbD 0 then zeroRun c.gfile (t.gbase + keep) (t.galloc - t.gbase - keep)
      else smSet (smSet (zeroRun c.gfile t.gbase (t.galloc - t.gbase)) (t.gbase + 1) (BitVec.ofNat 64 t.num)) (t.gbase + 2) arg
    | none =>
      smSet (smSet (zeroRun c.gfile t.gbase (t.galloc - t.gbase)) (t.gbase + 1) (BitVec.ofNat 64 t.num)) (t.gbase + 2) arg
  let w := match old with
    | some o =>
      if m.getLsbD 1 && o.wcount != 0 then zeroRun c.wfile (t.wbase + Nat.min o.wcount t.wcount) (t.wcount - o.wcount)
      else zeroRun c.wfile t.wbase t.wcount
    | none => zeroRun c.wfile t.wbase t.wcount
  { c with threads := smSet c.threads slot t, gfile := g, wfile := w }

/-- The start of a successor that fits (R300 to R302): its group, its threads, the scrub, and its footprint.
Log 48 (DEDUCED, unsafe). -/
def State.succStart (s : State) (core gid : Nat) (g : Group) (r : RecCopy) (m : Half) (b : List (Nat × Nat × Nat)) (fw : Word × Bool) :
    State :=
  let c := s.core core
  let mask := c.headerMask r.entry.toNat
  let task := taskModeOf r
  let six := m.getLsbD 6
  let xs := if six then [] else s.ranges core r
  let lines := (xs.flatMap (s.fpLines core)).map (·.line)
  let new := c.nextGid
  let space := s.coreSpace core
  let oldAt := fun i => (smGet c.threads i).filter fun t => t.gid == gid
  let gone := (c.members gid).filter fun p => !b.any fun x => x.1 == p.1
  let s0 := (c.members gid).foldl (fun s p => (s.dropRsv { core, slot := p.1 }).forgetArrivals { core, slot := p.1 }) s
  let s1 := gone.foldl (fun s p => s.freeSlot { core, slot := p.1 }) s0
  let c1 := s1.core core
  let c2 := b.foldl (fun c x =>
    let c' := if m.getLsbD 3 then c else c.freeGens x.1
    if m.getLsbD 4 then c' else c'.unbindClasses x.1) c1
  let c3 := if six then c2 else c2.scrubPins g.pins
  let tiles :=
    if c.claims r then c3.tiles.filter fun p => m.getLsbD (8 + p.1 / 1024) else c3.tiles
  let c4 := b.zipIdx.foldl (fun c x =>
    let t := recordThread r g.part space new x.2 x.1.2.1 x.1.2.2 mask task fw
    let old := oldAt x.1.1
    c.succSeat x.1.1 (succThread t old m) old m r.arg) { c3 with tiles }
  let grp := { newGroup r task g.part space c.dispatchSeq (b.map (·.1)) (c.claims r) with
    pins := if six then g.pins else xs.map (fun x => (x.off, x.len)), rsig := if task then lines.foldl sigAdd 0 else 0 }
  let c5 := { c4 with
    groups := smSet (smDel c4.groups gid) new grp, nextGid := new + 1, dispatchSeq := c.dispatchSeq + 1 }
  let s2 := (s1.setCore core c5).secureUp (dieOf core)
  if six then s2.startThreads core new
  else (if xs.isEmpty then s2.after 0 else s2.afterFree (s.fpTime core xs)) (.footprintFetchDone core new)

/-- `SUCCESSOR_START` (R300 to R303).
Log 51 (DEDUCED, unsafe). -/
def execSuccessorStart (core gid : Nat) (s : State) : Host.Outcome State Fault Refusal :=
  match s.group core gid with
  | none => .next s
  | some g =>
    match g.succ with
    | none => .next s
    | some (r, m) =>
      let c := s.core core
      if !s.succReady core gid then .next s
      else if s.recordGone g.part g.space r then .next (s.scrubGroup core gid)
      else if !s.recordOk core (succRecord r m) then .next ((s.detach core cReservedField r.addr none).scrubGroup core gid)
      else if !c.tileShapeOk g r m then .next ((s.detach core cSuccTileShape r.addr none).scrubGroup core gid)
      else match c.succBerth gid g.slots r m with
        | none => .next ((s.detach core cSuccShape r.addr none).scrubGroup core gid)
        | some b =>
          let carried := fun x : Nat × Nat × Nat => (smGet c.threads x.1).any fun t => t.gid == gid
          match s.range2 core (succRecord r m), if m.getLsbD 5 && b.all carried then .ok (0, false) else s.formatWord core r.fmtp with
          | .error (cause, tval), _ => .next ((s.scrubGroup core gid).faultRecord core r cause tval)
          | _, .error (cause, tval) => .next ((s.scrubGroup core gid).faultRecord core r cause tval)
          | .ok _, .ok fw => .next (s.succStart core gid g r m b fw)

end Sys2Proof.Machine
end

