-- ==== Sys2Proof/Machine/Threads.lean ====
section
/-!
DEFINITION. Threads, opcode 0x2C (R344 to R346), and the iteration fetcher, opcode 0x2E (R296, R350, R351).
-/
namespace Sys2Proof.Machine

/-- Whether a spawn word is in range (R345). -/
def spawnOk (v : Dword) : Bool :=
  let wide := (v.extractLsb' 24 4).toNat
  let regs := (v.extractLsb' 16 8).toNat
  v.extractLsb' 28 4 == 0#4 && decide (1 ≤ wide) && decide (wide ≤ 4) && decide (8 ≤ regs) && decide (regs ≤ 128) && !v.getLsbD 0

/-- The thread that a spawn starts (R77, R345).
Log 65 (DEDUCED, unsafe). -/
def Thread.spawn (t : Thread) (v : Dword) (num gbase wbase now : Nat) : Thread :=
  let regs := (v.extractLsb' 16 8).toNat
  { Thread.fresh with
    pc := v.truncate 16, level := t.level, compute := true, openMode := true, part := t.part, space := t.space, gid := t.gid,
    num, spawned := true, gbase, glim := gbase + regs, gext := gbase + windowSize 0 regs, galloc := gbase + windowSize 0 regs, wbase,
    wcount := 4 * (v.extractLsb' 24 4).toNat, tstamp := t.tstamp, lidx := t.lidx, detidx := t.detidx, prio := t.prio,
    fmtp := t.fmtp, sclp := t.sclp, mpol := t.mpol, fmtWord := t.fmtWord, fmtRest := t.fmtRest, lastIssue := some now }

/-- `THR_SPAWN` (R345).
Log 65 (DEDUCED, unsafe). -/
def execThrSpawn (d a : GReg) (s : State) : Host.Outcome State Fault Refusal :=
  issue (useG (enc (.thrSpawn d a)) [d.toNat, a.toNat] [a.toNat] [d.toNat]) s fun s t rd =>
    let me := s.cur
    let v := rd a.toNat
    let c := s.core me.core
    let none' := Res.done (s.writeG me d.toNat (BitVec.allOnes 64))
    if t.compute then .trap cReservedField (bitsOf (.thrSpawn d a))
    else if !spawnOk v then .trap cReservedField v
    else match c.freeSlots.head?, roomFor c.windows (windowSize 0 (v.extractLsb' 16 8).toNat) 8 Config.gfileSize,
        roomFor c.wgroups (4 * (v.extractLsb' 24 4).toNat) 1 Config.wfileSize with
      | some slot, some gb, some wb =>
        let num := ((s.group me.core t.gid).map (·.threads)).getD 1
        let s1 := (s.modCore me.core fun c => c.seat slot (t.spawn v num gb wb s.cycle) (BitVec.ofNat 64 num) v).modGroup
          me.core t.gid fun g => { g with threads := g.threads + 1, slots := g.slots ++ [slot] }
        .done (s1.writeG me d.toNat (BitVec.ofNat 64 slot))
      | _, _, _ => none'

/-- `THR_EXIT` (R346). -/
def execThrExit (s : State) : Host.Outcome State Fault Refusal :=
  issue (useG (enc .thrExit) [] [] []) s fun s t _ => .left (s.endThread s.cur t true)

/-- `THR_PARK` (R346). -/
def execThrPark (s : State) : Host.Outcome State Fault Refusal :=
  issue (useG (enc .thrPark) [] [] []) s fun s t _ =>
    if t.wakePending then .done (s.modThread s.cur fun t => { t with wakePending := false })
    else .left (s.modThread s.cur fun t => { t with pc := t.nextPc, run := .parked s.cycle })

/-- Wakes the thread of a slot (R346): a parked one is ready, and another notes the wake. The slot's event bit is set (R393). -/
def State.wakeSlot (s : State) (w : Who) : State :=
  match s.thread w with
  | none => s
  | some t =>
    match t.run with
    | .parked _ => (s.wake w).setEvent w
    | _ => (s.modThread w fun t => { t with wakePending := true }).setEvent w

/-- `THR_WAKE` (R346). -/
def execThrWake (a : GReg) (s : State) : Host.Outcome State Fault Refusal :=
  issue (useG (enc (.thrWake a)) [a.toNat] [a.toNat] []) s fun s _ rd =>
    let v := rd a.toNat
    if v.extractLsb' 6 58 != 0#58 then .trap cReservedField (bitsOf (.thrWake a))
    else .done (s.wakeSlot { s.cur with slot := (v.extractLsb' 0 6).toNat })

/-! The iteration fetcher. -/

/-- The descriptor of a nest from its 20 bytes (R351). -/
def nestDesc (l : List Byte) : NestCtr :=
  let f := fun i => leNat ((l.drop (4 * i)).take 4)
  { r := f 0 * f 1 * f 2, c0 := f 0, c1 := f 1, c2 := f 2, p := f 3, m := f 4, clean := true }

/-- The line of a counter that no iteration has been claimed of.
Log 112 (DESIGN CHOICE, unsafe). -/
def NestCtr.line (c : NestCtr) : Nat :=
  c.total + c.c0 * 2 ^ 64 + c.c1 * 2 ^ 96 + c.c2 * 2 ^ 128 + c.p * 2 ^ 160 + c.m * 2 ^ 192

/-- Sends bytes of a line as a direct write of a thread, behind its own earlier stores of the line (R209, R226); the line joins its dirty
signature (R231). -/
def State.directStore (s : State) (w : Who) (x : Access) (lw : LineWrite) : State :=
  ((((s.drainWcb w fun l => l == lw.line).modCore w.core fun c => c.dropLine lw.line)).sendLine w lw x (.thread w)).modThread w fun t =>
    if t.openMode then { t with dirty := sigAdd t.dirty lw.line } else t

/-- `NEST_SET` (R351): the 20 bytes are a load of the thread, and the counter is written as one direct write.
Log 112 (DESIGN CHOICE, unsafe). -/
def execNestSet (a b : GReg) (s : State) : Host.Outcome State Fault Refusal :=
  issue (useG (enc (.nestSet a b)) [a.toNat, b.toNat] [a.toNat, b.toNat] []) s fun s t rd =>
    let me := s.cur
    if s.notSecure me t then .retry .secure false
    else match s.atomAddr me t (rd a.toNat) 128 true with
    | .error r => r
    | .ok x =>
      match s.gather me t (rd b.toNat) 1 20 with
      | .error r => r
      | .ok (s1, l) =>
        let c := nestDesc l
        if !c.valid then .trap cReservedField (rd b.toNat)
        else .wait (s1.directStore me x (lineWriteOf (x.line * 128) 128 c.line)) .ack

/-- `NEST_CLAIM` (R296, R351). -/
def execNestClaim (d a : GReg) (s : State) : Host.Outcome State Fault Refusal :=
  issue (useG (enc (.nestClaim d a)) [d.toNat, a.toNat] [a.toNat] [d.toNat]) s fun s t rd =>
    if s.notSecure s.cur t then .retry .secure false
    else match s.atomAddr s.cur t (rd a.toNat) 128 true with
    | .error r => r
    | .ok x => s.rsvSend s.cur x .nest d.toNat 0 0

/-- Steps ix0 to ix2 by one iteration (R351). -/
def Thread.nestStep (t : Thread) : Thread :=
  let n0 := t.ix0 + 1
  if n0 != t.nestC0.zeroExtend 64 then { t with ix0 := n0 }
  else
    let n1 := t.ix1 + 1
    if n1 != t.nestC1.zeroExtend 64 then { t with ix0 := 0, ix1 := n1 } else { t with ix0 := 0, ix1 := 0, ix2 := t.ix2 + 1 }

/-- `NEST_NEXT` (R351). -/
def execNestNext (d : GReg) (s : State) : Host.Outcome State Fault Refusal :=
  issue (useG (enc (.nestNext d)) [d.toNat] [] [d.toNat]) s fun s t _ =>
    if t.nestL = 0 then .done (s.writeG s.cur d.toNat 0)
    else
      .done ((s.modThread s.cur fun t => let t' := t.nestStep; { t' with nestL := t.nestL - 1 }).writeG s.cur d.toNat
        (t.nestL - 1))

/-- `NEST_END` (R351). -/
def execNestEnd (a : GReg) (s : State) : Host.Outcome State Fault Refusal :=
  issue (useG (enc (.nestEnd a)) [a.toNat] [a.toNat] []) s fun s t rd =>
    if s.notSecure s.cur t then .retry .secure false
    else match s.atomAddr s.cur t (rd a.toNat) 128 true with
    | .error r => r
    | .ok x => .done (s.directStore s.cur x (lineWriteOf (x.line * 128) 8 0))

end Sys2Proof.Machine
end

