-- ==== Sys2Proof/Machine/Barrier.lean ====
section
/-!
DEFINITION. Cluster barriers and the reduction tree of a die, opcode 0x2D (R297, R298, R347 to R349).
-/
namespace Sys2Proof.Machine

/-- A barrier after reset (R297). -/
def Barrier.fresh : Barrier := { x := 1, cur := 0, carried := 0, phase := 0, arrived := [] }

/-- A barrier of a cluster. -/
def State.barrier (s : State) (cluster bar : Nat) : Barrier := smGetD (s.cluster cluster).barriers bar Barrier.fresh

/-- Writes a barrier. -/
def State.setBarrier (s : State) (cluster bar : Nat) (b : Barrier) : State :=
  s.modCluster cluster fun k => { k with barriers := smSet k.barriers bar b }

/-- The key of a thread's arrival. -/
def arriveKey (w : Who) : Nat := 64 * w.core + w.slot

/-- What a thread waits for at a barrier of its cluster. -/
def State.barWaitOf (s : State) (w : Who) (bar : Nat) : Option (Option Nat × Bool) :=
  match s.waitOf w with
  | some (.barrier b p aw) => if b = bar then some (p, aw) else none
  | _ => none

/-- The threads of a cluster that wait at a barrier. -/
def State.barWaiters (s : State) (cluster bar : Nat) : List Who :=
  (s.cores.filter fun p => clusterOf p.1 == cluster).flatMap fun p =>
    (p.2.threads.map fun t => ({ core := p.1, slot := t.1 } : Who)).filter fun w => (s.barWaitOf w bar).isSome

/-- The barrier that an operand names, or the trap (R347). -/
def barNum (v : Dword) (bits : Dword) : Except Res Nat :=
  if v.extractLsb' 4 60 != 0#60 then .error (.trap cReservedField bits) else .ok (v.extractLsb' 0 4).toNat

/-- `BAR_INIT` (R348): the request reaches the unit after 20 cycles. -/
def execBarInit (a b : GReg) (s : State) : Host.Outcome State Fault Refusal :=
  issue (useG (enc (.barInit a b)) [a.toNat, b.toNat] [a.toNat, b.toNat] []) s fun s _ rd =>
    match barNum (rd a.toNat) (bitsOf (.barInit a b)) with
    | .error r => r
    | .ok n =>
      if rd b.toNat = 0 ∨ 4096 < (rd b.toNat).toNat then .trap cReservedField (BitVec.ofNat 64 n)
      else .wait s (.barInit n (rd b.toNat).toNat)

/-- A `bar.init` reaches the unit (R348); the answer returns 20 cycles later. -/
def State.barInitServe (s : State) (w : Who) : State :=
  match s.thread w with
  | none => s
  | some t =>
    match t.run with
    | .waiting (.barInit n x) since =>
      if s.cycle < since + 20 then s
      else
        let k := clusterOf w.core
        let b := s.barrier k n
        if !(s.barWaiters k n).isEmpty || b.cur != 0 || b.carried != 0 then
          s.takeTrap w cReservedField (BitVec.ofNat 64 n) t.pc
        else
          ((s.setBarrier k n { Barrier.fresh with x }).modThread w fun t => { t with run := .waiting (.answer []) s.cycle }).after
            19 (.agentAnswer w)
    | _ => s

/-- `BAR_ARR` (R297, R348). -/
def execBarArr (a : GReg) (s : State) : Host.Outcome State Fault Refusal :=
  issue (useG (enc (.barArr a)) [a.toNat] [a.toNat] []) s fun s _ rd =>
    match barNum (rd a.toNat) (bitsOf (.barArr a)) with
    | .error r => r
    | .ok n => .done (s.after 20 (.barrierArrival (clusterOf s.cur.core) n s.cur))

/-- Whether an arrival of a thread is on its way. -/
def State.arriving (s : State) (w : Who) (bar : Nat) : Bool := s.agenda.any fun x => x.ev == .barrierArrival (clusterOf w.core) bar w

/-- `BAR_WAIT` (R297). -/
def execBarWait (a : GReg) (s : State) : Host.Outcome State Fault Refusal :=
  issue (useG (enc (.barWait a)) [a.toNat] [a.toNat] []) s fun s _ rd =>
    let me := s.cur
    let k := clusterOf me.core
    match barNum (rd a.toNat) (bitsOf (.barWait a)) with
    | .error r => r
    | .ok n =>
      let b := s.barrier k n
      let ask := Res.wait (s.after 20 (.barrierWaitArrival k n me)) (.barrier n none false)
      if s.arriving me n then ask
      else match smGet b.arrived (arriveKey me) with
        | some p => if p < b.phase then .done s else .wait s (.barrier n (some p) false)
        | none => ask

/-- `BAR_AW` (R297, R348). -/
def execBarAw (a : GReg) (s : State) : Host.Outcome State Fault Refusal :=
  issue (useG (enc (.barAw a)) [a.toNat] [a.toNat] []) s fun s _ rd =>
    let me := s.cur
    let k := clusterOf me.core
    match barNum (rd a.toNat) (bitsOf (.barAw a)) with
    | .error r => r
    | .ok n =>
      .wait ((s.after 20 (.barrierArrival k n me)).after 20 (.barrierWaitArrival k n me)) (.barrier n none true)

/-- An arrival beyond what two phases can take (R297): BAR_OVERFLOW in its thread, after its `bar.arr` or `bar.aw`.
Log 61 (DEDUCED, unsafe). -/
def State.barOverflow (s : State) (w : Who) (bar : Nat) : State :=
  match s.barWaitOf w bar, s.thread w with
  | some (_, aw), some t =>
    if aw then s.takeTrap w cBarOverflow (BitVec.ofNat 64 bar) t.nextPc else s.takeTrap w cBarOverflow (BitVec.ofNat 64 bar) t.pc
  | _, _ => s.pend w cBarOverflow (BitVec.ofNat 64 bar)

/-- Counts the arrivals of one cycle (R297): the barrier after them, and the threads whose arrival it does not count. One of a thread that has
ended is recorded for none. -/
def Barrier.count (b : Barrier) : List Who → Barrier × List Who
  | [] => (b, [])
  | w :: t =>
    if b.cur < 2 * b.x then
      ({ b with cur := b.cur + 1,
                arrived :=
                  if w.slot < Config.slots then smSet b.arrived (arriveKey w) (if b.cur < b.x then b.phase else b.phase + 1)
                  else b.arrived } : Barrier).count t
    else
      let (b', l) := b.count t
      (b', w :: l)

/-- Sorts arrivals by core and slot. -/
def insertWho (w : Who) : List Who → List Who
  | [] => [w]
  | x :: t =>
    if arriveKey { w with slot := w.slot % Config.slots } < arriveKey { x with slot := x.slot % Config.slots } then w :: x :: t else x :: insertWho w t

/-- One cycle of a barrier's unit (R297): the carried tally, the cycle's arrivals, and the completion of a phase, whose waiters
are eligible 20 cycles later. -/
def State.barCycle (s : State) (cluster bar : Nat) (ws : List Who) : State :=
  let b := s.barrier cluster bar
  let (b1, late) := ({ b with cur := b.cur + b.carried, carried := 0 } : Barrier).count (ws.foldr insertWho [])
  let s1 := late.foldl (fun s w => s.barOverflow w bar) s
  if b1.x ≤ b1.cur then
    (s1.setBarrier cluster bar { b1 with cur := 0, carried := b1.cur - b1.x, phase := b1.phase + 1 }).after 19
      (.barrierWake cluster bar b1.phase)
  else s1.setBarrier cluster bar b1

/-- `BARRIER_ARRIVAL` (R297): the unit counts every arrival of the cycle at once. -/
def execBarrierArrival (cluster bar : Nat) (w : Who) (s : State) : Host.Outcome State Fault Refusal :=
  let due := fun x : Sched => match x.ev with
    | .barrierArrival k n _ => k == cluster && n == bar && decide (x.due ≤ s.cycle)
    | _ => false
  let more := (s.agenda.filter due).filterMap fun x => match x.ev with
    | .barrierArrival _ _ v => some v
    | _ => none
  .next ({ s with agenda := s.agenda.filter fun x => !due x }.barCycle cluster bar (w :: more))

/-- A cycle in which no arrival reaches a barrier that has a carried tally (R297). -/
def State.barCarry (s : State) (cluster bar : Nat) : State :=
  let due := s.agenda.any fun x => match x.ev with
    | .barrierArrival k n _ => k == cluster && n == bar && decide (x.due ≤ s.cycle)
    | _ => false
  if due || (s.barrier cluster bar).carried == 0 then s else s.barCycle cluster bar []

/-- `BARRIER_WAIT_ARRIVAL` (R297): a waiter is bound to the phase of its thread's latest arrival, or to the phase in progress; one
whose phase has completed, and whose waiters have been told, completes. -/
def execBarrierWaitArrival (cluster bar : Nat) (w : Who) (s : State) : Host.Outcome State Fault Refusal :=
  match s.barWaitOf w bar with
  | some (none, aw) =>
    let b := s.barrier cluster bar
    let bind := fun p => s.modThread w fun t => { t with run := .waiting (.barrier bar (some p) aw) s.cycle }
    (match smGet b.arrived (arriveKey w) with
    | some p =>
      if b.phase ≤ p then .next (bind p)
      else if s.agenda.any (fun x => x.ev == .barrierWake cluster bar p) then .next (bind p)
      else .next (s.complete w [])
    | none => .next (bind b.phase))
  | _ => .next s

/-- `BARRIER_WAKE` (R297). -/
def execBarrierWake (cluster bar phase : Nat) (s : State) : Host.Outcome State Fault Refusal :=
  .next ((s.barWaiters cluster bar).foldl
    (fun s w => match s.barWaitOf w bar with
      | some (some p, _) => if p ≤ phase then s.complete w [] else s
      | _ => s) s)

/-! The reduction tree. -/

/-- A tree with nothing sent. -/
def RedTree.empty : RedTree := { sent := [], total := none }

/-- The reduction tree of a partition on a die (R298).
Log 60 (DEDUCED, unsafe). -/
def State.redTree (s : State) (die part : Nat) : RedTree := smGetD (s.die die).red part RedTree.empty

/-- Changes a reduction tree. -/
def State.modRed (s : State) (die part : Nat) (f : RedTree → RedTree) : State :=
  s.modDie die fun d => { d with red := smSet d.red part (f (smGetD d.red part RedTree.empty)) }

/-- The reduction entry of a core (R366). -/
def Partition.redEnt (p : Partition) (core : Nat) : RedEntry := smGetD p.redEnts core { root := false, part := false, parent := 0 }

/-- The cores of a die that a partition has made participants, by local number (R298).
Log 60 (DEDUCED, unsafe). -/
def State.redParts (s : State) (die part : Nat) : List Nat :=
  (List.range 256).filter fun l => ((s.part part).redEnt (256 * die + l)).part

/-- The core of a die that a partition has made its root. -/
def State.redRoot (s : State) (die part : Nat) : Option Nat :=
  (List.range 256).find? fun l => ((s.part part).redEnt (256 * die + l)).root

/-- Whether a core's parents lead to the root within n steps (R366). -/
def Partition.redClimbs (p : Partition) (die : Nat) : Nat → Nat → Bool
  | 0, _ => false
  | n + 1, l =>
    let e := p.redEnt (256 * die + l)
    e.part && (e.root || p.redClimbs die n e.parent)

/-- Whether the participants of a die form one tree (R366): one root, which takes part, every other participant's parent a
participant, at most four children for each router, and no cycle. -/
def State.redTreeOk (s : State) (die part : Nat) : Bool :=
  let p := s.part part
  let l := s.redParts die part
  let ent := fun c => p.redEnt (256 * die + c)
  decide (((List.range 256).filter fun c => (ent c).root).length = 1)
    && l.all (fun c => p.redClimbs die 257 c)
    && l.all fun c => decide ((l.filter fun k => !(ent k).root && (ent k).parent == c).length ≤ 4)

/-- A reduction entry as the doubleword of R366 gives it. -/
def RedEntry.ofDword (v : Dword) : RedEntry :=
  { root := v.getLsbD 17, part := v.getLsbD 16, parent := (v.extractLsb' 0 8).toNat }

/-- The writes to the reduction entries of a die take effect once it has no round in progress (R366). -/
def State.applyRed (s : State) (die part : Nat) : State :=
  if (s.redTree die part).sent.isEmpty then
    s.modPart part fun p =>
      { p with
        redEnts := (p.redPend.filter fun x => dieOf x.1 == die).foldl (fun m x => smSet m x.1 (RedEntry.ofDword x.2)) p.redEnts,
        redPend := p.redPend.filter fun x => dieOf x.1 != die }
  else s

/-- Whether every participant has sent, and no earlier total waits (R298).
Log 59 (DESIGN CHOICE, safe). -/
def State.redDone (s : State) (die part : Nat) : Bool :=
  let t := s.redTree die part
  let l := s.redParts die part
  t.total.isNone && !l.isEmpty && l.all fun c => (smGet t.sent c).isSome

/-- The total of 16 lanes of 32 bits, lane by lane (R298): op 0 add, 1 min, 2 max. -/
def redLanes (op : Nat) (f32 : Bool) (a b : Wide) : Wide :=
  let f := fun x y : Nat =>
    if f32 then (if op = 0 then fp32AddNE x y else (fmt32.minMax (op == 2) x y).1)
    else if op = 0 then (x + y) % 2 ^ 32
    else
      let lt := (BitVec.ofNat 32 x).slt (BitVec.ofNat 32 y)
      if lt == (op == 1) then x else y
  (List.range 16).foldl (fun r i =>
    r ||| (BitVec.ofNat 512 (f (a.extractLsb' (32 * i) 32).toNat (b.extractLsb' (32 * i) 32).toNat) <<< (32 * i))) 0

/-- What a router combines (R298): its own core's contribution, then its children's in ascending number; with fuel. -/
def redAt (sent : SMap RedIn) (parent : Nat → Option Nat) (op : Nat) (f32 : Bool) : Nat → Nat → Option Wide
  | 0, _ => none
  | n + 1, l =>
    let kids := (List.range 256).filter fun c => parent c == some l
    (((smGet sent l).map (·.v)) :: kids.map fun c => redAt sent parent op f32 n c).foldl
      (fun acc x => match acc, x with
        | some a, some b => some (redLanes op f32 a b)
        | some a, none => some a
        | none, x => x) none

/-- Delivers the total of a round that every participant has joined (R298, R349): all ones in each lane if they differ in kind. -/
def State.redComplete (s : State) (die part : Nat) : State :=
  let t := s.redTree die part
  let kinds := (t.sent.map fun p => (p.2.op, p.2.f32)).eraseDups
  let p := s.part part
  let parent := fun l =>
    let e := p.redEnt (256 * die + l)
    if e.part && !e.root then some e.parent else none
  let total := match kinds with
    | [(op, f32)] => ((redAt t.sent parent op f32 256 ((s.redRoot die part).getD 0)).getD 0, false)
    | _ => (BitVec.allOnes 512, true)
  (s.modRed die part fun _ => { sent := [], total := some total }).applyRed die part

/-- `REDUCTION_ROUND_COMPLETE` (R298). -/
def execReductionRoundComplete (die : Nat) (s : State) : Host.Outcome State Fault Refusal :=
  .next ((s.parts.filter fun p => s.redDone die p.1).foldl (fun s p => s.redComplete die p.1) s)

/-- `RED_SEND` (R349): a second contribution waits for the next round (R298).
Log 59 (DESIGN CHOICE, safe). -/
def execRedSend (a : Reg4) (t : Bool) (p : BitVec 2) (s : State) : Host.Outcome State Fault Refusal :=
  issue (useW (enc (.redSend a t p)) [] [a.toNat] [] []) s fun s th _ =>
    let me := s.cur
    let die := dieOf me.core
    if p = 3 || !s.redTreeOk die th.part || !((s.part th.part).redEnt me.core).part then .trap cReservedField (bitsOf (.redSend a t p))
    else if (smGet (s.redTree die th.part).sent (localOf me.core)).isSome then .retry .nextRound false
    else
      .done ((s.modRed die th.part fun r =>
        { r with sent := smSet r.sent (localOf me.core) { v := s.readW me th a.toNat, op := p.toNat, f32 := t } }).afterFree
        (2 * Config.latHop) (.reductionRoundComplete die))

/-- `RED_RECV` (R349). -/
def execRedRecv (w : Reg4) (s : State) : Host.Outcome State Fault Refusal :=
  issue (useW (enc (.redRecv w)) [] [w.toNat] [] []) s fun s th _ =>
    let me := s.cur
    let die := dieOf me.core
    if !s.redTreeOk die th.part || !((s.part th.part).redEnt me.core).root then .trap cReservedField (bitsOf (.redRecv w))
    else match (s.redTree die th.part).total with
      | none => .retry .total false
      | some (v, mixed) =>
        let s1 := ((s.modRed die th.part fun r => { r with total := none }).writeW me w.toNat v).after 0
          (.reductionRoundComplete die)
        if mixed then .after s1 cReservedField 0 else .done s1

end Sys2Proof.Machine
end

