-- ==== Sys2Proof/Machine/Context.lean ====
section
/-!
DEFINITION. Editable contexts, opcodes 0x2F and 0x30 (R262, R263, R308 to R326, R352 to R356): opening and forking, edits and
their waves, the requests that a sequencer serves, position translation, and `cp.frame` (R287).
-/
namespace Sys2Proof.Machine

/-! Opening. -/

/-- Reads bytes of a space byte by byte; none where they do not all translate or are poisoned. -/
def State.readBytes (s : State) (core part space : Nat) (va n : Nat) (user : Bool) : Option (List Byte) :=
  if Config.lb < va + n then none
  else match s.unitSpan core part space (BitVec.ofNat 64 va) 1 user n with
    | .ok l => some l
    | .error _ => none

/-- The translations of a range below the local region, if all of it translates (R309). -/
def State.rangeOk (s : State) (core part space : Nat) (store user : Bool) (va n : Nat) : Option (List TlbEntry) :=
  if Config.lb < va + n then none else s.transRange core part space store user va n (n / 4096 + 2)

/-- A layer kernel table entry from its 32 bytes (R311). -/
def layerOf (l : List Byte) : LayerEnt :=
  let f := fun o n => leNat ((l.drop o).take n)
  { entry := BitVec.ofNat 32 (f 0 4), flags := BitVec.ofNat 32 (f 4 4), clusters := BitVec.ofNat 16 (f 10 2),
    die := f 8 2, fpo := BitVec.ofNat 32 (f 12 4), fmt := BitVec.ofNat 64 (f 16 8), scl := BitVec.ofNat 64 (f 24 8) }

/-- Whether a layer kernel table entry is valid (R311). -/
def LayerEnt.valid (e : LayerEnt) (window : Nat) : Bool :=
  let r : RecCopy := { addr := 0, bits := BitVec.ofNat 512 (e.entry.toNat + e.flags.toNat * 2 ^ 32), faulted := false, again := false }
  recordValid r none && !r.hasR2 && !r.isDet && !r.isOpen && e.clusters != 0 && decide (e.die < 8)
    && decide (e.fpo.toNat + window ≤ Config.localBytes)

/-- A context descriptor's fields (R308), or none where one is outside its limits. -/
def descOf (part space handle : Nat) (l : List Byte) : Option (Ctx × Nat × Nat × Nat) :=
  let f := fun o n => leNat ((l.drop o).take n)
  let c : Ctx :=
    { handle := BitVec.ofNat 32 handle, part, space, layers := f 1 1, lgb := f 0 1, thresh := BitVec.ofNat 16 (f 4 2),
      store := BitVec.ofNat 64 (f 32 8), cap := f 56 4, width := f 52 2, dk := f 54 1, dv := f 55 1,
      embed := BitVec.ofNat 64 (f 40 8), nemb := f 48 4, table := [], trans := [], counter := 0, chain := [],
      segs := [{ first := 0, factors := List.replicate 16 0x3F800000 }],
      img0 := { valid := true, version := 0, ord := 1, chain := [], segs := [] },
      img1 := { valid := false, version := 0, ord := 0, chain := [], segs := [] }, frames := [], places := [], waves := [], ord := 1,
      edits := [], answers := [], born := 0, reports := [], shared := [] }
  let count := f 24 4
  if f 2 2 = 0 ∧ 1 ≤ c.layers ∧ 1 ≤ c.lgb ∧ c.lgb ≤ 8 ∧ f 6 2 = 0 ∧ f 8 8 % 32 = 0 ∧ f 16 8 % 4 = 0 ∧ 1 ≤ count ∧ f 28 4 = 0
      ∧ c.dv ≤ 8 ∧ c.dk ≤ 8 ∧ c.width % 32 = 0 ∧ 32 ≤ c.width ∧ c.width ≤ 4096 ∧ 1 ≤ c.cap ∧ c.cap ≤ 65536
      ∧ (l.drop 60).all (· == 0) ∧ count ≤ c.cap * c.b ∧ c.store.toNat % (2 * c.f) = 0 then
    some (c, f 8 8, f 16 8, count)
  else none

/-- The address of a token's row, if the id is in use (R308). -/
def State.rowAddr (s : State) (core part space : Nat) (user : Bool) (c : Ctx) (id : Nat) : Option Nat :=
  if c.nemb ≤ id then none
  else match s.readBytes core part space (c.embed.toNat + 8 * id) 8 user with
    | some l => if leNat l = 0 then none else some (leNat l)
    | none => none

/-- The row of a token. -/
def State.tokenRow (s : State) (core part space : Nat) (user : Bool) (c : Ctx) (id : Nat) : Option (List Byte) :=
  match s.rowAddr core part space user c id with
  | some a => s.readBytes core part space a c.row user
  | none => none

/-- Whether a read of a token's row must wait (R202). -/
def State.rowHeld (s : State) (core part space : Nat) (user : Bool) (c : Ctx) (id : Nat) : Bool :=
  s.spanHeld core part space (c.embed + BitVec.ofNat 64 (8 * id)) 8 user
    || match s.rowAddr core part space user c id with
      | some a => s.spanHeld core part space (BitVec.ofNat 64 a) c.row user
      | none => false

/-- Whether a read that an open makes must wait (R202). -/
def State.openHeld (s : State) (core part space : Nat) (user : Bool) (desc : Nat) : Bool :=
  let held := fun va n => s.spanHeld core part space (BitVec.ofNat 64 va) n user
  held desc 256 || match (s.readBytes core part space desc 256 user).bind (descOf part space 0) with
    | none => false
    | some (c, table, tokens, count) =>
      held table (32 * c.layers) || held tokens (4 * count) || match s.readBytes core part space tokens (4 * count) user with
        | some l => (List.range count).any fun i => s.rowHeld core part space user c (leNat ((l.drop (4 * i)).take 4))
        | none => false

/-- A free descriptor place of a die, and the handle it gives (R309). A generation is never 0.
Log 54 (DESIGN CHOICE, unsafe). -/
def State.freeCtx (s : State) (die : Nat) : Option (Nat × Nat) :=
  ((List.range Config.contexts).find? fun i => (smGet (s.die die).ctxs i).isNone).map fun i =>
    (i, smGetD (s.die die).gens i 1 * 2 ^ 15 + die * 2 ^ 12 + i)

/-- What an open has read (R309): the context, its place, its token ids and their rows. -/
structure Opening where
  idx : Nat
  c : Ctx
  ids : List Nat
  rows : List (List Byte)
  deriving DecidableEq, Repr

/-- Reads and checks a descriptor (R309 step 2). -/
def State.readOpen (s : State) (core part space : Nat) (user : Bool) (die : Nat) (desc : Nat) : Option Opening :=
  match s.freeCtx die with
  | none => none
  | some (idx, h) =>
    match (s.readBytes core part space desc 256 user).bind (descOf part space h) with
    | none => none
    | some (c, table, tokens, count) =>
      match s.readBytes core part space table (32 * c.layers) user, s.readBytes core part space tokens (4 * count) user,
        s.rangeOk core part space false user table (32 * c.layers), s.rangeOk core part space true user c.store.toNat c.storeBytes,
        s.rangeOk core part space false user c.embed.toNat (8 * c.nemb) with
      | some tl, some kl, some ts, some ss, some _ =>
        let table := (List.range c.layers).map fun i => layerOf ((tl.drop (32 * i)).take 32)
        let ids := (List.range count).map fun i => leNat ((kl.drop (4 * i)).take 4)
        let rows := ids.map fun i => s.tokenRow core part space user c i
        if table.all (fun e => e.valid c.window) && rows.all (·.isSome) then
          some { idx, c := { c with table, trans := ts ++ ss }, ids, rows := rows.map fun r => r.getD [] }
        else none
      | _, _, _, _, _ => none

/-- Cuts a list into blocks of b, with fuel. -/
def blocks {α : Type} (b : Nat) : List α → Nat → List (List α)
  | _, 0 => []
  | l, n + 1 => if l.isEmpty then [] else l.take b :: blocks b (l.drop b) n

/-- Bytes of token ids of a block; a free slot holds 0xFFFF_FFFF (R310). -/
def idBytes (b : Nat) (l : List Nat) : List Byte :=
  l.flatMap (leBytes 4) ++ List.replicate (4 * (b - l.length)) 0xFF

/-- Rows of a block; rows of free slots are zero (R310). -/
def blockBytes (c : Ctx) (l : List (List Byte)) : List Byte := l.flatten ++ List.replicate ((c.b - l.length) * c.row) 0

/-- A new wave over a chain with a layer-0 moved set (R316). -/
def newWave (stamp : Nat) (chain : List ChainEnt) (moved : List Nat) : Wave :=
  { stamp, chain, st := (List.range chain.length).map fun j => (j, if moved.contains j then 3 else 1) }

/-- Gives a block frames of its own: version `stamp` in copy 0 of each (R309, R314). -/
def Ctx.newFrames (c : Ctx) (phys stamp : Nat) : Ctx :=
  { c with
    frames := (List.range (c.layers + 1)).foldl
      (fun m layer => smSet m (c.frameKey layer phys) { Frame.blank with v0 := some { stamp, ord := c.ord } }) c.frames,
    shared := smDel c.shared phys, ord := c.ord + 1 }

/-- Writes zeros to copy 0 of each frame of a block above layer 0 (R309). -/
def State.zeroFrames (s : State) (c : Ctx) (phys : Nat) : State :=
  (List.range c.layers).foldl (fun s i => s.ctxWrite c (c.frameAddr (i + 1) phys 0) (List.replicate c.f 0)) s

/-- Opens a context that has been read (R309 steps 3 to 5). -/
def State.openCtx (s : State) (die : Nat) (o : Opening) : State :=
  let c := o.c
  let n := (o.ids.length + c.b - 1) / c.b
  let idl := blocks c.b o.ids (n + 1)
  let rows := blocks c.b o.rows (n + 1)
  let chain := (List.range n).map fun j => ({ phys := j, fill := (idl.getD j []).length } : ChainEnt)
  let i : Image := { valid := true, version := 0, ord := 1, chain, segs := c.segs }
  let c1 := (List.range n).foldl (fun c j => c.newFrames j 0) { c with chain, img0 := i }
  let c2 := { c1 with waves := [newWave 0 chain (List.range n)] }
  let s1 := s.modDie die fun d => { d with ctxs := smSet d.ctxs o.idx c2 }
  let s2 := (s1.ctxWrite c2 (c2.imageAddr 0) (imageBytesOf i)).ctxWrite c2 (c2.imageAddr 1) (List.replicate 8 0)
  let s3 := s2.ctxWrite c2 c2.tokenBase
    ((idl.flatMap fun l => idBytes c2.b l) ++ List.replicate (4 * c2.b * (c2.cap - n)) 0xFF)
  let s4 := (List.range n).foldl
    (fun s j => (s.ctxWrite c2 (c2.frameAddr 0 j 0) (blockBytes c2 (rows.getD j []))).zeroFrames c2 j) s3
  s4.seqOn die o.idx

/-- Whether a child's shape is its parent's (R324), and its blocks lie below the child's capacity.
Log 53 (DEDUCED, unsafe). -/
def Ctx.forkOk (p c : Ctx) : Bool :=
  c.layers == p.layers && c.lgb == p.lgb && c.width == p.width && c.dk == p.dk && c.dv == p.dv
    && p.chain.all fun e => decide (e.phys < c.cap)

/-- Opens a child of a context (R324): the parent's chain, counter and versions, and every block shared.
Log 53 (DEDUCED, unsafe). -/
def State.forkCtx (s : State) (die : Nat) (o : Opening) (p : Ctx) : State :=
  let i : Image := { valid := true, version := p.newest.version, ord := 1, chain := p.chain, segs := p.segs }
  let shared := p.chain.foldl
    (fun m e => smSet m e.phys ((smGet p.shared e.phys).getD (p.store, p.tokenBase))) []
  let frames := p.chain.foldl
    (fun m e => (List.range (p.layers + 1)).foldl
      (fun m layer => smSet m (p.frameKey layer e.phys) { p.frame layer e.phys with l0 := 0, l1 := 0 }) m) []
  let c := { o.c with chain := p.chain, segs := p.segs, counter := p.counter, born := p.counter, img0 := i, shared, frames, ord := p.ord,
                      trans := o.c.trans ++ p.trans }
  let s1 := s.modDie die fun d => { d with ctxs := smSet d.ctxs o.idx c }
  ((s1.ctxWrite c (c.imageAddr 0) (imageBytesOf i)).ctxWrite c (c.imageAddr 1) (List.replicate 8 0)).ctxWrite c c.tokenBase
    (List.replicate (4 * c.b * c.cap) 0xFF)

/-! Edits (R313, R314, R323). -/

/-- What an edit comes to. -/
inductive EditRes where
  | fail (cause : Nat)
  | wait
  | done (s : State) (stamp : Nat)

/-- What an edit changes (R314): the new chain, the layer-0 moved set, whether a wave begins at layer 1 instead, and for each
block written its rows and token ids; `gone` is a block that leaves, and `fresh` one that enters. -/
structure Plan where
  chain : List ChainEnt
  moved : List Nat
  from1 : Option Nat
  writes : List (Nat × List (List Byte) × List Nat)
  fresh : Option Nat
  gone : Option Nat
  segs : List Segment

/-- The rows of layer 0 and the token ids of the filled slots of a block. -/
def State.blockNow (s : State) (die : Nat) (c : Ctx) (e : ChainEnt) : List (List Byte) × List Nat :=
  let k := match (c.frame 0 e.phys).best fun _ => true with | some (k, _) => k | none => 0
  let l := s.ctxRead die c (c.frameAddr 0 e.phys k) (e.fill * c.row)
  let ids := s.ctxRead die c (c.tokenAddr e.phys 0) (4 * e.fill)
  ((List.range e.fill).map fun i => (l.drop (i * c.row)).take c.row, (List.range e.fill).map fun i => leNat ((ids.drop (4 * i)).take 4))

/-- Puts x at place k of a list. -/
def insertAt {α : Type} (l : List α) (k : Nat) (x : α) : List α := l.take k ++ x :: l.drop k

/-- Makes room in a chain: every entry from j on moves up one place. -/
def chainInsert (l : List ChainEnt) (j : Nat) (e : ChainEnt) : List ChainEnt := insertAt l j e

/-- Plans an edit of a block (R314); a private block has been taken already. -/
def State.planEdit (s : State) (die idx : Nat) (c : Ctx) (e : EditReq) (row : List Byte) (j k : Nat) : Except Nat Plan :=
  match c.chain[j]? with
  | none => .error cEditRange
  | some x =>
    let (rows, ids) := s.blockNow die c x
    let id := e.tok.toNat
    let set := fun y => c.chain.set j y
    let p : Plan := { chain := c.chain, moved := [j], from1 := none, writes := [], fresh := none, gone := none, segs := c.segs }
    match e.kind with
    | .chg => .ok { p with writes := [(x.phys, rows.set k row, ids.set k id)] }
    | .rope => .ok p
    | .del =>
      if x.fill = 1 then
        let chain := c.chain.eraseIdx j
        .ok { p with chain, moved := if j < chain.length then [j] else [], gone := some x.phys }
      else
        .ok { p with chain := set { x with fill := x.fill - 1 }, writes := [(x.phys, rows.eraseIdx k, ids.eraseIdx k)] }
    | .ins =>
      if x.fill < c.b then
        .ok { p with chain := set { x with fill := x.fill + 1 }, writes := [(x.phys, insertAt rows k row, insertAt ids k id)] }
      else if c.chain.length = 65536 then .error cChainFull
      else match s.freeBlock die idx c with
        | none => .error cChainFull
        | some q =>
          if k = 0 then
            .ok { p with chain := chainInsert c.chain j { phys := q, fill := 1 }, fresh := some q, writes := [(q, [row], [id])] }
          else
            let new := (q, row :: rows.drop k, id :: ids.drop k)
            let chain := chainInsert (set { x with fill := k }) (j + 1) { phys := q, fill := c.b - k + 1 }
            if k = c.b then .ok { p with chain, moved := [j + 1], fresh := some q, writes := [new] }
            else .ok { p with chain, moved := [j, j + 1], fresh := some q, writes := [(x.phys, rows.take k, ids.take k), new] }

/-- Whether a copy of a record of a partition still waits to be dispatched anywhere, or to start as a successor (R319). -/
def State.recordWaits (s : State) (part : Nat) (r : RecCopy) : Bool :=
  let is := fun x : RecCopy => x.addr == r.addr && x.bits == r.bits
  s.cores.any (fun c => s.partOf c.1 == some part
      && ((c.2.deque ++ c.2.granted.toList).any is
        || c.2.groups.any fun g => g.2.phase == .succeeding && (g.2.succ.map (·.1)).any is))
    || (s.part part).ring.any fun x => x.any is

/-- Takes a record of a partition out of its deques and its spill ring. -/
def State.dropQueued (s : State) (part : Nat) (r : RecCopy) : State :=
  let is := fun x : RecCopy => x.addr == r.addr && x.bits == r.bits
  let drop := fun (s : State) (core : Nat) =>
    let s1 := s.modCore core fun c => { c with granted := c.granted.filter fun x => !is x }
    match (s1.core core).deque.findIdx? is with
    | some i => s1.takeDeque core i
    | none => s1
  ((s.cores.map (·.1)).filter fun c => s.partOf c == some part).foldl drop
    (s.modPart part fun p => { p with ring := p.ring.map fun x => x.filter fun y => !is y })

/-- Discards the records of a block that has left the chain and have not yet run (R319). -/
def State.discardGone (s : State) (die idx phys : Nat) : State :=
  match smGet (s.die die).ctxs idx with
  | none => s
  | some c =>
    (c.places.filter fun p => c.placePhys p.1 == phys && (p.2.st == .prepared || s.recordWaits c.part p.2.task)).foldl
      (fun s p => (s.dropQueued c.part p.2.task).modCtx die idx fun c =>
        { c with
          places := smDel c.places p.1,
          waves := c.waves.map fun w => if w.stamp = p.2.stamp then w.put (c.placeLayer p.1) p.2.j 4 else w }) s

/-- Carries out the plan of an edit as stamp `stamp` (R313 steps 2 to 5), whose answer follows.
Log 55 (DEDUCED, unsafe). -/
def State.applyPlan (s : State) (die idx : Nat) (e : EditReq) (p : Plan) (changed : Bool) (stamp : Nat) : State :=
  let write := fun (s : State) (x : Nat × List (List Byte) × List Nat) =>
    match smGet (s.die die).ctxs idx with
    | none => s
    | some c =>
      let (phys, rows, ids) := x
      let s1 := s.ctxWrite c (c.tokenAddr phys 0) (idBytes c.b ids)
      if p.fresh = some phys then
        (s1.ctxWrite c (c.frameAddr 0 phys 0) (blockBytes c rows)).zeroFrames c phys
      else
        let k := (c.frame 0 phys).target
        ((s1.ctxWrite c (c.frameAddr 0 phys k) (blockBytes c rows)).setVersion die c 0 phys k (some { stamp, ord := c.ord })).modCtx die
          idx fun c => { c with ord := c.ord + 1 }
  let s1 := match p.fresh with
    | some q => s.modCtx die idx fun c => c.newFrames q stamp
    | none => s
  let s2 := p.writes.foldl write s1
  let s3 := s2.modCtx die idx fun c =>
    let w := newWave stamp p.chain p.moved
    let w' := match p.from1 with
      | some j => ((List.range p.chain.length).filter fun i => j ≤ i).foldl (fun w i => w.put 1 i 2) w
      | none => w
    { c with
      chain := p.chain, segs := p.segs, waves := c.waves ++ [w'], counter := stamp,
      answers := c.answers ++ if e.w.isSome then [(stamp, e)] else [] }
  let s4 := if changed then s3.writeImage die idx stamp else s3
  match p.gone, smGet (s4.die die).ctxs idx with
  | some q, some c =>
    let s5 := if s4.sharedWith die idx c q then s4 else s4.ctxWrite c (c.tokenAddr q 0) (idBytes c.b [])
    (s5.discardGone die idx q).seqOn die idx
  | _, _ => s4.seqOn die idx

/-- Tries an edit at its sequencer (R313, R323). -/
def State.editTry (s : State) (die idx : Nat) (c : Ctx) (e : EditReq) : EditRes :=
  let pos := (e.opnd.extractLsb' 0 32).toNat
  let total := chainTotal c.chain
  let user := e.space != 0
  let stamp := c.counter + 1
  let row := s.tokenRow e.core e.part e.space user c e.tok.toNat
  let takes := e.kind == .ins || e.kind == .chg
  let bad := c.counter == 2 ^ 48 - 1 || (if e.kind = .ins then decide (total < pos) else decide (total ≤ pos))
    || (takes && row.isNone) || (e.kind == .del && total == 1)
  if takes && s.rowHeld e.core e.part e.space user c e.tok.toNat then .wait
  else if bad then .fail cEditRange
  else match chainFind c.chain pos 0 with
    | none => .fail cEditRange
    | some (j, k) =>
      if e.kind = .rope then
        let segs := c.segs.filter (fun g => decide (g.first < pos)) ++ [{ first := pos, factors := e.factors }]
        if 4 < segs.length then .fail cEditRange
        else
          .done (s.applyPlan die idx e
            { chain := c.chain, moved := [], from1 := some j, writes := [], fresh := none, gone := none, segs } true stamp) stamp
      else
        let phys := ((c.chain[j]?).map (·.phys)).getD 0
        let fill := ((c.chain[j]?).map (·.fill)).getD 0
        let touches := !(e.kind == .del && fill == 1) && !(e.kind == .ins && fill == c.b && (k == 0 || k == c.b))
        if touches && s.blockBusy die idx c phys then .wait
        else match if touches then s.takePrivate die idx phys else (s, some phys) with
        | (_, none) => .fail cChainFull
        | (s1, some q) =>
          match smGet (s1.die die).ctxs idx with
          | none => .fail cCtxInvalid
          | some c1 =>
            match s1.planEdit die idx c1 e (row.getD []) j k with
            | .error cause => .fail cause
            | .ok p =>
              if p.writes.any fun x => p.fresh != some x.1 && s1.copyLeased die c1 0 x.1 (c1.frame 0 x.1).target then .wait
              else .done (s1.applyPlan die idx e p (e.kind != .chg || q != phys) stamp) stamp

/-- `EDIT_APPLY` (R313): one at a time, in order of arrival; an edit that waits for a lease holds back the ones behind it. -/
def execEditApply (e : EditReq) (s : State) : Host.Outcome State Fault Refusal :=
  match s.ctxOf e.part (handleOf e.opnd) with
  | none => .next (s.seqRefuse e.w (editOp e.kind) e.core cCtxInvalid e.opnd)
  | some (die, idx, c) =>
    let mine := c.edits.head? == some e
    if !mine && !c.edits.isEmpty then
      .next (s.modCtx die idx fun c => if c.edits.contains e then c else { c with edits := c.edits ++ [e] })
    else
      let s0 := s.modCtx die idx fun c => { c with edits := if mine then c.edits.drop 1 else c.edits }
      match smGet (s0.die die).ctxs idx with
      | none => .next s
      | some c0 =>
        match s0.editTry die idx c0 e with
        | .fail cause => .next (s0.seqRefuse e.w (editOp e.kind) e.core cause e.opnd)
        | .wait => .next (if mine then s else s.modCtx die idx fun c => { c with edits := [e] })
        | .done s1 stamp =>
          .next (s1.klog die kEdit 0 e.part 0 e.core (BitVec.ofNat 64 stamp) (BitVec.ofNat 64 c.handle.toNat))

/-- Whether the edit at the head of a context's queue can be tried to some effect. -/
def State.editReady (s : State) (die idx : Nat) (c : Ctx) : Option EditReq :=
  match c.edits with
  | e :: _ => (match s.editTry die idx c e with | .wait => none | _ => some e)
  | [] => none

/-! The requests of opcode 0x2F. -/

/-- The release that an open-mode thread performs first (R309, R313), then the request. -/
def State.seqAsk (s : State) (w : Who) (t : Thread) (op : SeqOp) (d : Nat) (a b : Dword) (fs : List Word) : Res :=
  .wait (if t.openMode then s.drainAll w else s) (.seqRel op d a b fs)

/-- `CTX_OPEN` (R309, R352). -/
def execCtxOpen (d a : GReg) (s : State) : Host.Outcome State Fault Refusal :=
  issue (useG (enc (.ctxOpen d a)) [d.toNat, a.toNat] [a.toNat] [d.toNat]) s fun s t rd =>
    let v := rd a.toNat
    if s.notSecure s.cur t then .retry .secure false
    else if d = 0 then .trap cReservedField (bitsOf (.ctxOpen d a))
    else if v.toNat % 256 ≠ 0 then .trap cReservedField v
    else s.seqAsk s.cur t .opn d.toNat v 0 []

/-- `CTX_FORK` (R324, R352). -/
def execCtxFork (d a b : GReg) (s : State) : Host.Outcome State Fault Refusal :=
  issue (useG (enc (.ctxFork d a b)) [d.toNat, a.toNat, b.toNat] [a.toNat, b.toNat] [d.toNat]) s fun s t rd =>
    let v := rd a.toNat
    let x := rd b.toNat
    if s.notSecure s.cur t then .retry .secure false
    else if d = 0 then .trap cReservedField (bitsOf (.ctxFork d a b))
    else if v.extractLsb' 0 32 != 0#32 then .trap cReservedField v
    else if x.toNat % 256 ≠ 0 then .trap cReservedField x
    else s.seqAsk s.cur t .fork d.toNat v x []

/-- `CTX_CLOSE` (R326, R352). -/
def execCtxClose (a : GReg) (s : State) : Host.Outcome State Fault Refusal :=
  issue (useG (enc (.ctxClose a)) [a.toNat] [a.toNat] []) s fun s t rd =>
    let v := rd a.toNat
    if s.notSecure s.cur t then .retry .secure false
    else if v.extractLsb' 0 32 != 0#32 then .trap cReservedField v
    else .wait s (.seq .close 0 v 0)

/-- An edit as a thread sends it.
Log 63 (DEDUCED, unsafe). -/
def editReq (w : Option Who) (me : Who) (t : Thread) (k : EditKind) (a : Dword) (tok : Word) (fs : List Word) (now : Nat) : EditReq :=
  { kind := k, w, core := me.core, space := t.spc, part := t.part, opnd := a, tok, factors := fs, issued := now }

/-- The shape of the edits and `ctx.rope` (R313, R327): held until commit in a task, whose result register is written 0.
Log 63 (DEDUCED, unsafe). -/
def State.editAsk (s : State) (me : Who) (t : Thread) (k : EditKind) (d : Nat) (a b : Dword) (fs : List Word) : Res :=
  match s.taskOf me t with
  | some _ => .done ((s.holdEffect me t (.edit (editReq none me t k a (b.truncate 32) fs s.cycle))).writeG me d 0)
  | none => s.seqAsk me t (editOp k) d a b fs

/-- `EDIT_INS` (R313, R314). -/
def execEditIns (d a b : GReg) (s : State) : Host.Outcome State Fault Refusal :=
  issue (useG (enc (.editIns d a b)) [d.toNat, a.toNat, b.toNat] [a.toNat, b.toNat] [d.toNat]) s fun s t rd =>
    if (rd b.toNat).extractLsb' 32 32 != 0#32 then .trap cReservedField (rd b.toNat)
    else s.editAsk s.cur t .ins d.toNat (rd a.toNat) (rd b.toNat) []

/-- `EDIT_DEL` (R313, R314). -/
def execEditDel (d a : GReg) (s : State) : Host.Outcome State Fault Refusal :=
  issue (useG (enc (.editDel d a)) [d.toNat, a.toNat] [a.toNat] [d.toNat]) s fun s t rd =>
    s.editAsk s.cur t .del d.toNat (rd a.toNat) 0 []

/-- `EDIT_CHG` (R313, R314). -/
def execEditChg (d a b : GReg) (s : State) : Host.Outcome State Fault Refusal :=
  issue (useG (enc (.editChg d a b)) [d.toNat, a.toNat, b.toNat] [a.toNat, b.toNat] [d.toNat]) s fun s t rd =>
    if (rd b.toNat).extractLsb' 32 32 != 0#32 then .trap cReservedField (rd b.toNat)
    else s.editAsk s.cur t .chg d.toNat (rd a.toNat) (rd b.toNat) []

/-- Whether an FP32 factor is above zero and finite (R352). -/
def factorOk (x : Word) : Bool := !x.getLsbD 31 && x != 0 && x.extractLsb' 23 8 != 0xFF#8

/-- `CTX_ROPE` (R323, R352): the factors are a load of the thread. -/
def execCtxRope (d a b : GReg) (s : State) : Host.Outcome State Fault Refusal :=
  issue (useG (enc (.ctxRope d a b)) [d.toNat, a.toNat, b.toNat] [a.toNat, b.toNat] [d.toNat]) s fun s t rd =>
    let va := rd b.toNat
    if va.toNat % 4 ≠ 0 then .trap cMisaligned va
    else match s.gather s.cur t va 4 16 with
      | .error r => r
      | .ok (s1, l) =>
        let fs := (List.range 16).map fun i => BitVec.ofNat 32 (leNat ((l.drop (4 * i)).take 4))
        if fs.all factorOk then s1.editAsk s1.cur t .rope d.toNat (rd a.toNat) 0 fs else .trap cEditRange (rd a.toNat)

/-! The requests of opcode 0x30. -/

/-- `DMAP_GET` (R354). -/
def execDmapGet (d a : GReg) (s : State) : Host.Outcome State Fault Refusal :=
  issue (useG (enc (.dmapGet d a)) [d.toNat, a.toNat] [a.toNat] [d.toNat]) s fun s _ rd =>
    let v := rd a.toNat
    let kind := v.extractLsb' 24 2
    if v.extractLsb' 26 6 != 0#6 || kind == 3#2 || (kind != 0#2 && v.extractLsb' 0 24 != 0#24) then
      .trap cReservedField (bitsOf (.dmapGet d a))
    else .wait s (.seq .dmapGet d.toNat v 0)

/-- `DMAP_MOV` (R319, R353): held until commit in a task, and at once in open mode. -/
def execDmapMov (a b : GReg) (s : State) : Host.Outcome State Fault Refusal :=
  issue (useG (enc (.dmapMov a b)) [a.toNat, b.toNat] [a.toNat, b.toNat] []) s fun s t rd =>
    let me := s.cur
    let v := rd a.toNat
    let x := rd b.toNat
    if v.extractLsb' 0 32 != 0#32 || x.extractLsb' 1 63 != 0#63 then .trap cReservedField (bitsOf (.dmapMov a b))
    else
      let r : ReportMsg :=
        { w := some me, core := me.core, part := t.part, opnd := v, moved := x.getLsbD 0, tstamp := t.tstamp, lidx := t.lidx }
      match s.taskOf me t with
      | some _ => .done (s.holdEffect me t (.report { r with w := none }))
      | none => .wait (s.afterRoute (seqWay me.core (handleOf v / 4096 % 8)) (.dmapReport r)) (.seq .dmapMov 0 v x)

/-- `SETTLE` (R321). -/
def execSettle (a b : GReg) (s : State) : Host.Outcome State Fault Refusal :=
  issue (useG (enc (.settle a b)) [a.toNat, b.toNat] [a.toNat, b.toNat] []) s fun s _ rd =>
    let v := rd a.toNat
    let x := rd b.toNat
    if (v.extractLsb' 24 8).toNat < (v.extractLsb' 16 8).toNat ∨ (v.extractLsb' 0 16).toNat < (x.extractLsb' 48 16).toNat then
      .trap cReservedField (bitsOf (.settle a b))
    else .wait s (.seq .settle 0 v x)

/-- `CTX_RD` (R262, R263).
Log 67 (DEDUCED, unsafe). -/
def execCtxRd (d a b : GReg) (s : State) : Host.Outcome State Fault Refusal :=
  issue (useG (enc (.ctxRd d a b)) [d.toNat, a.toNat, b.toNat] [a.toNat, b.toNat] [d.toNat, d.toNat + 1]) s fun s t rd =>
    let v := rd a.toNat
    let x := rd b.toNat
    if v.extractLsb' 24 2 == 3#2 || v.extractLsb' 26 6 != 0#6 || x.extractLsb' 48 16 != 0#16 || d == 0 then
      .trap cReservedField (bitsOf (.ctxRd d a b))
    else if (if t.shadow (d.toNat + 1) then decide (128 ≤ d.toNat + 1) else decide (t.glim - t.gbase ≤ d.toNat + 1)) then
      .trap cRegLimit (bitsOf (.ctxRd d a b))
    else .wait s (.seq .ctxRd d.toNat v x)

/-- `CTX_REL` (R263): it has no effect if the thread holds no lease on the copy. -/
def execCtxRel (a : GReg) (s : State) : Host.Outcome State Fault Refusal :=
  issue (useG (enc (.ctxRel a)) [a.toNat] [a.toNat] []) s fun s t rd =>
    let me := s.cur
    let hit := fun l : Lease => l.addr == rd a.toNat
    match s.taskOf me t with
    | some g =>
      (match g.leases.find? fun l => hit l && l.num == t.num with
      | some l => .done ((s.dropLease l).modGroup me.core t.gid fun g => { g with leases := g.leases.erase l })
      | none => .done s)
    | none =>
      match t.leases.find? hit with
      | some l => .done ((s.dropLease l).modThread me fun t => { t with leases := t.leases.erase l })
      | none => .done s

/-- `BEAM_MAP` (R355). -/
def execBeamMap (a b : GReg) (s : State) : Host.Outcome State Fault Refusal :=
  issue (useG (enc (.beamMap a b)) [a.toNat, b.toNat] [a.toNat, b.toNat] []) s fun s t rd =>
    let va := rd a.toNat
    if va.toNat % 64 ≠ 0 then .trap cMisaligned va
    else match s.gather s.cur t va 64 4 with
      | .error r => r
      | .ok (s1, l) =>
        let put := fun (m : SMap Word) (i : Nat) =>
          if (rd b.toNat).getLsbD i then smSet m i (BitVec.ofNat 32 (leNat ((l.drop (4 * i)).take 4))) else m
        .done (s1.modCore s1.cur.core fun c => { c with beam := (List.range 64).foldl put c.beam })

/-- `PTB_FILL` (R322, R353). -/
def execPtbFill (a b : GReg) (s : State) : Host.Outcome State Fault Refusal :=
  issue (useG (enc (.ptbFill a b)) [a.toNat, b.toNat] [a.toNat, b.toNat] []) s fun s _ rd =>
    .wait s (.seq .ptbFill 0 (rd a.toNat) (rd b.toNat))

/-- `PTB_INV` (R356). -/
def execPtbInv (a : GReg) (s : State) : Host.Outcome State Fault Refusal :=
  issue (useG (enc (.ptbInv a)) [a.toNat] [a.toNat] []) s fun s t rd =>
    let v := rd a.toNat
    if v.extractLsb' 0 32 != 0#32 then .trap cReservedField (bitsOf (.ptbInv a))
    else if v = 0 then .done (s.modCore s.cur.core fun c => { c with ptb := [] })
    else if (s.ctxOf t.part (handleOf v)).isNone then .trap cCtxInvalid v
    else .done (s.modCore s.cur.core fun c => { c with ptb := c.ptb.filter fun e => e.handle.toNat != handleOf v })

/-- `POS_XL` (R322, R356): a miss beyond the context raises EDIT_RANGE; with no image for the stamp, the status VERSION_GONE of
R312 has no place in gD that the entry names, so gD is a free value.
Log 102 (DESIGN CHOICE, safe). -/
def execPosXl (d a b : GReg) (s : State) : Host.Outcome State Fault Refusal :=
  issue (useG (enc (.posXl d a b)) [d.toNat, a.toNat, b.toNat] [a.toNat, b.toNat] [d.toNat]) s fun s t rd =>
    let me := s.cur
    let v := rd a.toNat
    let x := rd b.toNat
    let pos := (v.extractLsb' 0 32).toNat
    if x.extractLsb' 48 16 != 0#16 then .trap cReservedField (bitsOf (.posXl d a b))
    else match s.ctxOf t.part (handleOf v) with
      | none => .trap cCtxInvalid v
      | some (_, _, c) =>
        match (s.core me.core).ptbFind (handleOf v) pos x.toNat with
        | some e =>
          .done ((s.modCore me.core fun c => c.ptbUse e).writeG me d.toNat
            (BitVec.ofNat 64 (e.idx * 2 ^ 32 + e.phys * 2 ^ 16 + (pos - e.first))))
        | none =>
          if c.counter < x.toNat then .trap cEditRange v
          else match c.imageFor x.toNat with
            | none => .done ({ s with fresh := s.fresh + 1 }.writeG me d.toNat (Config.freeDword s.fresh))
            | some i => if chainTotal i.chain ≤ pos then .trap cEditRange v else .trap cPtbMiss (BitVec.ofNat 64 pos)

/-! Service at the sequencer. -/

/-- Sends the answer to a thread's request (R352). -/
def State.seqReply (s : State) (w : Who) (die : Nat) (ws : List (Nat × Dword)) : State :=
  (s.modThread w fun t => { t with run := .waiting (.answer ws) s.cycle }).afterFree
    (latDie (dieOf w.core) die - seqWay w.core die - 1) (.agentAnswer w)

/-- The dirty-map word, counter or chain size of a `dmap.get` (R354), or the cause it raises. -/
def Ctx.mapWord (c : Ctx) (v : Dword) : Except Nat Dword :=
  let layer := (v.extractLsb' 16 8).toNat
  let word := (v.extractLsb' 0 16).toNat
  let kind := (v.extractLsb' 24 2).toNat
  if kind = 0 then
    if layer = 0 ∨ c.layers < layer then .error cEditRange
    else .ok (BitVec.ofNat 64 ((List.range 64).foldl (fun n i => n + (c.dirtyBit layer (64 * word + i)).toNat * 2 ^ i) 0))
  else if kind = 1 then .ok (BitVec.ofNat 64 c.counter)
  else .ok (BitVec.ofNat 64 (c.chain.length * 2 ^ 32 + chainTotal c.chain))

/-- Whether every frame of a `settle`'s range is settled (R321); with no image for the stamp, in the waves' own chains. -/
def State.settledRange (s : State) (die idx : Nat) (c : Ctx) (v x : Dword) : Bool :=
  let stamp := (x.extractLsb' 0 48).toNat
  let inB := fun j => decide ((x.extractLsb' 48 16).toNat ≤ j) && decide (j ≤ (v.extractLsb' 0 16).toNat)
  let layers := (List.range (c.layers + 1)).filter fun l =>
    decide (1 ≤ l) && decide ((v.extractLsb' 16 8).toNat ≤ l) && decide (l ≤ (v.extractLsb' 24 8).toNat)
  decide (stamp ≤ c.counter)
    && (match c.imageFor stamp with
      | some i => i.chain.zipIdx.all fun e => !inB e.2 || layers.all fun l => s.settled die idx c l e.1.phys stamp
      | none => c.waves.all fun w => decide (stamp < w.stamp) || (List.range w.chain.length).all fun j =>
          !inB j || layers.all fun l => frameDone (w.at l j))

/-- Serves a `ctx.rd` (R262, R263); none while it waits. -/
def State.serveRd (s : State) (w : Who) (t : Thread) (die idx : Nat) (c : Ctx) (d : Nat) (v x : Dword) : Option State :=
  let mode := (v.extractLsb' 24 2).toNat
  let layer := (v.extractLsb' 16 8).toNat
  let block := (v.extractLsb' 0 16).toNat
  let stamp := if mode = 1 then x.toNat else Nat.min x.toNat c.counter
  let gone := some (s.seqReply w die [(d, 0), (d + 1, 0x4100000000000000)])
  if mode = 1 ∧ c.counter < stamp then none
  else if c.layers < layer then some (s.takeTrap w cEditRange v t.pc)
  else match c.imageFor stamp with
    | none => gone
    | some i =>
      match i.chain[block]? with
      | none => some (s.takeTrap w cEditRange v t.pc)
      | some e =>
        if mode = 1 ∧ !s.settled die idx c layer e.phys stamp then none
        else match (c.frame layer e.phys).select mode stamp with
          | none => gone
          | some (k, ver) =>
            if 65535 ≤ s.leases die c layer e.phys k then none
            else
              let addr := c.frameAddr layer e.phys k
              let l : Lease := { num := t.num, die, idx, frame := c.frameKey layer e.phys, copy := k, addr, stamp, prior := mode == 0 }
              let s1 := s.modCtx die idx fun c => c.modFrame layer e.phys fun f => f.addLease k
              let s2 := match s1.taskOf w t with
                | some _ => s1.modGroup w.core t.gid fun g => { g with leases := l :: g.leases }
                | none => s1.modThread w fun t => { t with leases := l :: t.leases }
              let lines := (pieces addr.toNat c.f c.f).filterMap fun p => (s.ctxAccess c (BitVec.ofNat 64 p.1) p.2).map (·.line)
              let s3 := s2.modCore w.core fun c => c.dropLines fun x => lines.contains x
              some (s3.seqReply w die [(d, addr), (d + 1, BitVec.ofNat 64 ver.stamp)])

/-- The PTB entry that a `ptb.fill` gives, if its chain entry covers the position (R322). -/
def Ctx.ptbEntry (c : Ctx) (v x : Dword) : Option PtbEntry :=
  let pos := (v.extractLsb' 0 32).toNat
  let j := (x.extractLsb' 48 16).toNat
  match c.imageFor (x.extractLsb' 0 48).toNat with
  | none => none
  | some i =>
    match i.chain[j]? with
    | none => none
    | some e =>
      let first := chainTotal (i.chain.take j)
      let other := if c.img0 = i then c.img1 else c.img0
      let newer := !other.valid || decide (other.version ≤ i.version)
      if first ≤ pos ∧ pos < first + e.fill then
        some { handle := c.handle, first, fill := e.fill, idx := j, phys := e.phys, vlo := i.version,
               vhi := if newer then c.counter else other.version - 1 }
      else none

/-- Fills a core's PTB (R322), and lets the commands that wait for it look again (R287). -/
def Core.ptbFill (c : Core) (e : Option PtbEntry) : Core :=
  let look := fun u : Unit3 => { u with exec := u.exec.map fun r => match r.hold with
    | .row _ => { r with hold := .free }
    | _ => r }
  { c with
    ptb := match e with
      | some e => (e :: c.ptb.filter (· != e)).take 64
      | none => c.ptb,
    mx := look c.mx, vx := look c.vx, cp := look c.cp }

/-- Serves a request that has reached its sequencer; none while it waits there. -/
def State.seqServe (s : State) (w : Who) (t : Thread) (op : SeqOp) (d : Nat) (a b : Dword) (since : Nat) : Option State :=
  let user := t.level == .u
  let home := if op = .opn then dieOf w.core else handleOf a / 4096 % 8
  if s.cycle < since + seqWay w.core home then none
  else if op = .opn then
    if s.openHeld w.core t.part t.spc user a.toNat then none
    else match s.readOpen w.core t.part t.spc user home a.toNat with
    | some o => some ((s.openCtx home o).seqReply w home [(d, o.c.handle.zeroExtend 64)])
    | none => some (s.takeTrap w cCtxInvalid a t.pc)
  else match s.ctxOf t.part (handleOf a) with
    | none =>
      (match op with
      | .ins | .del | .chg | .rope | .dmapMov => none
      | _ => some (s.takeTrap w cCtxInvalid a t.pc))
    | some (die, idx, c) =>
      match op with
      | .fork =>
        (if s.openHeld w.core t.part t.spc user b.toNat then none
        else match s.readOpen w.core t.part t.spc user die b.toNat with
        | some o =>
          if c.forkOk o.c then some ((s.forkCtx die o c).seqReply w die [(d, o.c.handle.zeroExtend 64)])
          else some (s.takeTrap w cCtxInvalid b t.pc)
        | none => some (s.takeTrap w cCtxInvalid b t.pc))
      | .close =>
        if c.waves.isEmpty && c.frames.all fun f => f.2.l0 + f.2.l1 == 0 then
          let gen := smGetD (s.die die).gens idx 1
          let s1 := s.modDie die fun k =>
            { k with ctxs := smDel k.ctxs idx, gens := smSet k.gens idx (if gen + 1 < 2 ^ 17 then gen + 1 else 1) }
          some (s1.seqReply w die [])
        else none
      | .dmapGet =>
        (match c.mapWord a with
        | .ok v => some (s.seqReply w die [(d, v)])
        | .error cause => some (s.takeTrap w cause a t.pc))
      | .settle =>
        if c.layers < (a.extractLsb' 24 8).toNat then some (s.takeTrap w cEditRange a t.pc)
        else if s.settledRange die idx c a b then some (s.seqReply w die [])
        else none
      | .ctxRd => s.serveRd w t die idx c d a b
      | .ptbFill => some ((s.modCore w.core fun k => k.ptbFill (c.ptbEntry a b)).seqReply w die [])
      | .opn | .ins | .del | .chg | .rope | .dmapMov => none

/-- The release before a request has completed (R309, R313): the request leaves. -/
def State.seqReleased (s : State) (w : Who) (t : Thread) (op : SeqOp) (d : Nat) (a b : Dword) (fs : List Word) : State :=
  let s1 := (s.finishRelease w t .pkg true false false).modThread w fun t => { t with run := .waiting (.seq op d a b) s.cycle }
  let kind := match op with
    | .ins => some EditKind.ins
    | .del => some .del
    | .chg => some .chg
    | .rope => some .rope
    | _ => none
  match kind with
  | some k =>
    s1.afterRoute (seqWay w.core (handleOf a / 4096 % 8)) (.editApply (editReq (some w) w t k a (b.truncate 32) fs s.cycle))
  | none => s1

end Sys2Proof.Machine
end

