-- ==== Sys2Proof/Machine/System.lean ====
section
/-!
DEFINITION. Opcode 0x31 (R374, R375, R388 to R393): special registers, `trap`, the returns, `hcall`, `nop` and `wfe`; and what the
lantern cores take part in: H-level events, the hypervisor's functions, its replies and its decisions (R386, R392, R394, R395),
and the control threads that handle detached causes (R385).
-/
namespace Sys2Proof.Machine

/-! Special registers. -/

/-- The value that `mfs` reads (R67, R374): used bits, with reserved bits zero. -/
def State.readSpr (s : State) (w : Who) (t : Thread) : Spr → Dword
  | .tid => BitVec.ofNat 64 w.slot
  | .core => BitVec.ofNat 64 (w.core % 2048)
  | .clus => BitVec.ofNat 64 (clusterOf w.core % 16)
  | .die => BitVec.ofNat 64 (dieOf w.core)
  | .dev => s.host.prov.device.zeroExtend 64
  | .gidx => t.gidx.zeroExtend 64
  | .gret => t.gret.zeroExtend 64
  | .tstamp => t.tstamp
  | .lidx => t.lidx
  | .detidx => t.detidx
  | .prio => t.prio.zeroExtend 64
  | .inh => t.inh.zeroExtend 64
  | .fmtp => t.fmtp
  | .sclp => t.sclp
  | .mpol => (t.mpol.extractLsb' 0 18).zeroExtend 64
  | .fmode => (t.fen.zeroExtend 64 <<< 16) ||| t.frm.zeroExtend 64
  | .fflags => t.fflags.zeroExtend 64
  | .gbase => BitVec.ofNat 64 t.gbase
  | .glim => BitVec.ofNat 64 t.glim
  | .mirmask => t.mirmask
  | .lvec => t.lvec.zeroExtend 64
  | .cause => t.cause.zeroExtend 64
  | .tpc => t.tpc.zeroExtend 64
  | .tval => t.tval
  | .cyc => (s.core w.core).cyc
  | .ix0 => t.ix0
  | .ix1 => t.ix1
  | .ix2 => t.ix2

/-- How `mts` may write a special register (R67): at every level, at S, or never. -/
inductive SprAccess where
  | rw | sOnly | ro
  deriving DecidableEq, Repr

/-- The access entry of a special register (R67). -/
def sprAccess : Spr → SprAccess
  | .gret | .mpol | .fmode | .fflags | .lvec => .rw
  | .detidx | .prio | .gbase | .glim | .mirmask | .cause | .tpc | .tval => .sOnly
  | _ => .ro

/-- An instruction-store offset whose bit 0 is ignored (R67). -/
def evenPc (v : Dword) : Half := v.truncate 16 &&& 0xFFFE#16

/-- Writes a special register (R67, R112, R375); none where the value is out of range. -/
def Thread.writeSpr (t : Thread) (sel : Spr) (v : Dword) : Option Thread :=
  match sel with
  | .gret => some { t with gret := evenPc v }
  | .mpol => some { t with mpol := (v.extractLsb' 0 18).zeroExtend 32 }
  | .fmode => some { t with fen := v.extractLsb' 16 9, frm := v.extractLsb' 0 2 }
  | .fflags => some { t with fflags := v.extractLsb' 0 9 }
  | .lvec => some { t with lvec := evenPc v }
  | .detidx => some { t with detidx := v }
  | .prio => some { t with prio := v.extractLsb' 0 2 }
  | .cause => some { t with cause := v.extractLsb' 0 7 }
  | .tpc => some { t with tpc := evenPc v }
  | .tval => some { t with tval := v }
  | .gbase => if (v.extractLsb' 0 11).toNat = t.gbase then some t else none
  | .glim =>
    let n := (v.extractLsb' 0 12).toNat
    if t.gbase + 8 ≤ n ∧ n ≤ t.gext then some { t with glim := n } else none
  | .mirmask =>
    let m := v &&& ~~~ 1#64
    if mirrorExt m (t.glim - t.gbase) ≤ t.galloc - t.gext then some { t with mirmask := m } else none
  | _ => none

/-- `MFS` (R374). -/
def execMfs (d : GReg) (sel : Spr) (s : State) : Host.Outcome State Fault Refusal :=
  issue (useG (enc (.mfs d sel)) [d.toNat] [] [d.toNat]) s fun s t _ => .done (s.writeG s.cur d.toNat (s.readSpr s.cur t sel))

/-- `MTS` (R374, R375): a register that is read-only at the issuing level raises PRIVILEGED before its other checks (R86). `fflags`
is written in the seventh cycle after the issue, before the accruals of that cycle (R112). -/
def execMts (d : GReg) (sel : Spr) (s : State) : Host.Outcome State Fault Refusal :=
  let bits := enc (.mts d sel)
  match sprAccess sel with
  | .ro => issue (useS bits [] [] []) s fun _ _ _ => .trap cPrivileged (bitsOf (.mts d sel))
  | a =>
    issue (if a = .sOnly then useS bits [d.toNat] [d.toNat] [] else useG bits [d.toNat] [d.toNat] []) s fun s t rd =>
      match t.writeSpr sel (rd d.toNat) with
      | none => .trap cReservedField (bitsOf (.mts d sel))
      | some t' =>
        if sel = .fflags then .done (s.later s.cur .flags (t'.fflags.zeroExtend 512))
        else .done (s.modThread s.cur fun t => (t.writeSpr sel (rd d.toNat)).getD t)

/-! Traps and returns. -/

/-- `TRAP` (R389). -/
def execTrap (e : BitVec 11) (s : State) : Host.Outcome State Fault Refusal :=
  issue (useG (enc (.trap e)) [] [] []) s fun s _ _ => .after s cSoftwareTrap (e.zeroExtend 64)

/-- `HRET` (R390). -/
def execHret (s : State) : Host.Outcome State Fault Refusal :=
  issue (useG (enc .hret) [] [] []) s fun s t _ =>
    if t.handler then .left (s.handlerReturn s.cur) else .trap cReservedField (bitsOf .hret)

/-- Ends the thread that handled an aborted task's cause or a detached one: its record can be dispatched again (R391). -/
def State.endHandler (s : State) (w : Who) (t : Thread) : State :=
  let s1 := match t.record with
    | some a => s.clearMark t.recCore a
    | none => s
  s1.endThread w { t with record := none } true

/-- `TRET` (R391). -/
def execTret (s : State) : Host.Outcome State Fault Refusal :=
  issue (useS (enc .tret) [] [] []) s fun s t _ =>
    if t.ended && smGetD t.hregs 2 0 == BitVec.allOnes 64 then .left (s.endHandler s.cur t) else .left (s.trapReturn s.cur)

/-- `NOP` (R393). -/
def execNop (s : State) : Host.Outcome State Fault Refusal :=
  issue (useG (enc .nop) [] [] []) s fun s _ _ => .done s

/-- `WFE` (R393). -/
def execWfe (s : State) : Host.Outcome State Fault Refusal :=
  issue (useG (enc .wfe) [] [] []) s fun s t _ =>
    if t.event then .done (s.modThread s.cur fun t => { t with event := false }) else .wait s .wfe

/-- `HCALL` (R392): the function number and four registers go to the hypervisor, and the thread waits for its reply.
Logs 67 (DEDUCED, unsafe), 110 (DEDUCED, unsafe). -/
def execHcall (d : GReg) (n : BitVec 11) (s : State) : Host.Outcome State Fault Refusal :=
  issue (useS (enc (.hcall d n)) [d.toNat] [] []) s fun s t _ =>
    let me := s.cur
    if d = 0 then .trap cReservedField (bitsOf (.hcall d n))
    else if t.runOut d.toNat 4 then .trap cRegLimit (bitsOf (.hcall d n))
    else match s.readRun me t d.toNat 4 with
      | .error r => r
      | .ok (s1, args) =>
        let e : HEvent :=
          { cause := cHcall, tval := n.zeroExtend 64, tpc := t.pc.zeroExtend 64,
            word := BitVec.ofNat 64 (t.part * 2 ^ 24 + me.core * 2 ^ 8 + me.slot), d := d.toNat, n := n.toNat, args }
        .wait (s1.afterFree (64 + Config.latHop * (dieOf me.core % 4)) (.hypervisorEvent e)) (.hcall d.toNat)

/-- `HCALL_REPLY` (R392). -/
def execHcallReply (w : Who) (status result : Dword) (s : State) : Host.Outcome State Fault Refusal :=
  match s.waitOf w with
  | some (.hcall d) => .next (s.complete w [(d, status), (d + 1, result)])
  | _ => .next s

/-! The hypervisor. -/

/-- Sends a reply to a caller (R392). -/
def State.hvReply (s : State) (w : Who) (status : Nat) (result : Dword) : State :=
  s.afterFree (64 + Config.latHop * (dieOf w.core % 4)) (.hcallReply w (BitVec.ofNat 64 status) result)

/-- Sends the reply of a call that was not done, whose result the spec does not state.
Log 81 (DESIGN CHOICE, safe). -/
def State.hvRefuse (s : State) (w : Who) (status : Nat) : State :=
  ({ s with fresh := s.fresh + 1 } : State).hvReply w status (Config.freeDword s.fresh)

/-- The slot that an event's word names (R386). -/
def hEventWho (e : HEvent) : Who := { core := e.word.toNat / 2 ^ 8 % 2 ^ 16, slot := e.word.toNat % 2 ^ 8 }

/-- The pieces of 64 bytes that a caller's buffer lies in, as accesses for a store; none where one does not translate.
Log 82 (DEDUCED, unsafe). -/
def State.hvBuffer (s : State) (core part : Nat) (va : Dword) (n : Nat) : Option (List Access) :=
  (List.range n).mapM fun i =>
    match s.xlateNow core part 0 (va + BitVec.ofNat 64 (64 * i)) 64 true false 0x0000FF00#32 with
    | .ok a => some a
    | _ => none

/-- Function 1 of R392: an attestation report over the caller's nonce (R364), written as direct writes; the reply follows the last of them.
Log 82 (DEDUCED, unsafe). -/
def State.hvAttest (s : State) (w : Who) (part : Nat) (e : HEvent) : State :=
  let buf := e.args.getD 2 0
  let id := 64 * w.core + w.slot
  if 4 < e.args.length then
    if s.outWriting .remote id then s.after 1 (.hypervisorEvent e) else s.hvReply w 0 0
  else if s.spanHeld w.core part 0 (e.args.getD 1 0) 32 false then s.after 1 (.hypervisorEvent e)
  else match s.unitSpan w.core part 0 (e.args.getD 1 0) 1 false 32, s.hvBuffer w.core part buf 8 with
    | .ok nonce, some as =>
      if buf.toNat % 64 ≠ 0 then s.hvRefuse w 2
      else
        (as.zipIdx.foldl (fun s x =>
          s.outWrite .remote id
            (lineWriteOf x.1.pa 64 (leNat ((List.range 64).map fun i =>
              Config.attestation nonce part (s.part part).spec.clusters s.goodCores.length s.badCores (64 * x.2 + i))))) s).after 1
          (.hypervisorEvent { e with args := e.args.take 4 ++ [0] })
    | _, _ => s.hvRefuse w 2

/-- Function 2 of R392: pre-empts a task-mode group; a secure one is waited for until it has committed, and then the call is
refused (R395).
Logs 72 (DEDUCED, unsafe), 82 (DEDUCED, unsafe). -/
def State.hvPreempt (s : State) (w : Who) (part : Nat) (e : HEvent) : State :=
  let v : Who := { core := (e.args.getD 1 0).toNat, slot := (e.args.getD 2 0).toNat }
  let awaits := fun gid => match s.group v.core gid with
    | some g => g.secure && g.uncommitted
    | none => false
  match e.args[4]? with
  | some gid =>
    if awaits gid.toNat then s.after 1 (.hypervisorEvent e) else s.hvRefuse w 3
  | none =>
    if Config.cores ≤ v.core ∨ s.partOf v.core ≠ some part then s.hvRefuse w 3
    else match s.thread v with
      | none => s.hvRefuse w 3
      | some t =>
        match s.taskOf v t with
        | none => s.hvRefuse w 3
        | some g =>
          if g.secure then s.after 1 (.hypervisorEvent { e with args := e.args.take 4 ++ [BitVec.ofNat 64 t.gid] })
          else (s.after 0 (.hypervisorPreempt v)).hvReply w 0 0

/-- Function 3 of R392: assigns the next free number of a die to a mask of the partition's own usable cores there (R369).
Log 82 (DEDUCED, unsafe). -/
def State.hvMask (s : State) (w : Who) (part : Nat) (e : HEvent) : State :=
  let die := (e.args.getD 1 0).toNat
  if s.spanHeld w.core part 0 (e.args.getD 2 0) 32 false then s.after 1 (.hypervisorEvent e)
  else match s.unitSpan w.core part 0 (e.args.getD 2 0) 1 false 32 with
  | .error _ => s.hvRefuse w 2
  | .ok l =>
    let mask : BitVec 256 := BitVec.ofNat 256 (leNat l)
    let cs := maskCores mask
    if Config.dies ≤ die ∨ cs.isEmpty
        ∨ !cs.all (fun c => (s.usable part).contains (256 * die + c)) then
      s.hvRefuse w 2
    else match (List.range 256).find? fun n => (smGet (s.part part).maskSets (256 * die + n)).isNone with
      | none => s.hvRefuse w 3
      | some n =>
        (s.modPart part fun p => { p with maskSets := smSet p.maskSets (256 * die + n) mask }).hvReply w 0 (BitVec.ofNat 64 n)

/-- Whether a partition is idle but for the thread that calls (R399): no other thread, record, command or held effect. -/
def State.partIdle (s : State) (part : Nat) (w : Who) : Bool :=
  s.cores.all fun p =>
    s.partOf p.1 != some part ||
      (p.2.threads.all (fun t => p.1 == w.core && t.1 == w.slot) && p.2.deque.isEmpty && p.2.fixed.isEmpty && p.2.granted.isNone
        && p.2.detached.isEmpty && p.2.effects.isEmpty && p.2.flights.isEmpty && p.2.mx.all.isEmpty && p.2.vx.all.isEmpty
        && p.2.cp.all.isEmpty)

/-- Cycles of the wake from partition off, and microseconds (R399). -/
def offWakeUs : Nat := 200000

/-- Function 4 of R392: powers the partition off, if it is idle and the host tolerates the wake (R399). -/
def State.hvPowerOff (s : State) (w : Who) (part : Nat) : State :=
  if s.partIdle part w ∧ offWakeUs ≤ s.host.tolerance.toNat then s.after 0 (.partitionPowerOff part) else s.hvRefuse w 3

/-- The hypervisor's functions (R392). -/
def State.hvCall (s : State) (e : HEvent) : State :=
  let w := hEventWho e
  let part := e.word.toNat / 2 ^ 24
  match e.n with
  | 0 => s.hvReply w 0 Config.hypervisorVersion
  | 1 => s.hvAttest w part e
  | 2 => s.hvPreempt w part e
  | 3 => s.hvMask w part e
  | 4 => s.hvPowerOff w part
  | _ => s.hvRefuse w 1

/-- `HYPERVISOR_EVENT` (R386, R392): an event is recorded as it reaches the lantern cores; a call is acted on. One that is still
waited for carries a fifth argument, and is not recorded again.
Log 21 (DESIGN CHOICE, unsafe). -/
def execHypervisorEvent (e : HEvent) (s : State) : Host.Outcome State Fault Refusal :=
  let first := decide (e.args.length ≤ 4)
  let h := { s.host with events := s.host.events ++ [e] }
  let s1 := if first then { s with host := h } else s
  .next (if e.cause = cHcall then s1.hvCall e else s1)

/-- `HYPERVISOR_PREEMPT` (R395): the group aborts, and its record returns to the deque head, not fault-pending.
Log 72 (DEDUCED, unsafe). -/
def execHypervisorPreempt (w : Who) (s : State) : Host.Outcome State Fault Refusal :=
  match s.thread w with
  | none => .next s
  | some t =>
    match s.taskOf w t with
    | none => .next s
    | some g =>
      if g.secure || !g.uncommitted then .next s
      else .next ((s.klog (dieOf w.core) kTrap cPreempt g.part w.slot w.core 0 (t.pc.zeroExtend 64)).abortGroup w.core t.gid false none)

/-- `HYPERVISOR_RESUME` (R386, R394): a thread stopped at H resumes at its pc, or ends; a fault-pending record of the slot's core
is cleared or dropped.
Log 21 (DESIGN CHOICE, unsafe). -/
def execHypervisorResume (w : Who) (act : HAction) (s : State) : Host.Outcome State Fault Refusal :=
  match act with
  | .clearMark a => .next (s.clearMark w.core a)
  | .dropRecord a => .next (s.dropRecord w.core ((s.partOf w.core).getD 0) a)
  | .resume =>
    (match s.thread w with
    | some t => if t.run = .trapped then .next (s.wake w) else .next s
    | none => .next s)
  | .finish =>
    match s.thread w with
    | some t => if t.run = .trapped then .next (s.endThread w { t with record := none } true) else .next s
    | none => .next s

/-! Control threads of the supervisor. -/

/-- The group of a control thread that no record has started (R358, R385): open mode at S. -/
def controlGroup (part slot : Nat) : Group :=
  let r : RecCopy := { addr := BitVec.allOnes 64, bits := 0, faulted := false, again := false }
  { newGroup r false part 0 0 [slot] false with level := .s, phase := .running }

/-- Starts a control thread at S with a number of registers, if a core has room (R358, R385).
Log 80 (DESIGN CHOICE, unsafe). -/
def State.startControl (s : State) (core slot part regs : Nat) (g1 g2 : Dword) (f : Thread → Thread) : State :=
  let c := s.core core
  match roomFor c.windows (windowSize 0 regs) 8 Config.gfileSize with
  | none => s
  | some gb =>
    let t := f { Thread.fresh with
      level := .s, part, gid := c.nextGid, gbase := gb, glim := gb + regs, gext := gb + windowSize 0 regs,
      galloc := gb + windowSize 0 regs }
    let c1 := c.seat slot t g1 g2
    s.setCore core { c1 with nextGid := c.nextGid + 1, groups := smSet c1.groups c.nextGid (controlGroup part slot) }

/-- General registers of a thread that handles a detached cause (log 80).
Log 80 (DESIGN CHOICE, unsafe). -/
def detachedRegs : Nat := 32

/-- Whether a core can start a handler for its oldest detached cause (R385). -/
def State.detachedReady (s : State) (core : Nat) : Bool :=
  let c := s.core core
  !c.detached.isEmpty && !c.held && !c.freeSlots.isEmpty && (roomFor c.windows (windowSize 0 detachedRegs) 8 Config.gfileSize).isSome

/-- `DETACHED_CAUSE_START` (R385). -/
def execDetachedCauseStart (core : Nat) (s : State) : Host.Outcome State Fault Refusal :=
  let c := s.core core
  match c.detached, c.freeSlots with
  | d :: rest, slot :: _ =>
    if !s.detachedReady core then .next s
    else
      let part := (s.partOf core).getD 0
      .next ((s.modCore core fun c => { c with detached := rest }).startControl core slot part detachedRegs 0 0 fun t =>
        { t with
          pc := (s.part part).strap &&& 0xFFFE#16, handler := true, cause := BitVec.ofNat 7 d.cause, tval := d.tval, tpc := 0,
          hregs := smSet (smSet (smSet (smSet [] 0 (BitVec.ofNat 64 d.cause)) 1 d.tval) 2 (BitVec.allOnes 64)) 3 (d.record.getD 0),
          ended := true, record := d.record, recCore := core })
  | _, _ => .next s

end Sys2Proof.Machine
end

