-- ==== Sys2Proof/Machine/Walkers.lean ====
section
/-!
DEFINITION. The walkers of a die (R370, R406) and the removal of cached translations, `tlb.inv`, `tlb.all` and `tlb.all part`
(R377).
-/
namespace Sys2Proof.Machine

/-- The page that a thread waits for (R370): space, address, whether for a store, and since when. -/
def Thread.walkWait (t : Thread) : Option (Nat × Dword × Bool × Nat) :=
  match t.run with
  | .waiting (.retry (.walk space va store)) since => some (space, va, store, since)
  | _ => none

/-- Whether a walk serves an address of a space of a partition: misses on one page of 64 KiB merge (R370). -/
def Walk.serves (x : Walk) (part space : Nat) (va : Dword) : Bool :=
  x.part == part && x.space == space && x.va.toNat / 2 ^ 16 == va.toNat / 2 ^ 16

/-- A cluster TLB holds the translation that a thread waits for, or its core's own does. -/
def State.tlbHit (s : State) (w : Who) (part space : Nat) (va : Dword) : Option (TlbEntry × Bool) :=
  match tlbFind (s.core w.core).tlb part space va with
  | some e => some (e, true)
  | none => (tlbFind (s.cluster (clusterOf w.core)).tlb part space va).map fun e => (e, false)

/-- Puts a translation in the TLB of a core and of its cluster (R370). -/
def State.fillTlbs (s : State) (core : Nat) (e : TlbEntry) : State :=
  (s.modCore core fun c => { c with tlb := tlbFill c.tlb e 64 }).modCluster (clusterOf core) fun k =>
    { k with tlb := tlbFill k.tlb e 2048 }

/-- A thread whose page has come issues its instruction again; a hit in the cluster TLB takes 40 cycles (R370). -/
def State.walkHit (s : State) (w : Who) : State :=
  match s.thread w with
  | none => s
  | some t =>
    match t.walkWait with
    | none => s
    | some (space, va, _, since) =>
      match s.tlbHit w t.part space va with
      | some (e, mine) => if mine || decide (since + 40 ≤ s.cycle + 1) then (s.fillTlbs w.core e).wake w else s
      | none => s

/-- The cycle since which a thread waits for its page. -/
def Thread.missAt (t : Thread) : Nat := (t.walkWait.map fun x => x.2.2.2).getD 0

/-- Puts a miss in order of its cycle. -/
def insertMiss (x : Who × Thread) : List (Who × Thread) → List (Who × Thread)
  | [] => [x]
  | y :: t => if x.2.missAt ≤ y.2.missAt then x :: y :: t else y :: insertMiss x t

/-- The threads of a die that wait for a page that no TLB of theirs holds and no walk serves, in order of their misses. -/
def State.missing (s : State) (die : Nat) : List (Who × Thread) :=
  let d := s.die die
  let ws := (s.cores.filter fun p => dieOf p.1 == die && !isLantern p.1).flatMap fun p =>
    p.2.threads.map fun q => (({ core := p.1, slot := q.1 } : Who), q.2)
  let l := ws.filter fun x =>
    match x.2.walkWait with
    | some (space, va, _, _) =>
      (s.tlbHit x.1 x.2.part space va).isNone && !d.walkQ.any (fun q => q.who.contains x.1) && !d.walkers.any fun q => q.2.who.contains x.1
    | none => false
  l.foldr insertMiss []

/-- Adds a thread's miss to the walks of a die (R370): to one that serves its page, or behind the others. -/
def Die.addMiss (d : Die) (w : Who) (part space : Nat) (va : Dword) : Die :=
  let add := fun x : Walk => if x.serves part space va then { x with who := x.who ++ [w] } else x
  if d.walkers.any fun q => q.2.serves part space va then { d with walkers := smMap (fun _ x => add x) d.walkers }
  else if d.walkQ.any fun x => x.serves part space va then { d with walkQ := d.walkQ.map add }
  else { d with walkQ := d.walkQ ++ [Walk.new part space va [w]] }

/-- The oldest walk that may start (R370): while a walk of another partition waits, one partition holds at most eight walkers. -/
def Die.nextWalk (d : Die) : Option Walk :=
  if 32 ≤ d.walkers.length then none
  else d.walkQ.find? fun x =>
    !(d.walkQ.any fun y => y.part != x.part) || decide ((d.walkers.filter fun q => q.2.part == x.part).length < 8)

/-- The die that serves a walk's read (R406): the die of the stack; in the second tier, the home of the stage-1 table's page, or die 0 or 3 by the port
for a stage-2 table. -/
def Walk.servedBy (w : Walk) (pa : Nat) : Nat :=
  if pa < 2 ^ 51 then pa / 2 ^ 36 % 8
  else if w.inS2 then if tierPort (pa - 2 ^ 51) < 4 then 0 else 3
  else w.tdie.toNat

/-- Unloaded latency of a walker's read (R406): an L2 access of the die that serves it, or a miss there.
Log 24 (DEDUCED, unsafe). -/
def State.walkLat (s : State) (die : Nat) (w : Walk) : Nat :=
  match whereIs w.readAddr with
  | .stored pa _ => latDie die (w.servedBy pa) + s.missLat (w.servedBy pa) (pa / 128)
  | _ => Config.latL2

/-- A walker's read is an access of the L2 that serves it (R406): of the slice where the line is, or of the one that homing mode 0 picks over
every usable core of the die (R234).
Log 24 (DEDUCED, unsafe). -/
def State.walkTouch (s : State) (w : Walk) (pa : Nat) : State :=
  let die := w.servedBy pa
  let cs := (List.range 256).filter fun c => !s.isFenced (256 * die + c)
  s.l2Touch die (cs.getD (foldLine (pa / 128) % cs.length) 0) (pa / 128) (lineClass 0x0000FF00#32 (pa / 128))

/-- What a walk's fault tells one of its threads (R368): a stage-2 fault reports the guest-physical address of its own access. -/
def walkFault (x : Walk) (va : Dword) (store : Bool) (gpa : Option Nat) : Nat × Dword :=
  match gpa with
  | none => (pfCause store, va)
  | some g =>
    (cGuestFault, BitVec.ofNat 64 (if x.leaf1.isSome then g - x.va.toNat % 2 ^ 16 + va.toNat % 2 ^ 16 else g))

/-- Delivers a cause to every thread that waits for a walk's page.
Log 97 (DEDUCED, unsafe). -/
def State.walkTrap (s : State) (x : Walk) (f : Dword → Bool → Nat × Dword) : State :=
  x.who.foldl
    (fun s w => match s.thread w with
      | none => s
      | some t =>
        match t.walkWait with
        | some (space, va, store, _) =>
          if x.serves t.part space va then
            let (cause, tval) := f va store
            s.takeTrap w cause tval t.pc
          else s
        | none => s) s

/-- What a walk has come to: it reads on, or its threads have their page or their fault (R370). -/
def State.walkGoes (s : State) (die k : Nat) (x : Walk) (r : WalkRes) : State :=
  let free := s.modDie die fun d => { d with walkers := smDel d.walkers k }
  match r with
  | .more x' =>
    (s.modDie die fun d => { d with walkers := smSet d.walkers k x' }).afterFree (s.walkLat die x') (.walkReadReturn die k)
  | .done e =>
    x.who.foldl
      (fun s w => match s.thread w with
        | none => s
        | some t =>
          match t.walkWait with
          | some (space, va, _, _) => if x.serves t.part space va then (s.fillTlbs w.core e).wake w else s
          | none => s) free
  | .fault1 => free.walkTrap x fun va store => walkFault x va store none
  | .fault2 g => free.walkTrap x fun va store => walkFault x va store (some g)

/-- Starts walks while one may start, with fuel. -/
def State.startWalks (s : State) (die : Nat) : Nat → State
  | 0 => s
  | n + 1 =>
    let d := s.die die
    match d.nextWalk, (List.range 32).find? fun k => (smGet d.walkers k).isNone with
    | some x, some k =>
      let s1 := s.modDie die fun d => { d with walkQ := d.walkQ.erase x, walkers := smSet d.walkers k x }
      (s1.walkGoes die k x (s1.walkStart die x)).startWalks die n
    | _, _ => s

/-- Whether PAGE_WALK would do something on a die. -/
def State.walkDue (s : State) (die : Nat) : Bool := !(s.missing die).isEmpty || (s.die die).nextWalk.isSome

/-- `PAGE_WALK` (R370). -/
def execPageWalk (die : Nat) (s : State) : Host.Outcome State Fault Refusal :=
  let s1 := (s.missing die).foldl
    (fun s x => match x.2.walkWait with
      | some (space, va, _, _) => s.modDie die fun d => d.addMiss x.1 x.2.part space va
      | none => s) s
  .next (s1.startWalks die 32)

/-- `WALK_READ_RETURN` (R406): the entry is what has reached the home of its line; a poisoned line raises its cause in the threads
that wait (R397).
Log 23 (DEDUCED, unsafe). -/
def execWalkReadReturn (die walker : Nat) (s : State) : Host.Outcome State Fault Refusal :=
  match smGet (s.die die).walkers walker with
  | none => .next s
  | some x =>
    if !x.started then .next (s.walkGoes die walker x (s.walkStart die x))
    else match whereIs x.readAddr with
      | .stored pa _ =>
        (match smGet s.poison (pa / 128) with
        | some cause =>
          .next ((s.modDie die fun d => { d with walkers := smDel d.walkers walker }).walkTrap x fun va _ => (cause, va))
        | none =>
          let e := BitVec.ofNat 64 (leNat (memBytes s.mem pa 8))
          let (r, fill) := walkTake (s.die die).s2 (s.s2root x.part) x e
          let s0 := s.walkTouch x pa
          let s1 := match fill with
            | some y => s0.modDie die fun d => { d with s2 := s2Fill d.s2 y }
            | none => s0
          .next (s1.walkGoes die walker x r))
      | _ => .next (s.walkGoes die walker x (if x.inS2 then .fault2 x.gpa else .fault1))

/-! Removal of translations. -/

/-- Whether a removal covers an address of a space. -/
def invHits (m : TlbInvMsg) (space : Option Nat) (va : Dword) : Bool :=
  (m.space.isNone || space.isNone || m.space == space)
    && (match m.va with
      | some x => x.toNat / 2 ^ m.bits == va.toNat / 2 ^ m.bits
      | none => true)

/-- Whether a removal takes an entry: one of the space that covers the page of the address (R377). -/
def invTakes (m : TlbInvMsg) (e : TlbEntry) : Bool :=
  e.part == m.part && (m.space.isNone || m.space == some e.space)
    && (match m.va with
      | some x => e.page == x.toNat / 2 ^ e.bits
      | none => true)

/-- Whether an access or a command of a core that translated before a removal has still to be performed (R377).
Log 68 (DEDUCED, unsafe). -/
def invPending (m : TlbInvMsg) (c : Core) : Bool :=
  let since := m.done.getD 0
  c.flights.any (fun f => decide (f.id < m.mark) && invHits m none f.acc.va)
    || c.threads.any (fun p => match p.2.run with
      | .waiting (.load a _) t0 => decide (t0 ≤ since) && invHits m none a.va
      | .waiting (.rsv _ _ _ _ _) t0 => decide (t0 ≤ since)
      | _ => false)
    || [c.mx, c.vx, c.cp].any fun u => match u.exec with
      | some r => r.begun && decide (r.since ≤ since) && (m.space.isNone || m.space == some r.cmd.space)
      | none => false

/-- The lines of a thread's write-combining buffer that lie on the pages of a removal. -/
def Thread.invLines (t : Thread) (m : TlbInvMsg) : List Nat := (t.wcb.filter fun x => invHits m none x.acc.va).map (·.lw.line)

/-- Sends the acknowledgement of a removal back (R377). -/
def State.invAck (s : State) (m : TlbInvMsg) : State :=
  let die := if m.level = 0 then dieOf m.target else if m.level = 1 then m.target / 16 else m.target
  s.afterFree (latMsg die (dieOf m.w.core)) (.tlbInvArrival { m with level := 3 })

/-- `TLB_INV_ARRIVAL` (R377): a core removes the entries and drains the lines of the pages, and acknowledges once everything that
translated through them has been performed; a die's walks of the pages begin again.
Log 68 (DEDUCED, unsafe). -/
def execTlbInvArrival (m : TlbInvMsg) (s : State) : Host.Outcome State Fault Refusal :=
  if m.level = 0 then
    let (s1, m1) :=
      if m.done.isSome then (s, m)
      else
        let s1 := s.modCore m.target fun c => { c with tlb := c.tlb.filter fun e => !invTakes m e }
        let s2 := (s1.core m.target).threads.foldl
          (fun s p => s.drainWcb { core := m.target, slot := p.1 } fun l => (p.2.invLines m).contains l) s1
        (s2, { m with done := some s.cycle, mark := (s2.core m.target).uses })
    if invPending m1 (s1.core m.target) then .next (s1.after 1 (.tlbInvArrival m1)) else .next (s1.invAck m1)
  else if m.level = 1 then
    .next ((s.modCluster m.target fun k => { k with tlb := k.tlb.filter fun e => !invTakes m e }).invAck m)
  else if m.level = 2 then
    let again := fun x : Walk =>
      if x.part == m.part && invHits m (some x.space) x.va then Walk.new x.part x.space x.va x.who else x
    .next ((s.modDie m.target fun d =>
      { d with
        s2 := if m.space.isNone then d.s2.filter (fun e => e.part != m.part) else d.s2,
        walkers := smMap (fun _ x => again x) d.walkers }).invAck m)
  else
    .next (match s.waitOf m.w with
      | some (.tlbInv n l) => s.modThread m.w fun t => { t with run := .waiting (.tlbInv (n - 1) l) s.cycle }
      | _ => s)

/-- Whether a removal has come to its end (R377), and then completes. -/
def State.tlbInvDone (s : State) (w : Who) : State :=
  match s.waitOf w with
  | some (.tlbInv 0 l) =>
    if l.all fun x => match s.group x.1 x.2 with
      | some g => !g.uncommitted
      | none => true
    then s.complete w [] else s
  | _ => s

/-- The logarithm of the size of the largest page that a TLB of a partition holds for an address, 64 KiB at least.
Log 68 (DEDUCED, unsafe). -/
def State.pageBits (s : State) (part : Nat) (space : Nat) (va : Dword) : Nat :=
  let l := s.cores.flatMap (fun p => p.2.tlb) ++ s.clusters.flatMap fun p => p.2.tlb
  (l.filter fun e => e.part == part && e.space == space && e.page == va.toNat / 2 ^ e.bits).foldl (fun n e => Nat.max n e.bits) 16

/-- Sends a removal to every TLB of the partition (R377): its cores, its clusters and the walkers of its dies.
Log 68 (DEDUCED, unsafe). -/
def State.tlbInv (s : State) (w : Who) (t : Thread) (space : Option Nat) (va : Option Dword) : Res :=
  let set := (s.part t.part).spec.clusters
  let ks := (List.range 128).filter fun k => set.getLsbD k
  let ds := (List.range 8).filter fun d => ks.any fun k => k / 16 == d
  let cs := (List.range Config.cores).filter fun c => set.getLsbD (clusterOf c)
  let bits := match space, va with
    | some sp, some a => s.pageBits t.part sp a
    | _, _ => 16
  let msg := fun level target : Nat =>
    ({ level, target, part := t.part, space, va, bits, w, done := none, mark := 0 } : TlbInvMsg)
  let send := fun (s : State) (x : Nat × Nat × Nat) =>
    s.afterFree (latMsg (dieOf w.core) x.2.2) (.tlbInvArrival (msg x.1 x.2.1))
  let all := cs.map (fun c => (0, c, dieOf c)) ++ ks.map (fun k => (1, k, k / 16)) ++ ds.map fun d => (2, d, d)
  let tasks := (s.cores.filter fun p => !isLantern p.1).flatMap fun p =>
    (p.2.groups.filter fun g => g.2.part == t.part && g.2.uncommitted).map fun g => (p.1, g.1)
  .wait (all.foldl send s) (.tlbInv all.length tasks)

/-- `TLB_INV` (R377). -/
def execTlbInv (d a : GReg) (s : State) : Host.Outcome State Fault Refusal :=
  issue (useS (enc (.tlbInv d a)) [d.toNat, a.toNat] [a.toNat, d.toNat] []) s fun s t rd =>
    if 4096 ≤ (rd d.toNat).toNat then .trap cReservedField (bitsOf (.tlbInv d a))
    else s.tlbInv s.cur t (some (rd d.toNat).toNat) (some (rd a.toNat))

/-- `TLB_ALL` (R377). -/
def execTlbAll (a : GReg) (s : State) : Host.Outcome State Fault Refusal :=
  issue (useS (enc (.tlbAll a)) [a.toNat] [a.toNat] []) s fun s t rd =>
    if 4096 ≤ (rd a.toNat).toNat then .trap cReservedField (bitsOf (.tlbAll a))
    else s.tlbInv s.cur t (some (rd a.toNat).toNat) none

/-- `TLB_ALL_PART` (R377). -/
def execTlbAllPart (s : State) : Host.Outcome State Fault Refusal :=
  issue (useS (enc .tlbAllPart) [] [] []) s fun s t _ => s.tlbInv s.cur t none none

end Sys2Proof.Machine
end

