-- ==== Sys2Proof/Machine/Priv.lean ====
section
/-!
DEFINITION. The rest of opcode 0x32 (R376, R378 to R381): `ist.inv` with IST_INV_ARRIVAL, `klog`, and saving and restoring a thread.
-/
namespace Sys2Proof.Machine

/-- `IST_INV` (R378): the message keeps its place behind what the thread has sent to the core (R260). -/
def execIstInv (a : GReg) (s : State) : Host.Outcome State Fault Refusal :=
  issue (useS (enc (.istInv a)) [a.toNat] [a.toNat] []) s fun s t rd =>
    let me := s.cur
    let v := rd a.toNat
    let dst := (v.extractLsb' 0 11).toNat
    if v.extractLsb' 11 53 != 0#53 then .trap cReservedField (bitsOf (.istInv a))
    else if !(s.part t.part).spec.clusters.getLsbD (clusterOf dst) then .trap cPartitionViolation v
    else
      let last := s.lastArrival { src := me, origin := 0, dst, cls := 0, words := [], report := false, copy := none }
      .wait (s.afterFree (Nat.max (latMsg (dieOf me.core) (dieOf dst)) (last - s.cycle)) (.istInvArrival dst me)) .istInv

/-- `IST_INV_ARRIVAL` (R378): the core's threads discard what they have fetched ahead, and the acknowledgement returns. -/
def execIstInvArrival (core : Nat) (w : Who) (s : State) : Host.Outcome State Fault Refusal :=
  let s1 := s.modCore core fun c => { c with threads := smMap (fun _ t => { t with ahead := [] }) c.threads }
  match s1.waitOf w with
  | some .istInv =>
    .next ((s1.modThread w fun t => { t with run := .waiting (.answer []) s.cycle }).afterFree
      (latMsg (dieOf core) (dieOf w.core) - 1) (.agentAnswer w))
  | _ => .next s1

/-- `KLOG` (R379): the entry carries `cyc` in its last doubleword.
Log 69 (DEDUCED, unsafe). -/
def execKlog (a : GReg) (c : BitVec 8) (s : State) : Host.Outcome State Fault Refusal :=
  issue (useS (enc (.klog a c)) [a.toNat] [a.toNat] []) s fun s t rd =>
    let me := s.cur
    .done (s.klog (dieOf me.core) kSoftware c.toNat t.part me.slot me.core (rd a.toNat) (s.core me.core).cyc)

/-! The area of a saved thread (R380). -/

/-- A length as whole sections of 64 bytes. -/
def pad64 (n : Nat) : Nat := (n + 63) / 64 * 64

/-- A section of an area: bytes, with zeros up to a multiple of 64. -/
def section64 (l : List Byte) : List Byte := l ++ List.replicate (pad64 l.length - l.length) 0

/-- The bytes of doublewords. -/
def dwBytes (l : List Dword) : List Byte := l.flatMap fun v => leBytes 8 v.toNat

/-- The completion words of a report list, the first sixteen (R380). -/
def doneWords (l : List Report) : List Word := (l.filterMap (·.done)).take 16

/-- The sixteen places of a report list's completion words. -/
def doneBytes (l : List Report) : List Byte :=
  let ws := doneWords l
  (List.range 16).flatMap fun i => leBytes 4 (ws.getD i 0).toNat

/-- The 64 bytes of a bound generator: its descriptor (R277), then its binding, number and policy in the reserved words. -/
def genBytes (i : Nat) (g : Gen) : List Byte :=
  let (reg, dir) := match g.bound with
    | some (r, .input) => (r, 0)
    | some (r, .output) => (r, 1)
    | some (r, .arrive) => (r, 2)
    | none => (0, 3)
  leBytes 8 g.base.toNat
    ++ [g.stride0, g.stride1, g.stride2, g.count0, g.count1, g.count2, g.pos0, g.pos1, g.pos2].flatMap (fun w => leBytes 4 w.toNat)
    ++ leBytes 4 (g.size.toNat + 8 * g.sext.toNat)
    ++ leBytes 4 (reg + dir * 2 ^ 8 + i * 2 ^ 16 + g.exhausted.toNat * 2 ^ 24) ++ leBytes 4 g.pol.toNat ++ leBytes 8 0

/-- The 40 bytes of a held message: a header of its sender, origin, length and number, and four doublewords. -/
def heldBytes (h : Held) : List Byte :=
  leBytes 8 (h.msg.src.core + h.msg.src.slot * 2 ^ 16 + h.msg.origin * 2 ^ 24 + h.msg.words.length * 2 ^ 28 + h.num * 2 ^ 32)
    ++ dwBytes ((List.range 4).map fun i => h.msg.words.getD i 0)

/-- The 256 bytes of a bound class: its binding, how many messages it holds, and the messages. -/
def classBytes (cls : Nat) (k : MsgClass) : List Byte :=
  let l := leBytes 8 (k.reg + (k.n - 1) * 2 ^ 8 + k.named.toNat * 2 ^ 10 + k.armed.toNat * 2 ^ 11 + k.ready.toNat * 2 ^ 12
      + cls * 2 ^ 16) ++ leBytes 8 k.held.length ++ (k.held.take 4).flatMap heldBytes
  l ++ List.replicate (256 - l.length) 0

/-- The 4 KiB of a tile. -/
def tileBytes (c : Core) (j : Nat) : List Byte := (List.range 1024).flatMap fun i => leBytes 4 (smGetD c.tiles (1024 * j + i) 0).toNat

/-- A footprint range: its descriptor (R75) and its contents. -/
def rangeBytes (c : Core) (g : Group) (x : Nat × Nat) : List Byte :=
  let base := if g.task.range1.off = x.1 then g.task.range1.base else 0
  leBytes 8 base.toNat ++ leBytes 8 (x.1 * 2 ^ 24 + x.2)
    ++ (List.range (x.2 / 4)).flatMap fun i => leBytes 4 (c.lword (x.1 / 4 + i)).toNat

/-- A number with bit i set for each member of a list. -/
def bitsFrom (l : List Nat) : Nat := l.foldl (fun n i => n + 2 ^ i) 0

/-- The classes that a slot has bound. -/
def Core.boundClasses (c : Core) (slot : Nat) : List (Nat × MsgClass) := c.classes.filter fun p => p.2.slot == some slot

/-- The generators that a slot has bound. -/
def Core.boundGens (c : Core) (slot : Nat) : List (Nat × Gen) := c.gens.filter fun p => p.2.owner == some slot && p.2.bound.isSome

/-- The area of a thread (R380): everything of it but its control doubleword's length.
Log 70 (DESIGN CHOICE, unsafe). -/
def State.areaOf (s : State) (v : Who) (t : Thread) (tag : Nat) : List Byte :=
  let c := s.core v.core
  let g := if t.num = 0 && !t.spawned then s.group v.core t.gid else none
  let gens := c.boundGens v.slot
  let classes := c.boundClasses v.slot
  let tiles := if g.any (·.claim) then List.range 8 else []
  let pins := (g.map (·.pins)).getD []
  let regs := t.glim - t.gbase
  let sprs : List Spr :=
    [.gret, .tstamp, .lidx, .detidx, .prio, .inh, .fmtp, .sclp, .mpol, .fmode, .fflags, .lvec, .cause, .tpc, .tval, .ix0, .ix1,
     .ix2]
  let rest :=
    dwBytes (t.mirmask :: sprs.map (s.readSpr v t)) ++ leBytes 8 (t.fmtWord.toNat + t.fmtRest.toNat * 2 ^ 32) ++ leBytes 8 tag
      ++ leBytes 8 (bitsFrom (gens.map (·.1)) + bitsFrom (classes.map (·.1)) * 2 ^ 8 + bitsFrom tiles * 2 ^ 24 + pins.length * 2 ^ 32)
      ++ leBytes 8 ((doneWords t.repMx).length + (doneWords t.repVx).length * 2 ^ 8 + (doneWords t.repCp).length * 2 ^ 16)
      ++ dwBytes ((List.range 8).map fun i => smGetD t.hregs i 0) ++ leBytes 256 t.dirty.toNat
      ++ section64 (dwBytes ((List.range regs).map fun i => if i = 0 then 0 else smGetD c.gfile (t.gbase + i) 0))
      ++ (if t.compute then
            ((List.range t.wcount).flatMap fun i => leBytes 64 (smGetD c.wfile (t.wbase + i) 0).toNat)
              ++ section64 (dwBytes ((List.range 7).map fun i => smGetD t.kregs (i + 1) 0))
          else [])
      ++ section64 (doneBytes t.repMx ++ doneBytes t.repVx ++ doneBytes t.repCp)
      ++ gens.flatMap (fun p => genBytes p.1 p.2) ++ classes.flatMap (fun p => classBytes p.1 p.2)
      ++ tiles.flatMap (tileBytes c) ++ pins.flatMap fun x => section64 (rangeBytes c (g.getD (controlGroup 0 0)) x)
  let ctl := (rest.length + 8) / 64 * 2 ^ 48 + t.pc.toNat * 2 ^ 32 + t.handler.toNat * 2 ^ 23 + (t.level == .s).toNat * 2 ^ 22
    + t.compute.toNat * 2 ^ 21 + t.wcount / 4 * 2 ^ 16 + regs * 2 ^ 8
  leBytes 8 ctl ++ rest

/-- Stores bytes of an area as open-mode stores of the issuing thread, 64 at a time (R380); with the first fault. -/
def State.areaPut (s : State) (w : Who) (t : Thread) (va : Dword) : List (List Byte) → Except (Nat × Dword) State
  | [] => .ok s
  | l :: rest =>
    let v := leNat l
    let next := fun s1 : State => s1.areaPut w t (va + 64) rest
    match placeOf w.core va with
    | .bad => .error (cLocalBound, va)
    | .own off => next (s.modCore w.core fun c => c.lwrite off 64 v)
    | .window core off => next (s.modCore core fun c => c.lwrite off 64 v)
    | .memory =>
      match s.xlateNow w.core t.part t.spc va 64 true (t.level == .u) t.mpol with
      | .ok a => next (s.wcbPut w a (lineWriteOf a.pa 64 v))
      | .fault cause tval => .error (cause, tval)
      | .control _ => .error (cMisaligned, va)
      | .miss => .error (cPageFaultStore, va)

/-- An area in areaPieces of 64 bytes.
Log 70 (DESIGN CHOICE, unsafe). -/
def areaPieces (l : List Byte) : List (List Byte) := (List.range (l.length / 64)).map fun i => (l.drop (64 * i)).take 64

/-! `tsave`. -/

/-- Stops a thread to be saved (R380): its gang disbands, its waiting instruction and its special-function request are abandoned,
its write-combining buffer drains, and its reservation goes. A gang follower that waits for nothing will resume at `gret`. -/
def State.stopForSave (s : State) (v : Who) : State :=
  match s.thread v with
  | none => s
  | some x =>
    let pc := if x.follower && x.run == .ready then x.gret else x.pc
    (((((s.leaveGang v cPreempt).cancelWait v).dropPieces v).drainAll v).rsvForget v).modThread v fun t =>
      { t with pc, fwd := false, run := .waiting .saved s.cycle }

/-- Whether a stopped thread's results are written, its engine commands have completed and its round updates have been delivered
(R60, R164, R202, R380). -/
def State.saveReady (s : State) (v : Who) : Bool :=
  let c := s.core v.core
  c.writes.all (fun r => r.slot != v.slot) && (c.mx.all ++ c.vx.all ++ c.cp.all).all (fun k => k.w != v)
    && s.agenda.all fun x => match x.ev with
      | .roundOpenArrival m | .roundUpdateArrival m | .roundUpdateResend m | .roundDoneArrival m => m.w != v
      | _ => true

/-- Whether a thread may be saved (R380). -/
def Thread.savable (t : Thread) (part : Nat) : Bool := t.openMode && t.part == part && !t.hasRetired && t.run != .waiting .footprint 0

/-- `TSAVE` (R380). -/
def execTsave (a : GReg) (n : BitVec 6) (s : State) : Host.Outcome State Fault Refusal :=
  issue (useS (enc (.tsave a n)) [a.toNat] [a.toNat] []) s fun s t rd =>
    let me := s.cur
    let va := rd a.toNat
    let v : Who := { me with slot := n.toNat }
    let bad := Res.trap cReservedField (n.zeroExtend 64)
    if va.toNat % 64 ≠ 0 then .trap cMisaligned va
    else match s.thread v with
      | none => bad
      | some x =>
        if n.toNat = me.slot ∨ !x.savable t.part then bad
        else match s.areaPut me t va (areaPieces (s.areaOf v x s.nextTag)) with
          | .error (cause, tval) => .trap cause tval
          | .ok _ => .wait (s.stopForSave v) (.tsave n.toNat va)

/-- Takes a saved thread out of its slot: what the device keeps of it stands under its tag, its classes pass their held messages
to the area, and a group with no thread left is gone. -/
def State.takeOut (s : State) (v : Who) (x : Thread) : State :=
  let g := (s.group v.core x.gid).getD (controlGroup x.part v.slot)
  let tag : SavedTag :=
    { leases := x.leases, parts := x.parts, nestL := x.nestL, nestC0 := x.nestC0, nestC1 := x.nestC1, num := x.num,
      task := g.task, cfg := g.cfg, spawned := x.spawned, ended := x.ended, record := x.record, recCore := x.recCore,
      taken := ((s.core v.core).boundGens v.slot).map fun p => (p.1, p.2.taken),
      away := x.away ++ (((s.core v.core).flights.filter fun f => f.w == v).map fun f => (v.core, f.id)) }
  let classes := (s.core v.core).boundClasses v.slot
  let s1 := x.next.foldl (fun s p => s.detach v.core p.1 p.2 none) s
  let s2 := { s1 with tags := smSet s1.tags s1.nextTag tag, nextTag := s1.nextTag + 1 }
  let s3 := (classes.foldl (fun s p => s.modClass v.core p.1 fun k => { k with held := [] }) s2).modThread v fun t =>
    { t with leases := [] }
  let s4 := classes.foldl (fun s p => s.freedPlace v.core p.1) (s3.freeSlot v)
  let s5 := s4.modGroup v.core x.gid fun g => { g with slots := g.slots.filter (· != v.slot) }
  if ((s5.core v.core).members x.gid).isEmpty then s5.modCore v.core fun c => { c with groups := smDel c.groups x.gid }
  else s5.groupEnd v.core x.gid

/-- Completes a `tsave` whose thread is ready to be saved (R380).
Log 70 (DESIGN CHOICE, unsafe). -/
def State.finishSave (s : State) (w : Who) : State :=
  match s.waitOf w, s.thread w with
  | some (.tsave slot va), some t =>
    let v : Who := { w with slot }
    (match s.thread v with
    | none => s.complete w []
    | some x =>
      if !s.saveReady v then s
      else match s.areaPut w t va (areaPieces (s.areaOf v x s.nextTag)) with
        | .error (cause, tval) => (s.modThread v fun x => { x with run := .ready }).takeTrap w cause tval t.pc
        | .ok s1 => (s1.takeOut v x).complete w [])
  | _, _ => s

/-! `trest`. -/

/-- A doubleword of an area. -/
def areaDw (l : List Byte) (off : Nat) : Nat := leNat ((l.drop off).take 8)

/-- A word of an area. -/
def areaWord (l : List Byte) (off : Nat) : Nat := leNat ((l.drop off).take 4)

/-- What the first 512 bytes of an area tell: sizes, and where its sections start. -/
structure AreaPlan where
  regs : Nat
  wide : Nat
  compute : Bool
  gens : List Nat
  classes : List Nat
  tiles : List Nat
  nranges : Nat
  counts : Nat × Nat × Nat
  oW : Nat
  oRep : Nat
  oGen : Nat
  oCls : Nat
  oTile : Nat
  oRange : Nat

/-- Reads the plan of an area. -/
def areaPlan (l : List Byte) : AreaPlan :=
  let ctl := areaDw l 0
  let b := areaDw l 176
  let n := areaDw l 184
  let regs := natBits ctl 8 8
  let wide := 4 * natBits ctl 16 3
  let compute := natBits ctl 21 1 == 1
  let bits := fun lo k => (List.range k).filter fun i => natBits b (lo + i) 1 == 1
  let gens := bits 0 8
  let classes := bits 8 16
  let tiles := bits 24 8
  let oW := 512 + pad64 (8 * regs)
  let oRep := if compute then oW + 64 * wide + 64 else oW
  let oGen := oRep + 192
  let oCls := oGen + 64 * gens.length
  let oTile := oCls + 256 * classes.length
  { regs, wide, compute, gens, classes, tiles, nranges := natBits b 32 2, counts := (natBits n 0 5, natBits n 8 5, natBits n 16 5),
    oW, oRep, oGen, oCls, oTile, oRange := oTile + 4096 * tiles.length }

/-- The footprint ranges of an area: offset, length and where the contents start. -/
def areaRanges (l : List Byte) : Nat → Nat → List (Nat × Nat × Nat)
  | 0, _ => []
  | n + 1, o =>
    let w := areaDw l (o + 8)
    let len := natBits w 0 24
    (natBits w 24 24, len, o + 16) :: areaRanges l n (o + pad64 (16 + len))

/-- Where the last range of an area ends. -/
def areaEnd (p : AreaPlan) (rs : List (Nat × Nat × Nat)) : Nat := rs.foldl (fun n r => n + pad64 (16 + r.2.1)) p.oRange

/-- A generator of an area, with its number. -/
def areaGen (l : List Byte) (o slot : Nat) : Option (Nat × Gen) :=
  let b := areaWord l (o + 48)
  let dir := match natBits b 8 8 with
    | 0 => some Dir.input
    | 1 => some Dir.output
    | 2 => some Dir.arrive
    | _ => none
  match Gen.free.ofBytes slot ((l.drop o).take 48 ++ List.replicate 16 0), dir with
  | some g, some d =>
    some (natBits b 16 8,
      { g with exhausted := natBits b 24 1 == 1, bound := some (natBits b 0 8, d), pol := BitVec.ofNat 32 (areaWord l (o + 52)) })
  | _, _ => none

/-- A held message of an area. -/
def areaHeld (l : List Byte) (o core cls : Nat) : Held :=
  let h := areaDw l o
  { num := natBits h 32 32,
    msg :=
      { src := { core := natBits h 0 16, slot := natBits h 16 8 }, origin := natBits h 24 4, dst := core, cls,
        words := (List.range (natBits h 28 4)).map (fun i => BitVec.ofNat 64 (areaDw l (o + 8 + 8 * i))), report := false,
        copy := none } }

/-- Binds a class as an area says, behind what the class already holds. -/
def areaClass (l : List Byte) (o core cls slot : Nat) (k : MsgClass) : MsgClass :=
  let b := areaDw l o
  let held := (List.range (Nat.min 4 (areaDw l (o + 8)))).map fun i => areaHeld l (o + 16 + 40 * i) core cls
  { k with
    slot := some slot, reg := natBits b 0 8, n := natBits b 8 2 + 1, named := natBits b 10 1 == 1, armed := natBits b 11 1 == 1,
    ready := natBits b 12 1 == 1, held := held ++ k.held,
    counts := held.foldl (fun m h => smSet m (senderKey h.msg) (h.num + 1)) k.counts }

/-- The limits of an area's control word and fields (R381).
Log 71 (DESIGN CHOICE, unsafe). -/
def areaOk (l : List Byte) (p : AreaPlan) (rs : List (Nat × Nat × Nat)) : Bool :=
  let ctl := areaDw l 0
  natBits ctl 24 8 == 0 && natBits ctl 19 2 == 0 && natBits ctl 0 8 == 0 && natBits ctl 32 1 == 0
    && decide (8 ≤ p.regs) && decide (p.regs ≤ 128) && decide (p.wide ≤ 16) && p.compute == decide (4 ≤ p.wide)
    && areaDw l 8 % 2 == 0 && areaDw l 16 % 2 == 0 && decide (areaDw l 16 < 2 ^ 16) && decide (areaDw l 48 < 4)
    && decide (areaDw l 56 < 2 ^ 16) && decide (areaDw l 80 < 2 ^ 18) && natBits (areaDw l 88) 2 14 == 0
    && decide (areaDw l 88 < 2 ^ 25) && decide (areaDw l 96 < 2 ^ 9) && areaDw l 104 % 2 == 0 && decide (areaDw l 104 < 2 ^ 16)
    && decide (areaDw l 112 < 2 ^ 7) && areaDw l 120 % 2 == 0 && decide (areaDw l 120 < 2 ^ 16) && decide (areaDw l 160 < 2 ^ 33)
    && decide (areaDw l 176 < 2 ^ 34) && decide (p.nranges ≤ 2)
    && areaDw l 184 == p.counts.1 + p.counts.2.1 * 2 ^ 8 + p.counts.2.2 * 2 ^ 16
    && decide (p.counts.1 ≤ 16) && decide (p.counts.2.1 ≤ 16) && decide (p.counts.2.2 ≤ 16)
    && !p.classes.contains 15
    && rs.all (fun r => r.1 % 4 == 0 && r.2.1 % 4 == 0 && decide (r.1 + r.2.1 ≤ Config.localBytes))
    && areaEnd p rs == 64 * natBits ctl 48 16

/-- Reports of a restored thread, which no command will complete. -/
def areaReports (l : List Byte) (o n : Nat) : List Report :=
  (List.range n).map fun i => { seq := 2 ^ 64 + i, done := some (BitVec.ofNat 32 (areaWord l (o + 4 * i))), lines := [] }

/-- The thread that an area holds (R380, R381). -/
def areaThread (l : List Byte) (p : AreaPlan) (x : Option SavedTag) (part space gid gb wb now : Nat) : Thread :=
  let ctl := areaDw l 0
  let d := fun off => BitVec.ofNat 64 (areaDw l off)
  let mask := d 8
  { Thread.fresh with
    pc := BitVec.ofNat 16 (natBits ctl 32 16), handler := natBits ctl 23 1 == 1, level := if natBits ctl 22 1 = 1 then .s else .u,
    compute := p.compute, part, space, gid, num := (x.map (·.num)).getD 0, spawned := (x.map (·.spawned)).getD false,
    gbase := gb, glim := gb + p.regs, gext := gb + windowSize 0 p.regs, galloc := gb + windowSize mask p.regs, mirmask := mask,
    wbase := wb, wcount := p.wide,
    kregs := if p.compute then
        (List.range 7).foldl (fun m i => smSet m (i + 1) (d (p.oW + 64 * p.wide + 8 * i))) [] else [],
    hregs := (List.range 8).foldl (fun m i => smSet m i (d (192 + 8 * i))) [],
    gret := BitVec.ofNat 16 (areaDw l 16), tstamp := d 24, lidx := d 32, detidx := d 40, prio := BitVec.ofNat 2 (areaDw l 48),
    inh := BitVec.ofNat 16 (areaDw l 56), fmtp := d 64, sclp := d 72, mpol := BitVec.ofNat 32 (areaDw l 80),
    frm := BitVec.ofNat 2 (areaDw l 88), fen := BitVec.ofNat 9 (natBits (areaDw l 88) 16 9), fflags := BitVec.ofNat 9 (areaDw l 96),
    lvec := BitVec.ofNat 16 (areaDw l 104), cause := BitVec.ofNat 7 (areaDw l 112), tpc := BitVec.ofNat 16 (areaDw l 120),
    tval := d 128, ix0 := d 136, ix1 := d 144, ix2 := d 152, fmtWord := BitVec.ofNat 32 (areaDw l 160),
    fmtRest := natBits (areaDw l 160) 32 1 == 1,
    dirty := BitVec.ofNat 2048 (leNat ((l.drop 256).take 256)), repMx := areaReports l p.oRep p.counts.1,
    repVx := areaReports l (p.oRep + 64) p.counts.2.1, repCp := areaReports l (p.oRep + 128) p.counts.2.2, lastIssue := some now,
    nestL := (x.map (·.nestL)).getD 0, nestC0 := (x.map (·.nestC0)).getD 0, nestC1 := (x.map (·.nestC1)).getD 0,
    parts := (x.map (·.parts)).getD [], leases := (x.map (·.leases)).getD [], ended := (x.map (·.ended)).getD false,
    record := x.bind (·.record), recCore := (x.map (·.recCore)).getD 0, away := (x.map (·.away)).getD [] }

/-- Writes the files, tiles and ranges of an area into a core. -/
def Core.areaLoad (c : Core) (l : List Byte) (p : AreaPlan) (rs : List (Nat × Nat × Nat)) (slot : Nat) (t : Thread) : Core :=
  let c1 := c.seat slot t 0 0
  let gfile := (List.range p.regs).foldl (fun m i => smSet m (t.gbase + i) (BitVec.ofNat 64 (areaDw l (512 + 8 * i)))) c1.gfile
  let wfile := (List.range p.wide).foldl
    (fun m i => smSet m (t.wbase + i) (BitVec.ofNat 512 (leNat ((l.drop (p.oW + 64 * i)).take 64)))) c1.wfile
  let tiles := p.tiles.zipIdx.foldl
    (fun m x => (List.range 1024).foldl
      (fun m i => smSet m (1024 * x.1 + i) (BitVec.ofNat 32 (areaWord l (p.oTile + 4096 * x.2 + 4 * i)))) m) c1.tiles
  rs.foldl (fun c r => (List.range (r.2.1 / 4)).foldl (fun c i => c.engineWrite (r.1 + 4 * i) 4 (areaWord l (r.2.2 + 4 * i))) c)
    { c1 with gfile, wfile, tiles }

/-- Whether everything that an area needs on a core is there (R381): slot, window, wide group, generators, classes, tiles and
local-store ranges.
Log 71 (DESIGN CHOICE, unsafe). -/
def Core.areaRoom (c : Core) (p : AreaPlan) (mask : Dword) (rs : List (Nat × Nat × Nat)) : Option (Nat × Nat × Nat) :=
  let pins := c.groups.flatMap fun q => q.2.pins.map fun x => (x.1, x.1 + x.2)
  let meet := match rs with
    | [a, b] => decide (a.1 < b.1 + b.2.1) && decide (b.1 < a.1 + a.2.1)
    | _ => false
  if p.gens.any (fun i => ((smGet c.gens i).bind (·.owner)).isSome)
      || p.classes.any (fun k => ((smGet c.classes k).bind (·.slot)).isSome)
      || (!p.tiles.isEmpty && !c.tilesFree) || meet || rs.any fun r => clash pins r.1 r.2.1 then none
  else match c.freeSlots.head?, roomFor c.windows (windowSize mask p.regs) 8 Config.gfileSize,
      if p.wide = 0 then some 0 else roomFor c.wgroups p.wide 1 Config.wfileSize with
    | some slot, some gb, some wb => some (slot, gb, wb)
    | _, _, _ => none

/-- Restores a thread into a slot (R381).
Log 71 (DESIGN CHOICE, unsafe). -/
def State.bringIn (s : State) (core : Nat) (l : List Byte) (p : AreaPlan) (rs : List (Nat × Nat × Nat)) (slot gb wb : Nat)
    (gs : List (Nat × Gen)) : State :=
  let c := s.core core
  let key := areaDw l 168
  let x := smGet s.tags key
  let part := (s.partOf core).getD 0
  let space := s.coreSpace core
  let t := areaThread l p x part space c.nextGid gb wb s.cycle
  let g := controlGroup part slot
  let grp : Group :=
    { g with
      task := (x.map (·.task)).getD g.task, level := t.level, space, tstamp := t.tstamp, threads := t.num + 1,
      pins := rs.map (fun r => (r.1, r.2.1)), cfg := (x.map (·.cfg)).getD 0, claim := !p.tiles.isEmpty }
  let c1 := c.areaLoad l p rs slot t
  let c2 := { c1 with
    nextGid := c.nextGid + 1, groups := smSet c1.groups c.nextGid grp,
    gens := gs.foldl (fun m y => smSet m y.1 { y.2 with taken := smGetD ((x.map (·.taken)).getD []) y.1 [] }) c1.gens,
    classes := p.classes.zipIdx.foldl
      (fun m y => smSet m y.1 (areaClass l (p.oCls + 256 * y.2) core y.1 slot (smGetD m y.1 MsgClass.empty))) c1.classes }
  let s1 := { s with tags := smDel s.tags key }.setCore core c2
  gs.foldl (fun s y => s.readAhead core y.1 16) s1

/-- `TREST` (R381).
Log 71 (DESIGN CHOICE, unsafe). -/
def execTrest (d a : GReg) (s : State) : Host.Outcome State Fault Refusal :=
  issue (useS (enc (.trest d a)) [d.toNat, a.toNat] [a.toNat] [d.toNat]) s fun s t rd =>
    let me := s.cur
    let va := rd a.toNat
    if va.toNat % 64 ≠ 0 then .trap cMisaligned va
    else match s.gather me t va 64 8 with
      | .error r => r
      | .ok (_, h) =>
        let n := natBits (areaDw h 0) 48 16
        if n < 8 then .trap cReservedField va
        else match s.gather me t va 64 n with
          | .error r => r
          | .ok (s1, l) =>
            let p := areaPlan l
            let rs := areaRanges l p.nranges p.oRange
            let gs := (List.range p.gens.length).filterMap fun i => areaGen l (p.oGen + 64 * i) 0
            if !areaOk l p rs ∨ gs.map (·.1) ≠ p.gens then .trap cReservedField va
            else match (s1.core me.core).areaRoom p (BitVec.ofNat 64 (areaDw l 8)) rs with
              | none => .done (s1.writeG me d.toNat (BitVec.allOnes 64))
              | some (slot, gb, wb) =>
                let gs' := gs.map fun y => (y.1, { y.2 with owner := some slot })
                .done ((s1.bringIn me.core l p rs slot gb wb gs').writeG me d.toNat (BitVec.ofNat 64 slot))

end Sys2Proof.Machine
end

