-- ==== Sys2Proof/Machine/Compact.lean ====
section
/-!
DEFINITION. The compact instructions (R81): each has the effect, traps and flags of its expansion; only its length and the bits that
`tval` reports are its own.
-/
namespace Sys2Proof.Machine

/-- The halfword of a compact instruction. -/
def cEnc (op : Nat) (fs : List (Nat × Nat)) : Nat := fieldsAt (op * 2 ^ 11) fs

/-- `C_MV`: `add gD, gA, g0`. -/
def execCMv (d a : Reg4) (s : State) : Host.Outcome State Fault Refusal :=
  op3 (cEnc 0 [(d.toNat, 7), (a.toNat, 3)]) d.toNat a.toNat 0 (fun a b => a + b) s

/-- `C_ADD`: `add gD, gD, gA`. -/
def execCAdd (d a : Reg4) (s : State) : Host.Outcome State Fault Refusal :=
  op3 (cEnc 1 [(d.toNat, 7), (a.toNat, 3)]) d.toNat d.toNat a.toNat (fun a b => a + b) s

/-- `C_SUB`: `sub gD, gD, gA`. -/
def execCSub (d a : Reg4) (s : State) : Host.Outcome State Fault Refusal :=
  op3 (cEnc 2 [(d.toNat, 7), (a.toNat, 3)]) d.toNat d.toNat a.toNat (fun a b => a - b) s

/-- `C_ADDI`: `addi gD, gD, e`. -/
def execCAddi (d : Reg4) (i : BitVec 7) (s : State) : Host.Outcome State Fault Refusal :=
  op2 (cEnc 3 [(d.toNat, 7), (i.toNat, 0)]) d.toNat d.toNat (fun a => a + i.signExtend 64) s

/-- `C_LI`: `addi gD, g0, e`. -/
def execCLi (d : Reg4) (i : BitVec 7) (s : State) : Host.Outcome State Fault Refusal :=
  op2 (cEnc 4 [(d.toNat, 7), (i.toNat, 0)]) d.toNat 0 (fun a => a + i.signExtend 64) s

/-- `C_LD_W`: `ld.w gD, [gA + e]`. -/
def execCLdW (d a : Reg4) (i : BitVec 3) (s : State) : Host.Outcome State Fault Refusal :=
  loadOp (cEnc 5 [(d.toNat, 7), (a.toNat, 3), (i.toNat, 0)]) d.toNat a.toNat i.toNat 4 true s

/-- `C_LD_D`: `ld.d gD, [gA + e]`. -/
def execCLdD (d a : Reg4) (i : BitVec 3) (s : State) : Host.Outcome State Fault Refusal :=
  loadOp (cEnc 6 [(d.toNat, 7), (a.toNat, 3), (i.toNat, 0)]) d.toNat a.toNat i.toNat 8 true s

/-- `C_ST_W`: `st.w gD, [gA + e]`. -/
def execCStW (d a : Reg4) (i : BitVec 3) (s : State) : Host.Outcome State Fault Refusal :=
  storeOp (cEnc 7 [(d.toNat, 7), (a.toNat, 3), (i.toNat, 0)]) d.toNat a.toNat i.toNat 4 s

/-- `C_ST_D`: `st.d gD, [gA + e]`. -/
def execCStD (d a : Reg4) (i : BitVec 3) (s : State) : Host.Outcome State Fault Refusal :=
  storeOp (cEnc 8 [(d.toNat, 7), (a.toNat, 3), (i.toNat, 0)]) d.toNat a.toNat i.toNat 8 s

/-- `C_AND`: `and gD, gD, gA`. -/
def execCAnd (d a : Reg4) (s : State) : Host.Outcome State Fault Refusal :=
  op3 (cEnc 9 [(d.toNat, 7), (a.toNat, 3)]) d.toNat d.toNat a.toNat (fun a b => a &&& b) s

/-- `C_SLL`: `slli gD, gD, e`. -/
def execCSll (d : Reg4) (n : BitVec 6) (s : State) : Host.Outcome State Fault Refusal :=
  op2 (cEnc 10 [(d.toNat, 7), (n.toNat, 0)]) d.toNat d.toNat (fun a => a <<< n.toNat) s

/-- `C_BEQZ`: `beq gA, g0, t`. -/
def execCBeqz (a : Reg4) (o : BitVec 7) (s : State) : Host.Outcome State Fault Refusal :=
  branch (cEnc 11 [(a.toNat, 7), (o.toNat, 0)]) a.toNat 0 o.toInt (fun a b => a == b) s

/-- `C_BNEZ`: `bne gA, g0, t`. -/
def execCBnez (a : Reg4) (o : BitVec 7) (s : State) : Host.Outcome State Fault Refusal :=
  branch (cEnc 12 [(a.toNat, 7), (o.toNat, 0)]) a.toNat 0 o.toInt (fun a b => a != b) s

/-- `C_J`: `jal g0, t`. -/
def execCJ (o : BitVec 11) (s : State) : Host.Outcome State Fault Refusal := jump (cEnc 13 [(o.toNat, 0)]) 0 o.toInt s

/-- `C_RET`: `jalr g0, gA, 0`. -/
def execCRet (a : Reg4) (s : State) : Host.Outcome State Fault Refusal := jumpReg (cEnc 14 [(a.toNat, 7)]) 0 a.toNat 0 s

/-- `C_NOP`: no effect. -/
def execCNop (s : State) : Host.Outcome State Fault Refusal :=
  issue (useG (cEnc 15 []) [] [] []) s fun s _ _ => .done s

end Sys2Proof.Machine
end

