-- ==== Sys2Proof/Machine/Registers.lean ====
section
/-!
DEFINITION. Writes to the control registers: the fields of a partition control page (R366), of the counter pages (R249), and
the latency tolerance (R399), with the effects that wait for their conditions.
-/
namespace Sys2Proof.Machine

/-- Whether a core belongs to a partition (R365). -/
def State.member (s : State) (part core : Nat) : Bool := (s.part part).spec.clusters.getLsbD (clusterOf core)

/-- Sets of a replica partition by its repl field (R366): 0 none, 1 64 KiB, 2 and 3 128 KiB. -/
def replSize (repl : Nat) : Nat := if repl = 0 then 0 else if repl = 1 then 64 else 128

/-- The die copies that lie beyond the size of a core's replica partition (R366, R402): all of them if it has none, else in
each set those behind the eight most recently used. -/
def State.beyond (s : State) (part core : Nat) : List (Nat × DieCopy) :=
  let n := replSize ((s.part part).coreEnt core).repl
  let mine := (s.die (dieOf core)).copies.filter fun p => p.2.slice == localOf core
  mine.filter fun p => n == 0 || decide (8 ≤ (mine.filter fun q => q.1 % n == p.1 % n && decide (p.2.use < q.2.use)).length)

/-- Changes a core entry. -/
def State.modCoreEnt (s : State) (part core : Nat) (f : CoreEntry → CoreEntry) : State :=
  s.modPart part fun p => { p with coreEnts := smSet p.coreEnts core (f (p.coreEnt core)) }

/-- Asks the home to invalidate a die's copy of a line (R243), if no transaction holds the line and the copy is not pending. -/
def State.backCopy (s : State) (die line : Nat) : State :=
  let home := s.homeOf line
  let e := s.dirEntry home line
  match e.busy, e.holders.find? fun h => h.1 == die with
  | none, some h => s.backInval home line [h]
  | _, _ => s

/-- A lowering of repl goes on (R366): the copies beyond the new size are removed by back-invalidation, and the field shows the
new value once they are gone.
Log 74 (DEDUCED, unsafe). -/
def State.lowerRepl (s : State) (part core : Nat) : State :=
  match s.beyond part core with
  | [] => s.modCoreEnt part core fun e => { e with shown := e.repl }
  | l => l.foldl (fun s p => s.backCopy (dieOf core) p.1) s

/-- `PARTITION_CORE_ENTRY_WRITE` (R366): the entry of a core that is no member ignores writes.
Log 74 (DEDUCED, unsafe). -/
def execPartitionCoreEntryWrite (part core : Nat) (v : Dword) (s : State) : Host.Outcome State Fault Refusal :=
  if !s.member part core then .next s
  else
    let e : CoreEntry :=
      { repl := (v.extractLsb' 24 2).toNat, shown := ((s.part part).coreEnt core).shown, rot := (v.extractLsb' 16 7).toNat,
        space := (v.extractLsb' 0 12).toNat }
    .next ((s.modCoreEnt part core fun _ => e).lowerRepl part core)

/-- The rotation that a rot field asks for (R366). -/
def rotOf (v : Nat) : Nat := if 8 ≤ v ∧ v ≤ 64 then v else 0

/-- A write to rot takes effect in the cycle after the core has no thread (R366). -/
def State.applyRot (s : State) (core : Nat) : State :=
  match s.partOf core with
  | some p =>
    if (s.core core).threads.isEmpty then s.modCore core fun c => { c with rot := rotOf ((s.part p).coreEnt core).rot } else s
  | none => s

/-- Releases the pins of a space (R366, R276). -/
def State.releasePins (s : State) (part space : Nat) : State :=
  let key := 4096 * part + space
  let s1 := s.modPart part fun p => { p with pins := smDel p.pins space }
  { s1 with dies := smMap (fun _ d =>
      { d with l2 := smMap (fun _ l => { l with pins := l.pins.filter (· != key) }) d.l2 }) s1.dies }

/-- `SPACE_ENTRY_WRITE` (R366): clearing valid releases the pins of the space. -/
def execSpaceEntryWrite (part space : Nat) (v : Dword) (s : State) : Host.Outcome State Fault Refusal :=
  let e : SpaceEntry :=
    { quota := (v.extractLsb' 52 12).toNat, root := (v.extractLsb' 12 40).toNat * 4096, valid := v.getLsbD 0 }
  let s1 := s.modPart part fun p => { p with spaces := smSet p.spaces space e }
  .next (if e.valid then s1 else s1.releasePins part space)

/-- Whether a fixed list of a partition holds a record (R366). -/
def State.fixedHeld (s : State) (part : Nat) : Bool :=
  s.cores.any fun p => !p.2.fixed.isEmpty && s.partOf p.1 == some part

/-- The bits of a doubleword of detset that count (R366): those of the partition's usable cores. -/
def State.detBits (s : State) (part idx : Nat) (v : Dword) : BitVec 2048 :=
  (List.range 64).foldl
    (fun m b => if v.getLsbD b && s.member part (64 * idx + b) && !s.isFenced (64 * idx + b) then
        m ||| BitVec.ofNat 2048 (2 ^ (64 * idx + b)) else m) 0

/-- One write to detp (index 32) or to a doubleword of detset. -/
def State.setDet (s : State) (part idx : Nat) (v : Dword) : State :=
  if idx = 32 then s.modPart part fun p => { p with detp := v.getLsbD 0 }
  else
    let old := BitVec.ofNat 2048 ((2 ^ 64 - 1) * 2 ^ (64 * idx))
    s.modPart part fun p => { p with detset := (p.detset &&& ~~~ old) ||| s.detBits part idx v }

/-- The waiting writes to detp and detset take effect when no fixed list of the partition holds a record (R366). -/
def State.applyDet (s : State) (part : Nat) : State :=
  if s.fixedHeld part then s
  else
    let l := (s.part part).detPend
    l.foldl (fun s x => s.setDet part x.1 x.2) (s.modPart part fun p => { p with detPend := [] })

/-- `DETSET_WRITE` (R366). -/
def execDetsetWrite (part idx : Nat) (v : Dword) (s : State) : Host.Outcome State Fault Refusal :=
  .next ((s.modPart part fun p => { p with detPend := p.detPend ++ [(idx, v)] }).applyDet part)

/-- `REDUCTION_ENTRY_WRITE` (R366): it takes effect when the core's die has no reduction round in progress. -/
def execReductionEntryWrite (part core : Nat) (v : Dword) (s : State) : Host.Outcome State Fault Refusal :=
  if !s.member part core then .next s
  else .next ((s.modPart part fun p => { p with redPend := p.redPend ++ [(core, v)] }).applyRed (dieOf core) part)

/-- A write to a partition control page that no other row names.
Log 73 (DEDUCED, unsafe). -/
def State.writePart (s : State) (part off : Nat) (v : Dword) : State :=
  s.modPart part fun p =>
    if off = 0x20 then { p with xsteal := v.getLsbD 0 }
    else if off = 0x28 then { p with spill := v &&& ~~~ 63#64 }
    else if off = 0x30 then { p with spillen := v.truncate 32 }
    else if off = 0x38 then { p with strap := v.truncate 16 }
    else p

/-- `REGISTER_WRITE` (R366, R249): read-only fields and offsets that no table lists ignore writes (R4). -/
def execRegisterWrite (part off : Nat) (v : Dword) (s : State) : Host.Outcome State Fault Refusal :=
  if part < 128 then .next (s.writePart part off v)
  else if part < 136 && decide (0x1000 ≤ off) && decide (off < 0x2000) && off % 16 == 0 then
    .next (s.modDie (part - 128) fun d => { d with qaddr := smSet d.qaddr ((off - 0x1000) / 16) v })
  else .next s

/-- `POWER_TOLERANCE_WRITE` (R399). -/
def execPowerToleranceWrite (v : Word) (s : State) : Host.Outcome State Fault Refusal :=
  let h := { s.host with tolerance := v }
  .next { s with host := h }

end Sys2Proof.Machine
end

