-- ==== Sys2Proof/Machine/HostLink.lean ====
section
/-!
DEFINITION. The host link (R252, R289, R372): posted writes in their order, host message windows, and reads. The management
function is written as function 128; an address from 2^52 on is an offset in a function's BAR 0.
-/
namespace Sys2Proof.Machine

/-- The number that the model gives the management function.
Log 76 (DESIGN CHOICE, unsafe). -/
def mgmt : Nat := 128

/-- The first address that stands for an offset in BAR 0.
Log 76 (DESIGN CHOICE, unsafe). -/
def bar0 : Nat := 2 ^ 52

/-- Bytes of the staging region, from address 0 (R360). -/
def stagingBytes : Nat := 2 ^ 28

/-- Whether a span of device-physical addresses lies in what a function of the host link reaches (R360, R372). -/
def State.hostReach (s : State) (part addr len : Nat) : Bool :=
  if part = mgmt then decide (addr + len ≤ stagingBytes)
  else (s.part part).live && (s.part part).spec.exports.any fun r => decide (r.1 ≤ addr) && decide (addr + len ≤ r.1 + r.2)

/-- The canonical address of a device-physical one, if it is storage. -/
def canonical (dp : Nat) : Option Nat :=
  match whereIs dp with
  | .stored pa _ => some pa
  | _ => none

/-- Bytes from a device-physical address upward, as writes of their lines; none when one is not storage. -/
def hostLines : Nat → List Byte → Option (List LineWrite)
  | _, [] => some []
  | dp, b :: t =>
    match canonical dp, hostLines (dp + 1) t with
    | some pa, some (x :: rest) =>
      let w := lineWriteOf pa 1 b.toNat
      if x.line = w.line then some (mergeWrites w x :: rest) else some (w :: x :: rest)
    | some pa, some [] => some [lineWriteOf pa 1 b.toNat]
    | _, _ => none

/-- Enters a host access that is not served in the keeper's log of die 0 (R289, R372).
Log 75 (DEDUCED, unsafe). -/
def State.hostLog (s : State) (part core : Nat) (value whre : Dword) : State := s.klog 0 kDropped 0 part 0 core value whre

/-- The lines of a host store that is served (R360, R372); none: it only enters the keeper's log. -/
def State.storeLines (s : State) (x : Posted) : Option (List LineWrite) :=
  if s.hostReach x.part x.addr x.bytes.length then hostLines x.addr x.bytes else none

/-- A host store, once it is its turn: a direct write of each of its lines (R252), or an entry in the keeper's log. Staging is closed to it
from the release on (R360). -/
def State.doStore (s : State) (x : Posted) : State :=
  match s.storeLines x with
  | none => s.hostLog x.part 0 0 (BitVec.ofNat 64 x.addr)
  | some l =>
    if x.part = mgmt ∧ s.host.start then s
    else l.foldl (fun s lw => s.outWrite .host 0 lw) s

/-- The doublewords of a window write (R289).
Log 77 (DEDUCED, unsafe). -/
def windowWord (l : List Byte) (i : Nat) : Dword := BitVec.ofNat 64 (leNat ((l.drop (8 * i)).take 8))

/-- Cycles of the wake from partition off (R399).
Log 78 (DEDUCED, unsafe). -/
def offWake : Nat := offWakeUs * Config.cyclesPerUs

/-- A write to a host message window, once it is its turn (R289): a message, or nothing but an entry in the keeper's log. One for
a partition that is off wakes it (R399).
Log 78 (DEDUCED, unsafe). -/
def State.doWindow (s : State) (x : Posted) : State :=
  let h := windowWord x.bytes 0
  let core := (h.extractLsb' 0 11).toNat
  let count := (h.extractLsb' 20 3).toNat
  let reserved := h.extractLsb' 23 41 != 0#41 || h.extractLsb' 11 5 != 0#5 || (List.range 3).any fun i => windowWord x.bytes (5 + i) != 0
  let s1 := s.hostLog x.part core h (BitVec.ofNat 64 (bar0 + x.addr))
  if !(s.part x.part).live || x.len != 64 then s1
  else if !s.member x.part core then s1.sendEvent { core, slot := 0 } x.part cPartitionViolation h 0
  else if reserved || count == 0 || decide (4 < count) then s1
  else
    let m : Msg :=
      { src := { core := 0, slot := 0 }, origin := 1, dst := core, cls := (h.extractLsb' 16 4).toNat,
        words := (List.range count).map fun i => windowWord x.bytes (1 + i), report := false, copy := none }
    let lat := 64 + Config.latHop * (dieOf core % 4 + 1)
    if (s.part x.part).off then
      let s2 := if s.agenda.any fun e => e.ev == .partitionWake x.part then s else s.after offWake (.partitionWake x.part)
      s2.sendIn (offWake + lat) false m
    else s.sendIn lat false m

/-- The posted write at the head of the order takes its turn (R252). -/
def State.doPosted (s : State) (x : Posted) : State := if x.window then s.doWindow x else s.doStore x

/-- Posted writes take their turns, each once the lines of those before it are performed and entered in their homes' release logs (R252); with
fuel for the queue. -/
def State.postedOn (s : State) : Nat → State
  | 0 => s
  | n + 1 =>
    match s.host.posted with
    | [] => s
    | x :: rest =>
      if s.outWriting .host 0 then s
      else
        let h := { s.host with posted := rest }
        (({ s with host := h } : State).doPosted x).postedOn n

/-- A posted write arrives: it waits behind earlier ones (R252). -/
def State.post (s : State) (x : Posted) : State :=
  let h := { s.host with posted := s.host.posted ++ [x] }
  ({ s with host := h } : State).postedOn (s.host.posted.length + 1)

/-- `HOST_WINDOW_WRITE` (R289). -/
def execHostWindowWrite (part len : Nat) (data : BitVec 512) (s : State) : Host.Outcome State Fault Refusal :=
  .next (s.post { part, window := true, addr := 0, len, bytes := leBytes 64 data.toNat })

/-- `HOST_WRITE` (R252, R372).
Log 75 (DEDUCED, unsafe). -/
def execHostWrite (part addr : Nat) (bytes : List Byte) (s : State) : Host.Outcome State Fault Refusal :=
  .next (s.post { part, window := false, addr, len := bytes.length, bytes })

/-- Gives the host the completion of a read.
Log 79 (DEDUCED, unsafe). -/
def State.hostAnswer (s : State) (x : Option (List Byte)) : State :=
  let h := { s.host with reads := s.host.reads ++ [x] }
  { s with host := h }

/-- One byte as a host read sees it at its home. -/
def State.hostByte (s : State) (pa : Nat) : Byte := lineByte (s.homeValue (s.homeOf (pa / 128)) (pa / 128)) (pa % 128)

/-- `HOST_READ` (R372): behind the posted writes, and behind a secure task that holds the line (R227). A window reads zero
(R289), and offset 0x100 of the management function the latency tolerance (R399).
Log 79 (DEDUCED, unsafe). -/
def execHostRead (part addr len : Nat) (s : State) : Host.Outcome State Fault Refusal :=
  if !s.host.posted.isEmpty || s.outWriting .host 0 then .next (s.after 1 (.hostRead part addr len))
  else if bar0 ≤ addr then
    if part = mgmt then
      if addr = bar0 + 0x100 ∧ len = 4 then .next (s.hostAnswer (some (leBytes 4 s.host.tolerance.toNat)))
      else .next (s.hostAnswer none)
    else if (s.part part).live ∧ addr + len ≤ bar0 + 4096 then .next (s.hostAnswer (some (List.replicate len 0)))
    else .next (s.hostAnswer none)
  else
    let no := (s.hostLog part 0 0 (BitVec.ofNat 64 addr)).hostAnswer none
    match s.hostReach part addr len, (List.range len).mapM fun i => canonical (addr + i) with
    | true, some pas =>
      if pas.any fun pa => s.homeReadWaits (s.homeOf (pa / 128)) (pa / 128) then .next (s.after 1 (.hostRead part addr len))
      else if pas.any fun pa => (smGet s.poison (pa / 128)).isSome then .next (s.hostAnswer none)
      else .next (s.hostAnswer (some (pas.map s.hostByte)))
    | _, _ => .next no

end Sys2Proof.Machine
end

