-- ==== Sys2Proof/Machine/Boot.lean ====
section
/-!
DEFINITION. Boot (R360 to R362), the start and the end of partitions (R363, R365, R397, R399), and the loss of power (R398). What
the lantern cores' own programs decide beyond the rules is an input of the machine (log 21).
-/
namespace Sys2Proof.Machine

/-! Reset. -/

/-- Whether a step comes from outside the device: the host, another device, a physical error, or reset itself. -/
def Ev.outside : Ev → Bool
  | .hostWindowWrite _ _ _ | .hostWrite _ _ _ | .hostRead _ _ _ | .deviceReset | .bootStartWrite _ | .stagingReleaseWrite
  | .powerToleranceWrite _ | .uncorrectableError _ | .powerLoss => true
  | .messageArrival m => m.origin != 0
  | .remoteAccess a => match a with | .reply _ _ _ => false | _ => true
  | _ => false

/-- The machine with every part at its reset value but the steps that come from outside, the count of cycles and the counter of
free values.
Log 85 (DEDUCED, unsafe). -/
def State.restart (s : State) (first : List Sched) : State :=
  { State.reset with
    cycle := s.cycle, fresh := s.fresh + 1, agenda := first ++ s.agenda.filter fun x => x.ev.outside }

/-- A die after reset with what its retention SRAM keeps (R398). -/
def Die.restarted (d : Die) : Die := { Die.fresh with klog := d.klog, klogHead := d.klogHead }

/-- The device's memory and keeper's logs, which a reset leaves.
Log 85 (DEDUCED, unsafe). -/
def State.keepLogs (s s0 : State) : State := { s with dies := smMap (fun _ d => d.restarted) s0.dies }

/-- Changes the management function. -/
def State.modHost (s : State) (f : HostIf → HostIf) : State := { s with host := f s.host }

/-- `DEVICE_RESET` (R360 steps 1 and 2): the identity key is derived, and boot waits for the host; or it stops at step 1. Whether
the PUF gives the key is a free choice.
Logs 22 (DESIGN CHOICE, safe), 85 (DEDUCED, unsafe). -/
def execDeviceReset (s : State) : Host.Outcome State Fault Refusal :=
  let s1 := (s.restart []).keepLogs s
  let s2 := { s1 with mem := s.mem, poison := s.poison }
  if Config.choice s.fresh then .next (s2.modHost fun h => { h with boot := .stopped, status := 1 })
  else .next (s2.modHost fun h => { h with boot := .waiting })

/-- `POWER_LOSS` (R398): every state is lost, the keeper's logs too; the device resets as power comes back.
Log 86 (DEDUCED, unsafe). -/
def execPowerLoss (s : State) : Host.Outcome State Fault Refusal := .next (s.restart [{ due := s.cycle, ev := .deviceReset }])

/-! Boot. -/

/-- What stands in the staging region. -/
def State.staging (s : State) : Memory := s.mem.filter fun c => decide (c.1 < stagingBytes)

/-- Step 5 of R360: every SRAM of the compute dies and all of HBM but the staging region are zero, and the record is in force. -/
def State.scrubAll (s : State) (p : ProvRecord) : State :=
  { s with
    mem := s.mem.filter fun c => decide (c.1 < stagingBytes) || decide (0x8000000000 ≤ c.1),
    poison := s.poison.filter fun x => decide (x.1 * 128 < stagingBytes) || decide (0x8000000000 ≤ x.1 * 128),
    cores := [], clusters := [], dies := smMap (fun _ d => d.restarted) s.dies, regions := [], parts := [], tags := [],
    host := { s.host with prov := p, boot := .running } }

/-- The lantern cores of an I/O die (R15). -/
def lanternsOf (io : Nat) : List Nat := (List.range Config.perIoDie).map fun i => Config.cores + Config.perIoDie * io + i

/-- What a lantern core's private SRAM holds once the hypervisor image has been copied into it (R359, R360): at most 1 MiB.
Log 21 (DESIGN CHOICE, unsafe). -/
def State.hypervisorBytes (s : State) : Memory :=
  let (base, len) := Config.hypervisorImage
  (s.staging.filter fun c => decide (base ≤ c.1) && decide (c.1 < base + Nat.min len 0x100000)).map fun c => (c.1 - base, c.2)

/-- Starts the hypervisor at H on the lantern cores of both I/O dies, from their private SRAM (R15, R360 steps 3 and 6), and gives the host
the inventory of the device (R28).
Log 21 (DESIGN CHOICE, unsafe). -/
def State.startHypervisor (s : State) : State :=
  (lanternsOf 0 ++ lanternsOf 1).foldl
    (fun s core =>
      (s.setCore core { Core.fresh false with sram := s.hypervisorBytes }).startControl core 0 0 128 0 0 fun t =>
        { t with level := .h, pc := Config.hypervisorEntry })
    (s.modHost fun h => { h with inventory := s.goodCores.length })

/-- `BOOT_START_WRITE` (R360 steps 3 to 6): the images in the staging region are verified, the device is scrubbed, and the
hypervisor starts; from then on the staging region refuses the host's writes.
Logs 21 (DESIGN CHOICE, unsafe), 22 (DESIGN CHOICE, safe), 89 (DEDUCED, unsafe). -/
def execBootStartWrite (p : ProvRecord) (s : State) : Host.Outcome State Fault Refusal :=
  let s1 := s.modHost fun h => { h with start := true }
  if s.host.boot ≠ .waiting then .next s1
  else if !Config.imageVerifies 1 s.staging then .next (s1.modHost fun h => { h with boot := .stopped, status := 3 })
  else if !Config.imageVerifies 2 s.staging then .next (s1.modHost fun h => { h with boot := .stopped, status := 4 })
  else .next (s1.scrubAll p).startHypervisor

/-- `STAGING_RELEASE_WRITE` (R360): the staging region is scrubbed to zero. -/
def execStagingReleaseWrite (s : State) : Host.Outcome State Fault Refusal :=
  .next { s with
    mem := s.mem.filter fun c => decide (stagingBytes ≤ c.1),
    poison := s.poison.filter fun x => decide (stagingBytes ≤ x.1 * 128),
    host := { s.host with start := false } }

/-! What passes from one partition to another. -/

/-- The alias of a canonical HBM address in the interleaved window (R237). -/
def aliasOf (pa : Nat) : Nat := 0x10000000000 + (pa % 2 ^ 36 / 128 * 1024 + pa / 2 ^ 36 % 8 * 128 + pa % 128)

/-- Whether a canonical address lies in device-physical ranges, by either window. -/
def inRanges (l : List (Nat × Nat)) (pa : Nat) : Bool :=
  let hit := fun a => l.any fun r => decide (r.1 ≤ a) && decide (a < r.1 + r.2)
  hit pa || (decide (pa < 0x8000000000) && hit (aliasOf pa))

/-- Scrubs memory that is handed over (R365): its bytes are zero, no die copy of it is left, and none is poisoned. -/
def State.scrubMemory (s : State) (l : List (Nat × Nat)) : State :=
  let mine := fun line => inRanges l (line * 128)
  { s with
    mem := s.mem.filter fun c => !inRanges l c.1,
    poison := s.poison.filter fun x => !mine x.1,
    dies := smMap (fun _ d =>
      { d with
        copies := d.copies.filter fun x => !mine x.1, dir := d.dir.filter fun x => !mine x.1,
        l2 := d.l2.filter fun x => !mine x.1, rsv := d.rsv.filter fun x => !inRanges l x.1,
        snoop := smMap (fun _ q => q.filter fun x => !mine x) d.snoop }) s.dies }

/-- Whether a step concerns a core of a partition, and is lost with it. -/
def Ev.ofCore (f : Nat → Bool) : Ev → Bool
  | .queueEntry c _ | .commandCompletion c _ | .streamElementArrival c _ | .sfuDiscardBlockEnd c | .heldMessageDeposit c _
  | .launchMessage c _ | .launchRecordPlace c _ | .taskDispatch c | .footprintFetchDone c _ | .stealRequest c
  | .stealBackoffEnd c | .successorStart c _ | .heldEffectSend c | .instructionStoreWrite c _ _ | .istInvArrival c _
  | .detachedCauseStart c | .coreClockGate c | .coreWake c | .stealReply c _ => f c
  | .memoryReturn w _ | .windowAccess w | .sfuResult w | .wcbDrainTimeout w _ | .agentAnswer w | .gangFormation w
  | .forwardedInstructionArrival w _ | .gangTrapNotice w _ _ | .hcallReply w _ _ | .hypervisorPreempt w
  | .hypervisorResume w _ | .barrierWaitArrival _ _ w | .barrierArrival _ _ w => f w.core
  | .messageArrival m => f m.dst
  | .roundOpenArrival m | .roundUpdateArrival m | .roundDoneArrival m | .roundUpdateResend m => f m.w.core
  | .editApply e => f e.core
  | .dmapReport r => f r.core
  | .directWrite d => (match d.src with
    | .thread w | .engine w => f w.core
    | .commit c _ => f c
    | _ => false)
  | _ => false

/-- Whether a core can belong to a partition that is created now (R362, R397). -/
def State.startable (s : State) (core : Nat) : Bool := !s.isFenced core && !s.host.excluded.contains core

/-- Empties cores (R365): their threads end with what they hold elsewhere, the steps on their way to them are lost, and every
SRAM of theirs reads zero. -/
def State.emptyCores (s : State) (cs : List Nat) (held : Bool) : State :=
  let s1 := cs.foldl
    (fun s c => (s.core c).threads.foldl (fun s p => (s.leaveGang { core := c, slot := p.1 } cPreempt).freeSlot { core := c, slot := p.1 }) s) s
  let s2 := cs.foldl (fun s c => s.setCore c (Core.fresh (held || !s.startable c))) s1
  s2.unschedule (Ev.ofCore fun c => cs.contains c)

/-- Removes the die copies of the slices of cores, written back where the home has older data (R365). -/
def State.emptySlices (s : State) (cs : List Nat) : State :=
  cs.foldl (fun s c =>
    ((s.die (dieOf c)).copies.filter fun p => p.2.slice == localOf c && p.2.pend == 0).foldl
      (fun s p => s.evictCopy (dieOf c) p.1 p.2) s) s

/-- Every core of a partition's clusters. -/
def PartSpec.cores (p : PartSpec) : List Nat := (List.range Config.cores).filter fun c => p.clusters.getLsbD (clusterOf c)

/-- Scrubs the clusters of a partition (R365), whose barriers return to their reset state (R297). -/
def State.scrubClusters (s : State) (p : PartSpec) (held : Bool) : State :=
  let s1 := (s.emptyCores (PartSpec.cores p) held).emptySlices (PartSpec.cores p)
  ((List.range 128).filter fun k => p.clusters.getLsbD k).foldl (fun s k => s.modCluster k fun _ => Cluster.fresh) s1

/-- Forgets what a partition holds in the dies: its contexts, walks, cached stage-2 entries, reduction rounds and pins. -/
def State.forgetPart (s : State) (part : Nat) : State :=
  { s with
    dies := smMap (fun _ d =>
      { d with
        ctxs := d.ctxs.filter fun x => x.2.part != part, walkQ := d.walkQ.filter fun x => x.part != part,
        walkers := d.walkers.filter fun x => x.2.part != part, s2 := d.s2.filter fun x => x.part != part,
        red := smDel d.red part,
        l2 := smMap (fun _ l => { l with pins := l.pins.filter fun k => k / 4096 != part }) d.l2 }) s.dies }

/-! The start of a partition. -/

/-- Translates a guest-physical address through a partition's stage-2 tables, level by level. -/
def State.stage2 (s : State) (gpa : Nat) : Nat → Nat → Option Nat
  | l, tab =>
    match canonical (tab + 8 * lvlIndex l gpa) with
    | none => none
    | some pa =>
      match pteKind (BitVec.ofNat 64 (leNat (memBytes s.mem pa 8))) l true with
      | .bad => none
      | .leaf a => some (a + gpa % 2 ^ lvlShift l)
      | .table a =>
        match l with
        | 0 => none
        | l' + 1 => s.stage2 gpa l' a

/-- The canonical address that a guest-physical address of a partition is stored at. -/
def State.guest (s : State) (root gpa : Nat) : Option Nat := (s.stage2 gpa 3 root).bind canonical

/-- The header of a system image (R363). -/
structure ImageHeader where
  kind : Nat
  version : Nat
  toff : Nat
  tlen : Nat
  doff : Nat
  dlen : Nat
  dgpa : Nat
  entry : Half
  span : Nat
  clean : Bool
  deriving DecidableEq, Repr

/-- Reads the header of an image (R363).
Log 87 (DEDUCED, unsafe). -/
def imageHeader (l : List Byte) : ImageHeader :=
  let f := fun o n => leNat ((l.drop o).take n)
  { kind := f 0 4, version := f 4 4, toff := f 8 4, tlen := f 12 4, doff := f 16 4, dlen := f 20 4, dgpa := f 24 8,
    entry := BitVec.ofNat 16 (f 32 2), span := f 36 4, clean := f 34 2 == 0 && f 40 24 == 0 }

/-- Bytes of a span of 2 MiB units. -/
def spanBytes (n : Nat) : Nat := n * 2 ^ 21

/-- Tables of 4 KiB that map n units of 2 MiB (R363, R367): the root, then level 2, then level 1. -/
def tables2 (n : Nat) : Nat := (n + 2 ^ 18 - 1) / 2 ^ 18
def tables1 (n : Nat) : Nat := (n + 511) / 512
def tableBytes (n : Nat) : Nat := (1 + tables2 n + tables1 n) * 4096

/-- The limits of R363 on a header, with the length of the body. -/
def ImageHeader.valid (h : ImageHeader) (len : Nat) : Bool :=
  h.kind == 3 && h.toff % 64 == 0 && h.tlen % 64 == 0 && decide (64 ≤ h.tlen) && decide (h.tlen ≤ 65536) && h.doff % 64 == 0
    && h.dlen % 64 == 0 && h.dgpa % 65536 == 0 && !h.entry.getLsbD 0 && h.clean && decide (1 ≤ h.span)
    && decide (h.toff + h.tlen ≤ len) && decide (h.doff + h.dlen ≤ len) && decide (h.dgpa + h.dlen ≤ spanBytes h.span)

/-- Whether stage 2 maps what an image needs (R363): its span and the tables above it. -/
def State.imageMapped (s : State) (root span : Nat) : Bool :=
  decide (spanBytes span + tableBytes span ≤ 2 ^ 48)
    && (List.range ((spanBytes span + tableBytes span + 65535) / 65536)).all fun i => (s.guest root (i * 65536)).isSome

/-- Writes bytes at guest-physical addresses of a partition.
Log 88 (DESIGN CHOICE, unsafe). -/
def State.guestPut (s : State) (root : Nat) : Nat → List Byte → State
  | _, [] => s
  | gpa, b :: t =>
    match s.guest root gpa with
    | some pa => ({ s with mem := memSet s.mem pa b } : State).guestPut root (gpa + 1) t
    | none => s

/-- An entry that names a table, and a 2 MiB leaf of space 0 (R363, R367).
Log 88 (DESIGN CHOICE, unsafe). -/
def tableEntry (a : Nat) : Nat := 1 + a + 15 * 2 ^ 52
def leafEntry (a harg : Nat) : Nat := 3 + harg * 2 ^ 8 + a + 2 ^ 52

/-- The stage-1 tables of space 0 (R363): every address below the span maps to itself.
Log 88 (DESIGN CHOICE, unsafe). -/
def spaceTables (span harg : Nat) : List Nat :=
  let base := spanBytes span
  let fill := fun (n : Nat) (f : Nat → Nat) (size : Nat) => (List.range size).map fun i => if i < n then f i else 0
  fill (tables2 span) (fun i => tableEntry (base + (1 + i) * 4096)) 512
    ++ fill (tables1 span) (fun i => tableEntry (base + (1 + tables2 span + i) * 4096)) (tables2 span * 512)
    ++ fill span (fun i => leafEntry (i * 2 ^ 21) harg) (tables1 span * 512)

/-- The mask set of a partition on a die (R363): its usable cores there, or every usable core of the die if it has none. -/
def State.startMask (s : State) (p : PartSpec) (die : Nat) : BitVec 256 :=
  let usable := (List.range 256).filter fun c => s.startable (256 * die + c)
  let mine := usable.filter fun c => p.clusters.getLsbD (clusterOf (256 * die + c))
  (if mine.isEmpty then usable else mine).foldl (fun m c => m ||| BitVec.ofNat 256 (2 ^ c)) 0

/-- Whether the route from one die to another, along the row first, uses a mesh link (R14). The model numbers the links: 0 to 5
along the rows, from the low column of row 0 on; 6 to 9 down the columns; 10 to 13 those of the I/O dies.
Log 91 (DESIGN CHOICE, unsafe). -/
def routeUses (a b link : Nat) : Bool :=
  let lo := Nat.min (a % 4) (b % 4)
  let hi := Nat.max (a % 4) (b % 4)
  if link < 6 then a / 4 == link / 3 && decide (lo ≤ link % 3) && decide (link % 3 < hi)
  else decide (link < 10) && b % 4 == link - 6 && a / 4 != b / 4

/-- Whether the route between a compute die and an I/O die uses a link (R14): along the row to its end die, and from there over the link that
the model numbers 10 + row for io 0 and 12 + row for io 1.
Log 91 (DESIGN CHOICE, unsafe). -/
def routeUsesIo (die io link : Nat) : Bool :=
  routeUses die (die / 4 * 4 + 3 * io) link || link == 10 + die / 4 + 2 * io

/-- The compute dies whose memory a device-physical range lies in: any die for interleaved and second-tier memory. -/
def rangeDies (r : Nat × Nat) : List Nat :=
  (List.range 8).filter fun d =>
    decide (0 < r.2) && (decide (0x8000000000 ≤ r.1) || (decide (r.1 / 2 ^ 36 ≤ d) && decide (d ≤ (r.1 + r.2 - 1) / 2 ^ 36)))

/-- The I/O dies whose second-tier ports serve a device-physical range (R15, R373). -/
def rangeIo (r : Nat × Nat) : List Nat :=
  if r.2 = 0 ∨ r.1 < 0x8000000000000 then []
  else
    let first := tierPort (r.1 - 0x8000000000000)
    let last := tierPort (r.1 + r.2 - 1 - 0x8000000000000)
    (List.range 2).filter fun io => decide (first / Config.perIoDie ≤ io) && decide (io ≤ last / Config.perIoDie)

/-- Whether a partition spans a link (R397): traffic uses it between two of the dies that hold its clusters and its memory; between the homes
of its second-tier memory and their ports; or between the dies of what it exports and the host, or of its clusters and the Beacon link, if
it reaches other devices.
Log 91 (DESIGN CHOICE, unsafe). -/
def PartSpec.spans (p : PartSpec) (link : Nat) : Bool :=
  let own := (List.range 8).filter fun d => (List.range 16).any fun k => p.clusters.getLsbD (16 * d + k)
  let ds := (List.range 8).filter fun d => own.contains d || p.ranges.any fun r => (rangeDies r).contains d
  (ds.any fun a => ds.any fun b => routeUses a b link)
    || (p.ranges.any fun r => (rangeIo r).any fun io => (List.range 8).any fun d => routeUsesIo d io link)
    || (p.exports.any fun r => (rangeDies r).any fun d => routeUsesIo d 0 link)
    || (!p.devices.isEmpty && own.any fun d => routeUsesIo d 1 link)

/-- Whether the hypervisor may give a partition what a specification names (R360, R362, R365, R397): the number and clusters are
free, it spans no lost link, and the staging region is not handed over before its scrub. -/
def State.mayCreate (s : State) (p : PartSpec) : Bool :=
  s.host.boot == .running && decide (p.part < 128) && !(s.part p.part).live
    && !(s.parts.any fun q => q.2.live && q.2.spec.clusters &&& p.clusters != 0#128)
    && !(s.deadLinks.any fun k => PartSpec.spans p k)
    && (!s.host.start || p.ranges.all fun r => decide (stagingBytes ≤ r.1) && !(decide (0x10000000000 ≤ r.1) && decide (r.1 < 0x10000000000 + 8 * stagingBytes)))

/-- The image of a partition, as the staging region holds it.
Log 87 (DEDUCED, unsafe). -/
def State.imageOf (s : State) (p : PartSpec) : List Byte := memBytes s.mem p.imgBase p.imgLen

/-- Whether a partition's system image verifies and can be loaded (R361, R363).
Logs 22 (DESIGN CHOICE, safe), 87 (DEDUCED, unsafe). -/
def State.imageOk (s : State) (p : PartSpec) : Bool :=
  let h := imageHeader ((s.imageOf p).take 64)
  decide (64 ≤ p.imgLen) && decide (p.imgBase + p.imgLen ≤ stagingBytes)
    && Config.imageVerifies 3 (s.mem.filter fun c => decide (p.imgBase ≤ c.1) && decide (c.1 < p.imgBase + p.imgLen))
    && h.valid p.imgLen && s.imageMapped p.s2root.toNat h.span

/-- The 64-byte units of an instruction-store image. -/
def imageUnits (l : List Byte) (h : ImageHeader) : List (BitVec 512) :=
  (List.range (h.tlen / 64)).map fun i => BitVec.ofNat 512 (leNat ((l.drop (h.toff + 64 * i)).take 64))

/-- Loads a system image and starts it (R363, R358): instruction stores, data, tables of space 0, its entry, and the thread. -/
def State.loadImage (s : State) (p : PartSpec) (l : List Byte) : State :=
  let h := imageHeader (l.take 64)
  let root := p.s2root.toNat
  let cs := (PartSpec.cores p).filter s.startable
  let s1 := cs.foldl
    (fun s c => (imageUnits l h).zipIdx.foldl (fun s x => s.modCore c fun k => k.loadUnit x.2 x.1) s) s
  let s2 := s1.guestPut root h.dgpa ((l.drop h.doff).take h.dlen)
  let s3 := s2.guestPut root (spanBytes h.span) ((spaceTables h.span p.maskSet).flatMap (leBytes 8))
  let masks := (List.range 8).foldl (fun m d => smSet m (256 * d + p.maskSet % 256) (s.startMask p d)) []
  let s4 := s3.modPart p.part fun _ =>
    { Partition.fresh p with
      live := true, maskSets := masks, barred := s.host.excluded.filter fun c => p.clusters.getLsbD (clusterOf c), spaces := [(0, { quota := 0, root := spanBytes h.span, valid := true })] }
  match cs with
  | [] => s4
  | c :: _ =>
    s4.startControl c 0 p.part 128 0 (BitVec.ofNat 64 h.span) fun t => { t with pc := h.entry }

/-- Enters the creation (code 1) or the ending (code 2) of a partition in the keeper's log of its first die (R398).
Log 90 (DESIGN CHOICE, unsafe). -/
def State.logPart (s : State) (p : PartSpec) (code : Nat) : State :=
  s.klog (dieOf ((PartSpec.cores p).headD 0)) kPartition code p.part 0 ((PartSpec.cores p).headD 0) 0 0

/-- Starts a partition (R360 step 7): its clusters, and the memory it is handed, are scrubbed first. -/
def State.startPart (s : State) (p : PartSpec) (memory : Bool) : State :=
  let l := s.imageOf p
  let s1 := (s.forgetPart p.part).scrubClusters p false
  (if memory then s1.scrubMemory p.ranges else s1).loadImage p l

/-- `PARTITION_START` (R363): an image that does not verify is not started.
Log 95 (DEDUCED, unsafe). -/
def execPartitionStart (p : PartSpec) (s : State) : Host.Outcome State Fault Refusal :=
  if s.mayCreate p && s.imageOk p then .next ((s.startPart p true).logPart p 1) else .next s

/-- Ends a partition's threads, and holds its cores in reset.
Log 92 (DEDUCED, unsafe). -/
def State.stopPart (s : State) (p : PartSpec) : State := (s.scrubClusters p true).forgetPart p.part

/-- `PARTITION_END` (R397, R398).
Log 92 (DEDUCED, unsafe). -/
def execPartitionEnd (part : Nat) (s : State) : Host.Outcome State Fault Refusal :=
  if !(s.part part).live then .next s
  else
    let p := (s.part part).spec
    .next (((s.stopPart p).modPart part fun _ => Partition.fresh noSpec).logPart p 2)

/-! Partition off. -/

/-- Writes what the partition's threads still buffer to memory, before its clusters lose power (R399).
Log 92 (DEDUCED, unsafe). -/
def State.flushPart (s : State) (p : PartSpec) : State :=
  (PartSpec.cores p).foldl (fun s c =>
    (s.core c).threads.foldl (fun s q => q.2.wcb.foldl (fun s x => s.writeHome x.acc.homeDie x.lw) s) s) s

/-- The code of a power state in the keeper's log (R398, R399): 0 active, 1 clock-gated, 2 retention, 3 partition off.
Log 90 (DESIGN CHOICE, unsafe). -/
def State.logPower (s : State) (die code part core : Nat) : State := s.klog die kPower code part 0 core 0 0

/-- `PARTITION_POWER_OFF` (R399): only the contents of HBM are kept.
Log 92 (DEDUCED, unsafe). -/
def execPartitionPowerOff (part : Nat) (s : State) : Host.Outcome State Fault Refusal :=
  if !(s.part part).live || (s.part part).off then .next s
  else
    let p := (s.part part).spec
    let core := (PartSpec.cores p).headD 0
    .next ((((s.flushPart p).stopPart p).modPart part fun q => { q with off := true }).logPower (dieOf core) 3 part core)

/-- `PARTITION_WAKE` (R399): the clusters' SRAMs are clear, and the system image starts again, if it still verifies.
Log 92 (DEDUCED, unsafe). -/
def execPartitionWake (part : Nat) (s : State) : Host.Outcome State Fault Refusal :=
  let p := (s.part part).spec
  let core := (PartSpec.cores p).headD 0
  if !(s.part part).off then .next s
  else if s.imageOk p then .next ((s.startPart p false).logPower (dieOf core) 0 part core)
  else .next s

end Sys2Proof.Machine
end

