-- ==== Sys2Proof/Machine/Power.lean ====
section
/-!
DEFINITION. Power states (R399), and the device's own activities that change nothing a program reads (R306).
-/
namespace Sys2Proof.Machine

/-- Whether a core has nothing to do (R399): every slot free, parked or in `wfe`; its queues and deque empty. -/
def Core.resting (c : Core) : Bool :=
  c.threads.all (fun p => match p.2.run with
    | .parked _ => true
    | .waiting .wfe _ => true
    | _ => false)
    && c.mx.all.isEmpty && c.vx.all.isEmpty && c.cp.all.isEmpty && c.deque.isEmpty && c.fixed.isEmpty && c.granted.isNone
    && c.detached.isEmpty && c.effects.isEmpty && c.writes.isEmpty

/-- Whether the host tolerates a wake of some microseconds (R399). -/
def State.tolerates (s : State) (us : Nat) : Bool := decide (us ≤ s.host.tolerance.toNat)

/-- Whether a core is to enter the clock-gated state (R399). -/
def State.gateDue (s : State) (core : Nat) : Bool :=
  let c := s.core core
  !c.held && !c.gated && !isLantern core && c.resting && decide (c.idleSince + 64 ≤ s.cycle) && s.tolerates 2

/-- The device cores of a die that have left reset. -/
def State.runCores (s : State) (die : Nat) : List (Nat × Core) :=
  s.cores.filter fun p => dieOf p.1 == die && !isLantern p.1 && !p.2.held

/-- Whether every core of a die is gated (R399).
Log 93 (DEDUCED, unsafe). -/
def State.allGated (s : State) (die : Nat) : Bool :=
  let l := s.runCores die
  !l.isEmpty && l.all fun p => p.2.gated

/-- `CORE_CLOCK_GATE` (R399).
Log 90 (DESIGN CHOICE, unsafe). -/
def execCoreClockGate (core : Nat) (s : State) : Host.Outcome State Fault Refusal :=
  if !s.gateDue core then .next s
  else
    let s1 := s.modCore core fun c => { c with gated := true }
    let s2 := if s1.allGated (dieOf core) then s1.modDie (dieOf core) fun d => { d with gatedSince := some s.cycle } else s1
    .next (s2.logPower (dieOf core) 1 ((s.partOf core).getD 0) core)

/-- `CORE_WAKE` (R399): the die is out of retention with it.
Log 90 (DESIGN CHOICE, unsafe). -/
def execCoreWake (core : Nat) (s : State) : Host.Outcome State Fault Refusal :=
  if !(s.core core).gated then .next s
  else
    let s1 := s.modCore core fun c => { c with gated := false, idleSince := s.cycle }
    let s2 := s1.modDie (dieOf core) fun d => { d with gatedSince := none, retained := false }
    .next (s2.logPower (dieOf core) 0 ((s.partOf core).getD 0) core)

/-- Whether a gated core has something to do, and wakes (R399). -/
def State.wakeDue (s : State) (core : Nat) : Bool :=
  let c := s.core core
  c.gated && !c.resting && !s.agenda.any fun x => x.ev == .coreWake core

/-- Whether a die is to enter retention (R399): every core gated for 1,900 cycles, and no directory transaction pending.
Log 93 (DEDUCED, unsafe). -/
def State.retainDue (s : State) (die : Nat) : Bool :=
  let d := s.die die
  !d.retained && s.allGated die && s.tolerates 50 && (match d.gatedSince with
    | some c => decide (c + 1900 ≤ s.cycle)
    | none => false) && d.dir.all fun p => p.2.busy.isNone && p.2.queue.isEmpty

/-- `DIE_RETENTION_ENTRY` (R399): every state is kept.
Log 90 (DESIGN CHOICE, unsafe). -/
def execDieRetentionEntry (die : Nat) (s : State) : Host.Outcome State Fault Refusal :=
  if !s.retainDue die then .next s
  else .next ((s.modDie die fun d => { d with retained := true }).logPower die 2 0 (256 * die))

/-- `DIE_WAKE` (R399).
Log 90 (DESIGN CHOICE, unsafe). -/
def execDieWake (die : Nat) (s : State) : Host.Outcome State Fault Refusal :=
  if !(s.die die).retained then .next s
  else .next ((s.modDie die fun d => { d with retained := false }).logPower die 0 0 (256 * die))

/-- The die at whose homes a step arrives.
Log 94 (DEDUCED, unsafe). -/
def State.stepHome (s : State) : Ev → Option Nat
  | .directoryRead r | .directoryOwnership r => some r.home
  | .directWrite d => some (match s.flightOf d with
    | some f => f.acc.homeDie
    | none => s.homeOf d.lw.line)
  | .roundOpenArrival m | .roundUpdateArrival m | .roundDoneArrival m | .roundUpdateResend m => some (m.bank / 256)
  | .reservationGrant word => s.rsvHome word
  | .writeBack _ lw => some (s.homeOf lw.line)
  | .hostWrite _ addr _ | .hostRead _ addr _ => (canonical addr).map fun pa => s.homeOf (pa / 128)
  | _ => none

/-- An access homed on a die in retention wakes it, and is served when it has woken (R399): the cycles it waits.
Log 94 (DEDUCED, unsafe). -/
def State.sleeping (s : State) (ev : Ev) : Option Nat :=
  match s.stepHome ev with
  | some d => if (s.die d).retained then some d else none
  | none => none

/-- Puts a step off until a die has woken.
Log 94 (DEDUCED, unsafe). -/
def State.wakeFor (s : State) (d : Nat) (ev : Ev) : State :=
  match s.agenda.find? fun x => x.ev == .dieWake d with
  | some x => s.after (x.due - s.cycle) ev
  | none => (s.after (50 * Config.cyclesPerUs) (.dieWake d)).after (50 * Config.cyclesPerUs) ev

/-! Activities that change no value (R306); the cycles they add are among those that the model leaves free (log 6). -/

/-- `HBM_REFRESH` (R306).
Log 107 (DEDUCED, safe). -/
def execHbmRefresh (_die _bank : Nat) (s : State) : Host.Outcome State Fault Refusal := .next s

/-- `SRAM_ECC_SCRUB` (R306); an error it finds is a step of its own.
Log 107 (DEDUCED, safe). -/
def execSramEccScrub (_die : Nat) (s : State) : Host.Outcome State Fault Refusal := .next s

/-- `HBM_PATROL_SCRUB` (R306).
Log 107 (DEDUCED, safe). -/
def execHbmPatrolScrub (_die : Nat) (s : State) : Host.Outcome State Fault Refusal := .next s

/-- `TELEMETRY_SAMPLE` (R306).
Log 107 (DEDUCED, safe). -/
def execTelemetrySample (_die : Nat) (s : State) : Host.Outcome State Fault Refusal := .next s

end Sys2Proof.Machine
end

