-- ==== Sys2Proof/Machine/Errors.lean ====
section
/-!
DEFINITION. Detected uncorrectable errors: the retry, and what a lasting one leaves (R396, R397).
-/
namespace Sys2Proof.Machine

/-- The cause of an error that lasts (R387, R397). -/
def errCause : ErrLoc → Nat
  | .sramData _ _ _ | .localWord _ _ _ | .coreUnit _ _ _ => cSramUncorrectable
  | .hbm _ _ => cHbmUncorrectable
  | .tier _ _ => cTierUncorrectable
  | .dieLink _ | .beacon => cLinkLasting
  | .walker _ _ => cWalkerLasting
  | .lantern _ _ => cLanternUncorrectable

/-- The die in whose keeper's log an error is entered (R398). -/
def State.errDie (s : State) : ErrLoc → Nat
  | .sramData die _ _ | .walker die _ => die
  | .localWord core _ _ | .coreUnit core _ _ => dieOf core
  | .hbm line _ | .tier line _ => s.homeOf line
  | .dieLink _ | .beacon | .lantern _ _ => 0

/-- What an error reports (R387): an address, a unit, a link, or a lantern core and address. The Beacon link has number 14. -/
def errValue : ErrLoc → Dword
  | .sramData _ line _ | .hbm line _ | .tier line _ => BitVec.ofNat 64 (line * 128)
  | .localWord _ off _ => BitVec.ofNat 64 (Config.lb + off)
  | .coreUnit _ unit _ => BitVec.ofNat 64 unit
  | .dieLink link => BitVec.ofNat 64 link
  | .beacon => 14
  | .walker _ k => BitVec.ofNat 64 k
  | .lantern core addr => BitVec.ofNat 64 (core % 2048 * 2 ^ 32 + addr)

/-- The core that an error concerns. -/
def errCore : ErrLoc → Nat
  | .localWord core _ _ | .coreUnit core _ _ | .lantern core _ => core
  | .sramData die _ _ | .walker die _ => 256 * die
  | _ => 0

/-- The thread that consumes the failed data, if one does. -/
def errWho : ErrLoc → Option Who
  | .sramData _ _ w | .localWord _ _ w | .coreUnit _ _ w | .hbm _ w | .tier _ w => w
  | _ => none

/-- Enters an error in the keeper's log (R398). -/
def State.logError (s : State) (e : ErrLoc) (kind : Nat) : State :=
  let core := errCore e
  s.klog (s.errDie e) kind (errCause e) ((s.partOf core).getD 0) (((errWho e).map (·.slot)).getD 0) core (errValue e) (errValue e)

/-- `UNCORRECTABLE_ERROR` (R396): it is retried once; whether the retry succeeds is a free choice.
Log 84 (DESIGN CHOICE, safe). -/
def execUncorrectableError (e : ErrLoc) (s : State) : Host.Outcome State Fault Refusal :=
  .next (({ s with fresh := s.fresh + 1 } : State).afterFree 1 (.retryResult e (Config.choice s.fresh)))

/-- Raises a lasting error in the thread that consumes the data; one that nobody consumes is reported at H only (R397). -/
def State.raiseError (s : State) (e : ErrLoc) : State :=
  let report := s.sendEvent { core := errCore e, slot := 0 } ((s.partOf (errCore e)).getD 0) (errCause e) (errValue e) 0
  match errWho e with
  | some w =>
    (match s.thread w with
    | some t => s.takeTrap w (errCause e) (errValue e) t.pc
    | none => report)
  | none => report

/-- Host messages that are crossing a link (R289, R397).
Log 91 (DESIGN CHOICE, unsafe). -/
def crossing (link : Nat) (m : Msg) : Bool :=
  m.origin != 0 && routeUsesIo (dieOf m.dst) 0 link

/-- A die-to-die link is lost (R397): what is on it is lost, and the partitions that span it end.
Log 91 (DESIGN CHOICE, unsafe). -/
def State.loseLink (s : State) (link : Nat) : State :=
  let s1 := s.unschedule fun ev => match ev with
    | .messageArrival m => crossing link m
    | _ => false
  let s2 := { s1 with deadLinks := link :: s1.deadLinks }
  (s.parts.filter fun p => p.2.live && PartSpec.spans p.2.spec link).foldl (fun s p => s.after 0 (.partitionEnd p.1)) s2

/-- The Beacon link is lost (R397): the remote commands in flight fail, and what is on the link is lost.
Logs 91 (DESIGN CHOICE, unsafe), 96 (DEDUCED, unsafe). -/
def State.loseBeacon (s : State) : State :=
  let back := fun ev => match ev with
    | Ev.remoteAccess a => (match a with | .reply _ _ _ => true | _ => false)
    | _ => false
  let s1 := { s.unschedule back with beacon := [], beaconMsgs := [] }
  s1.cores.foldl
    (fun s p => match p.2.cp.exec with
      | some r =>
        if r.begun && r.remote then
          (s.modCore p.1 fun c => { c with cp := { c.cp with exec := some { r with remote := false, err := some cLinkLasting } } }).after 1
            (.commandCompletion p.1 .cp)
        else s
      | none => s) s1

/-- What a lasting error does (R397).
Logs 95 (DEDUCED, unsafe), 97 (DEDUCED, unsafe). -/
def State.lasting (s : State) (e : ErrLoc) : State :=
  match e with
  | .sramData _ line _ | .hbm line _ | .tier line _ => ({ s with poison := smSet s.poison line (errCause e) } : State).raiseError e
  | .localWord core off _ =>
    (s.modCore core fun c => { c with poison := smSet c.poison (off / 4) cSramUncorrectable }).raiseError e
  | .coreUnit core _ _ =>
    (s.modHost fun h => { h with excluded := if h.excluded.contains core then h.excluded else core :: h.excluded }).raiseError e
  | .dieLink link => (s.loseLink link).raiseError e
  | .beacon => s.loseBeacon.raiseError e
  | .walker die k =>
    (match smGet (s.die die).walkers k with
    | some x =>
      (s.modDie die fun d => { d with walkers := smDel d.walkers k }).walkTrap x fun va _ => (cWalkerLasting, va)
    | none => s.raiseError e)
  | .lantern _ _ => s.raiseError e

/-- `RETRY_RESULT` (R396, R397): a transient error is only logged. -/
def execRetryResult (e : ErrLoc) (ok : Bool) (s : State) : Host.Outcome State Fault Refusal :=
  if ok then .next (s.logError e kTransient) else .next ((s.logError e kLasting).lasting e)

end Sys2Proof.Machine
end

