-- ==== Sys2Proof/Machine/Deadlock.lean ====
section
/-!
DEFINITION. The wait-for table and its walk (R307): who waits, on whose signal, and the knots that nobody will untie.
-/
namespace Sys2Proof.Machine

/-- A waiting agent of R307: a thread, an engine, the commit of a retired task, or a successor that waits to start (R300). -/
inductive Waiter where
  | thread (w : Who)
  | engine (core : Nat) (e : Engine)
  | commit (core gid : Nat)
  | succ (core gid : Nat)
  deriving DecidableEq, Repr

/-- The threads of a group that have not retired. -/
def State.groupThreads (s : State) (core gid : Nat) : List Waiter :=
  (((s.core core).members gid).filter fun p => !p.2.hasRetired).map fun p => .thread { core, slot := p.1 }

/-- Whether a lease is one on a copy of a frame. -/
def Lease.onCopy (l : Lease) (die idx frame copy : Nat) : Bool := l.die == die && l.idx == idx && l.frame == frame && l.copy == copy

/-- The holders of the leases that satisfy a test: threads, and the commits of tasks that hold them until then. -/
def State.holders (s : State) (f : Lease → Bool) : List Waiter :=
  s.cores.flatMap fun c =>
    (c.2.threads.filter fun p => p.2.leases.any f).map (fun p => Waiter.thread { core := c.1, slot := p.1 })
      ++ (c.2.groups.filter fun g => g.2.leases.any f).flatMap fun g =>
        if g.2.phase == .retired then [.commit c.1 g.1] else s.groupThreads c.1 g.1

/-- The leases on the copy that a moved report of a task will overwrite (R263). -/
def State.reportHolders (s : State) (r : ReportMsg) : List Waiter :=
  match s.ctxOf r.part (handleOf r.opnd) with
  | none => []
  | some (die, _, c) =>
    match c.reported r with
    | none => []
    | some (key, _) =>
      let layer := c.placeLayer key
      let phys := c.placePhys key
      let k := (c.frame layer phys).target
      let on := fun l : Lease => (s.sharers die c phys).any fun x => l.onCopy die x.1 (x.2.1.frameKey layer x.2.2) k
      if r.moved then s.holders on else []

/-- The holders of the leases that the commit of a task waits on. -/
def State.commitHolders (s : State) (core gid : Nat) (g : Group) : List Waiter :=
  ((g.held.filterMap Effect.reportOf).flatMap s.reportHolders).filter fun a => a != .commit core gid

/-- Those who must act before a task commits: its threads, and the holders of the leases its commit waits on. -/
def State.taskSignals (s : State) (core gid : Nat) (g : Group) : List Waiter :=
  s.groupThreads core gid ++ s.commitHolders core gid g

/-- The secure tasks of a die, other than one's own, that hold a line back (R227). -/
def State.secureSignals (s : State) (die line : Nat) (own : Option (Nat × Nat)) : List Waiter :=
  ((s.dieGroups die).filter fun x => x.2.2.uncommitted && x.2.2.secure && x.2.2.holds line && own != some (x.1, x.2.1)).flatMap
    fun x => s.taskSignals x.1 x.2.1 x.2.2

/-- The issuers of a round that are not done (R201). -/
def Round.notDone (x : Round) : List Waiter := (x.opened.filter fun p => (smGet x.dones p.1).isNone).map fun p => .thread p.2

/-- The issuers, not done, of the round of a line. -/
def State.roundSignals (s : State) (die line : Nat) : List Waiter := ((smGet (s.die die).rounds line).map Round.notDone).getD []

/-- The secure tasks that withhold the acknowledgements of a transaction of a line, at the dies that hold it (R227, R243). -/
def State.busySignals (s : State) (own : Option (Nat × Nat)) (home line : Nat) : List Waiter :=
  let e := s.dirEntry home line
  if e.busy.isSome then e.holders.flatMap fun h => s.secureSignals h.1 line own else []

/-- What holds a line back for an agent of a die: a round in progress or a secure task at its home, or at the die itself; what withholds its
transaction; or, for a request that waits for room in the snoop filter, the back-invalidation that makes it (R243). -/
def State.lineSignalsOf (s : State) (own : Option (Nat × Nat)) (die home line : Nat) : List Waiter :=
  s.roundSignals home line ++ s.secureSignals home line own ++ (if die = home then [] else s.secureSignals die line own)
    ++ s.busySignals own home line
    ++ if die = home || s.snoopRoom home line then []
       else ((smGetD (s.die home).snoop (line % 65536) []).head?.map fun v => s.busySignals own home v).getD []

/-- What holds a line back for a thread. -/
def State.lineSignals (s : State) (w : Who) (home line : Nat) : List Waiter :=
  s.lineSignalsOf (s.ownGroup w) (dieOf w.core) home line

/-- What holds back the lines that a thread or an engine has on their way, and those that are pending on a die (R227, R250): `slot` is the one
that the flights bear. -/
def State.flightSignals (s : State) (w : Who) (slot : Nat) (dirty : Signature) : List Waiter :=
  ((s.core w.core).flights.filter fun f => f.w.slot == slot).flatMap (fun f => s.lineSignals w f.acc.homeDie f.lw.line)
    ++ s.dies.flatMap fun d => (d.2.copies.filter fun c => c.2.pend != 0 && sigHas dirty c.1).flatMap fun c =>
      s.lineSignals w (s.homeOf c.1) c.1

/-- The expected signallers of a word of a local store (R269): the engines of its core, and the threads that have issued a filling
or emptying form on it. -/
def State.wordSignals (s : State) (core off : Nat) : List Waiter :=
  [.engine core .mx, .engine core .vx, .engine core .cp] ++ (smGetD (s.core core).fillers (off / 4) []).map .thread

/-- The threads of a context's recompute tasks that have been dispatched and have not reported (R307). -/
def State.recompute (s : State) (c : Ctx) : List Waiter :=
  s.cores.flatMap fun k =>
    (k.2.groups.filter fun g => g.2.phase != .succeeding && c.places.any fun p => p.2.task.addr == g.2.task.addr).flatMap fun g =>
      s.groupThreads k.1 g.1

/-- The context that a handle names for a partition. -/
def State.ctxSignals (s : State) (part : Nat) (h : Nat) (leases : Bool) : List Waiter :=
  match s.ctxOf part h with
  | none => []
  | some (die, idx, c) => s.recompute c ++ if leases then s.holders (fun l => l.die == die && l.idx == idx) else []

/-- The pushers of the commands that an engine has queued. -/
def Unit3.pushers (u : Unit3) : List Waiter := (u.queue ++ u.exec.toList.map (·.cmd)).map fun c => .thread c.w

/-- The tasks of a die that must commit before a task (R227). -/
def State.earlier (s : State) (core gid : Nat) : List (Nat × Nat × Group) :=
  match s.group core gid with
  | none => []
  | some g => (s.dieGroups (dieOf core)).filter fun x => x.2.2.uncommitted && keyLt (x.2.2.key x.1) (g.key core)

/-- Those who must act before a task becomes secure (R227, R230): the tasks of its die that commit before it. -/
def State.earlierSignals (s : State) (core gid : Nat) : List Waiter :=
  (s.earlier core gid).flatMap fun x => s.taskSignals x.1 x.2.1 x.2.2

/-- Those who must act before a speculative store finds a place (R228): the tasks whose lines block it, or, for an unbounded task that is
not secure yet, the tasks that commit before it. -/
def State.placeSignals (s : State) (core gid line : Nat) : List Waiter :=
  let tasks := fun gids : List Nat => gids.flatMap fun i => match s.group core i with
    | some g => s.taskSignals core i g
    | none => []
  match s.group core gid with
  | some g =>
    if g.unbounded then s.earlierSignals core gid
    else tasks (((s.core core).specBlockers line).filter (· != gid))
  | none => []

/-- The line of the element at the head of a generator's read-ahead, if it waits for one. -/
def State.streamSignals (s : State) (w : Who) (t : Thread) (gen : Nat) : List Waiter :=
  match ((smGet (s.core w.core).gens gen).map fun g => g.ahead.head?).join with
  | some x =>
    (match placeOf w.core x.addr, s.xlateNow w.core t.part t.spc x.addr 4 false false 0x0000FF00#32 with
    | .memory, .ok a => s.lineSignals w a.homeDie a.line
    | _, _ => [])
  | none => []

/-- Those who must act before a thread that has retired goes on (R300): the threads of its group that have not, the commit of its task, or what
its successor waits for. -/
def State.retiredSignals (s : State) (core gid : Nat) : List Waiter :=
  match s.group core gid with
  | none => []
  | some g =>
    match g.phase with
    | .retired => [.commit core gid]
    | .succeeding => [.succ core gid]
    | _ => s.groupThreads core gid

/-- The expected signallers of what a thread waits for (R307).
Log 98 (DEDUCED, unsafe). -/
def State.threadSignals (s : State) (w : Who) (t : Thread) (wt : Wait) : List Waiter :=
  match wt with
  | .rsv word _ _ _ _ =>
    (match s.rsvHome word with
    | none => []
    | some home =>
      let q := smGetD (s.die home).rsv word RsvQueue.empty
      (q.holder.toList ++ ((q.queue.takeWhile fun r => r.w != w).filter fun r => r.far.isNone).map (·.w)).map Waiter.thread
        ++ s.lineSignals w home (word / 128)
        ++ s.flightSignals w w.slot 0)
  | .barrier bar phase _ =>
    let b := s.barrier (clusterOf w.core) bar
    let ph := phase.getD b.phase
    (b.arrived.filter fun p => p.2 != ph).map fun p => .thread { core := p.1 / 64, slot := p.1 % 64 }
  | .msg cls => (s.msgClass w.core cls).senders.map .thread
  | .named _ sender _ => [.thread sender]
  | .sync _ core off _ _ => s.wordSignals core off
  | .wideSync _ off =>
    ((List.range 16).filter fun i => !(s.core w.core).isFull (off / 4 + i)).flatMap fun i => s.wordSignals w.core (off + 4 * i)
  | .queue e => ((s.core w.core).unit e).pushers
  | .gangForm n =>
    let base := w.core / n * n
    (((List.range n).map fun j => ({ core := base + j, slot := w.slot } : Who)).filter fun x => !s.atRendezvous x n).map .thread
  | .roundOpen line =>
    (s.dies.flatMap fun d =>
      match d.2.openQ.find? fun r => r.w == w && r.line == line with
      | some r => (d.2.rounds.filter fun x => x.2.bank == r.bank).flatMap fun x => x.2.notDone
      | none => [])
  | .roundDone line => ((s.roundHome line).map fun d => s.roundSignals d line).getD []
  | .load a _ => s.lineSignals w a.homeDie a.line
  | .release scope _ _ _ => s.flightSignals w w.slot (if scopeGlobal scope then t.dirty else 0)
  | .seqRel _ _ _ _ _ => s.flightSignals w w.slot t.dirty
  | .ack => s.flightSignals w w.slot 0
  | .retired => s.retiredSignals w.core t.gid
  | .tlbInv _ l => l.flatMap fun x => match s.group x.1 x.2 with
    | some g => if g.uncommitted then .commit x.1 x.2 :: s.taskSignals x.1 x.2 g else []
    | none => []
  | .seq op _ a _ =>
    (match op with
    | .settle | .ctxRd => s.ctxSignals t.part (handleOf a) false
    | .close | .ins | .del | .chg | .rope => s.ctxSignals t.part (handleOf a) true
    | _ => [])
  | .retry o =>
    (match o with
    | .secure => s.earlierSignals w.core t.gid
    | .place line => s.placeSignals w.core t.gid line
    | .stream gen => s.streamSignals w t gen
    | .full core off => s.wordSignals core off
    | _ => [])
  | _ => []

/-- The expected signallers of an engine whose command waits (R269, R287, R307).
Log 98 (DEDUCED, unsafe). -/
def State.engineSignals (s : State) (core : Nat) (e : Engine) : List Waiter :=
  match ((s.core core).unit e).exec with
  | none => []
  | some r =>
    if r.begun then s.flightSignals { core, slot := r.cmd.w.slot } (r.cmd.w.slot + 128 * engineNum e) 0
    else
      let die := dieOf core
      match r.hold with
      | .word off => s.wordSignals core off
      | .line home line => s.lineSignalsOf (some (core, r.cmd.gid)) die home line
      | .place line => s.placeSignals core r.cmd.gid line
      | .frames h => s.ctxSignals r.cmd.part h false
      | .row _ => [.thread r.cmd.w]
      | .free => []

/-- What a successor waits for (R300): the engines with commands that hold it back, the group that holds the live claim on the tiles, and the
groups whose pinned ranges its own footprint meets.
Log 98 (DEDUCED, unsafe). -/
def State.succSignals (s : State) (core gid : Nat) (g : Group) : List Waiter :=
  match g.succ with
  | none => []
  | some (r, m) =>
    let c := s.core core
    let others := c.groups.filter fun h => h.1 != gid
    let xs := if m.getLsbD 6 then [] else s.ranges core r
    let claim := c.claims r && m.extractLsb' 8 8 == 0#8
    (s.heldBackBy core gid g.pins).map (Waiter.engine core)
      ++ (others.filter fun h => (claim && h.2.claim)
            || xs.any fun x => clash (h.2.pins.map fun y => (y.1, y.1 + y.2)) x.off x.len).flatMap fun h => s.groupThreads core h.1

/-- What the commit of a retired task waits for (R227, R307): the holders of the leases, or the tasks that commit before it; and the engines that
still run its commands. -/
def State.commitSignals (s : State) (core gid : Nat) (g : Group) : List Waiter :=
  (if g.secure then s.commitHolders core gid g else s.earlierSignals core gid)
    ++ ([Engine.mx, .vx, .cp].filter fun k => ((s.core core).unit k).all.any fun c => c.gid == gid).map (Waiter.engine core)

/-- Whether a thread of an unbounded task waits until the task is secure (R228). -/
def State.awaitsSecure (s : State) (w : Who) (t : Thread) : Bool :=
  match s.taskOf w t with
  | some g => g.unbounded && !g.secure
  | none => false

/-- What a thread waits for and since when, if it waits; a thread of an unbounded task waits until the task is secure (R228). -/
def State.threadWaits (s : State) (w : Who) (t : Thread) : Option (Nat × List Waiter) :=
  match t.run with
  | .waiting wt since => some (since, s.threadSignals w t wt)
  | .ready => if s.awaitsSecure w t then some (t.lastIssue.getD 0, s.earlierSignals w.core t.gid) else none
  | _ => none

/-- Everyone who waits, since when, and on whom.
Log 98 (DEDUCED, unsafe). -/
def State.waitTable (s : State) : List (Waiter × Nat × List Waiter) :=
  s.cores.flatMap fun c =>
    (c.2.threads.filterMap fun p =>
      (s.threadWaits { core := c.1, slot := p.1 } p.2).map fun x => (Waiter.thread { core := c.1, slot := p.1 }, x))
    ++ ([Engine.mx, .vx, .cp].filterMap fun e =>
      (c.2.unit e).exec.map fun r => (Waiter.engine c.1 e, r.since, s.engineSignals c.1 e))
    ++ (c.2.groups.filterMap fun g =>
      if g.2.phase == .retired then some (Waiter.commit c.1 g.1, 0, s.commitSignals c.1 g.1 g.2)
      else if g.2.phase == .succeeding then some (Waiter.succ c.1 g.1, 0, s.succSignals c.1 g.1 g.2)
      else none)

/-- Keeps the waiters whose every signaller is still there, as often as there are waiters (R307): what is left is the union of
the knots.
Log 98 (DEDUCED, unsafe). -/
def knots (l : List (Waiter × Nat × List Waiter)) : Nat → List (Waiter × Nat × List Waiter)
  | 0 => l
  | n + 1 => knots (l.filter fun x => !x.2.2.isEmpty && x.2.2.all fun a => l.any fun y => y.1 == a) n

/-- Whether one of two waiters expects the other's signal. -/
def tied (x y : Waiter × Nat × List Waiter) : Bool := x.2.2.contains y.1 || y.2.2.contains x.1

/-- Grows a set of waiters by those tied to it. -/
def grow (l k : List (Waiter × Nat × List Waiter)) : Nat → List (Waiter × Nat × List Waiter)
  | 0 => k
  | n + 1 => grow l (k ++ l.filter fun x => !(k.any fun y => y.1 == x.1) && k.any (tied x)) n

/-- The core and slot of a thread, or the core of an engine, for the order of R307; a commit or a successor receives nothing. -/
def Waiter.place : Waiter → Option (Nat × Nat)
  | .thread w => some (w.core, w.slot)
  | .engine core _ => some (core, 0)
  | _ => none

/-- Whether a waiter may receive DEADLOCK (R307): an engine, or a thread with an instruction in progress. -/
def State.mayReceive (s : State) : Waiter → Bool
  | .thread w => (s.thread w).any fun t => !t.hasRetired
  | .engine _ _ => true
  | _ => false

/-- The youngest of a knot that is a thread or an engine (R307). -/
def youngest : List (Waiter × Nat × List Waiter) → Option (Waiter × Nat)
  | [] => none
  | (a, since, _) :: t =>
    match a.place with
    | none => youngest t
    | some p =>
      match youngest t with
      | none => some (a, since)
      | some (b, sb) =>
        let q := b.place.getD (0, 0)
        if since < sb || (since == sb && (decide (p.1 < q.1) || (p.1 == q.1 && decide (p.2 < q.2)))) then some (b, sb)
        else some (a, since)

/-- Delivers DEADLOCK (R307): the instruction has not completed, or the engine's command fails with status 1.
Log 98 (DEDUCED, unsafe). -/
def State.breakKnot (s : State) (a : Waiter) : State :=
  match a with
  | .thread w => (match s.thread w with | some t => s.takeTrap w cDeadlock 0 t.pc | none => s)
  | .engine core e =>
    (match ((s.core core).unit e).exec with
    | some r =>
      (s.modUnit core e fun u => { u with exec := some { r with begun := true, since := s.cycle, err := some cDeadlock, hold := .free } }).after
        1 (.commandCompletion core e)
    | none => s)
  | _ => s

/-- Breaks the knots of a list, one by one, with fuel. -/
def State.breakKnots (s : State) (l : List (Waiter × Nat × List Waiter)) : Nat → State
  | 0 => s
  | n + 1 =>
    match l with
    | [] => s
    | x :: _ =>
      let k := grow l [x] l.length
      let s1 := match youngest (k.filter fun x => s.mayReceive x.1) with
        | some (a, _) => s.breakKnot a
        | none => s
      s1.breakKnots (l.filter fun y => !k.any fun z => z.1 == y.1) n

/-- `DEADLOCK_WALK` (R307). -/
def execDeadlockWalk (s : State) : Host.Outcome State Fault Refusal :=
  let l := s.waitTable
  let k := knots l l.length
  .next (s.breakKnots k k.length)

end Sys2Proof.Machine
end

