-- ==== Sys2Proof/Machine/ScalarFp.lean ====
section
/-!
DEFINITION. Scalar floating point, the fused forms and `cvt`, opcodes 0x1C to 0x1E (R122 to R130).
-/
namespace Sys2Proof.Machine

/-- A comparison's result as an integer. -/
def cmpRes (r : Bool × FlagSet) : Nat × FlagSet := (r.1.toNat, r.2)

/-- `FADD` (R122). -/
def execFadd (d a b : GReg) (s : State) : Host.Outcome State Fault Refusal :=
  fop3 (enc (.fadd d a b)) d.toNat a.toNat b.toNat fmt32.add s

/-- `FSUB` (R122). -/
def execFsub (d a b : GReg) (s : State) : Host.Outcome State Fault Refusal :=
  fop3 (enc (.fsub d a b)) d.toNat a.toNat b.toNat fmt32.sub s

/-- `FMUL` (R122). -/
def execFmul (d a b : GReg) (s : State) : Host.Outcome State Fault Refusal :=
  fop3 (enc (.fmul d a b)) d.toNat a.toNat b.toNat fmt32.mul s

/-- `FDIV` (R122). -/
def execFdiv (d a b : GReg) (s : State) : Host.Outcome State Fault Refusal :=
  fop3 (enc (.fdiv d a b)) d.toNat a.toNat b.toNat fmt32.div s

/-- `FMIN` (R123). -/
def execFmin (d a b : GReg) (s : State) : Host.Outcome State Fault Refusal :=
  fop3 (enc (.fmin d a b)) d.toNat a.toNat b.toNat (fun _ => fmt32.minMax false) s

/-- `FMAX` (R123). -/
def execFmax (d a b : GReg) (s : State) : Host.Outcome State Fault Refusal :=
  fop3 (enc (.fmax d a b)) d.toNat a.toNat b.toNat (fun _ => fmt32.minMax true) s

/-- `FEQ` (R122). -/
def execFeq (d a b : GReg) (s : State) : Host.Outcome State Fault Refusal :=
  fop3 (enc (.feq d a b)) d.toNat a.toNat b.toNat (fun _ x y => cmpRes (fmt32.eq x y)) s

/-- `FLT` (R122). -/
def execFlt (d a b : GReg) (s : State) : Host.Outcome State Fault Refusal :=
  fop3 (enc (.flt d a b)) d.toNat a.toNat b.toNat (fun _ x y => cmpRes (fmt32.lt x y)) s

/-- `FLE` (R122). -/
def execFle (d a b : GReg) (s : State) : Host.Outcome State Fault Refusal :=
  fop3 (enc (.fle d a b)) d.toNat a.toNat b.toNat (fun _ x y => cmpRes (fmt32.le x y)) s

/-- `FSGNJ` (R125). -/
def execFsgnj (d a b : GReg) (s : State) : Host.Outcome State Fault Refusal :=
  fop3 (enc (.fsgnj d a b)) d.toNat a.toNat b.toNat (fun _ x y => fmt32.withSign x (y / 2 ^ 31 % 2 == 1)) s

/-- `FSQRT` (R122). -/
def execFsqrt (d a : GReg) (s : State) : Host.Outcome State Fault Refusal :=
  fop2 (enc (.fsqrt d a)) d.toNat a.toNat fmt32.sqrt s

/-- `FCLASS` (R124). -/
def execFclass (d a : GReg) (s : State) : Host.Outcome State Fault Refusal :=
  fop2 (enc (.fclass d a)) d.toNat a.toNat (fun _ x => (fclassWord x, 0)) s

/-- `FABS` (R125). -/
def execFabs (d a : GReg) (s : State) : Host.Outcome State Fault Refusal :=
  fop2 (enc (.fabs d a)) d.toNat a.toNat (fun _ x => fmt32.withSign x false) s

/-- `FNEG` (R125). -/
def execFneg (d a : GReg) (s : State) : Host.Outcome State Fault Refusal :=
  fop2 (enc (.fneg d a)) d.toNat a.toNat (fun _ x => fmt32.withSign x (x / 2 ^ 31 % 2 == 0)) s

/-- `FMADD` (R126). -/
def execFmadd (d a b : GReg) (s : State) : Host.Outcome State Fault Refusal :=
  fop4 (enc (.fmadd d a b)) d.toNat a.toNat b.toNat false false s

/-- `FMSUB` (R126). -/
def execFmsub (d a b : GReg) (s : State) : Host.Outcome State Fault Refusal :=
  fop4 (enc (.fmsub d a b)) d.toNat a.toNat b.toNat false true s

/-- `FNMADD` (R126). -/
def execFnmadd (d a b : GReg) (s : State) : Host.Outcome State Fault Refusal :=
  fop4 (enc (.fnmadd d a b)) d.toNat a.toNat b.toNat true true s

/-- `FNMSUB` (R126). -/
def execFnmsub (d a b : GReg) (s : State) : Host.Outcome State Fault Refusal :=
  fop4 (enc (.fnmsub d a b)) d.toNat a.toNat b.toNat true false s

/-- The rounding that a rounding field names (R84). -/
def rndMode (r : Rnd) (frm : BitVec 2) : BitVec 2 :=
  match r with
  | .rne => 0
  | .rtz => 1
  | .rdn => 2
  | .rup => 3
  | .dyn => frm

/-- The source bits that `cvt` reads (R128). -/
def cvtSrc (st : LaneT) (v : Dword) : Nat := v.toNat % 2 ^ st.width

/-- The register value that `cvt` writes (R128): i32 sign-extended, the rest zero-extended. -/
def cvtDst (dt : LaneT) (n : Nat) : Dword :=
  if dt = .i32 then (BitVec.ofNat 32 n).signExtend 64 else BitVec.ofNat 64 n

/-- `CVT` (R127 to R130): a format word with a reserved bit stops it when c8 is named. -/
def execCvt (d a : GReg) (rm : Rnd) (dt st : LaneT) (s : State) : Host.Outcome State Fault Refusal :=
  issue (useG (enc (.cvt d a rm dt st)) [d.toNat, a.toNat] [a.toNat] [d.toNat]) s fun s t rd =>
    if (dt = .c8 ∨ st = .c8) ∧ fmtBad t.fmtWord t.fmtRest then .trap cReservedField (t.fmtWord.zeroExtend 64)
    else
      let r := (s.core s.cur.core).convert t.fmtWord (rndMode rm t.frm) dt st (cvtSrc st (rd a.toNat))
      flagRes (s.writeG s.cur d.toNat (cvtDst dt r.1)) t s.cur r.2

end Sys2Proof.Machine
end

