-- ==== Sys2Proof/Machine/ScalarInt.lean ====
section
/-!
DEFINITION. The scalar integer instructions, opcodes 0x00 to 0x13 (R113 to R121). Each is one call of a shape of
Operands.lean.
-/
namespace Sys2Proof.Machine

/-- Leading zero bits (R114). -/
def clzOf (x : Dword) : Dword := BitVec.ofNat 64 (((List.range 64).find? fun i => x.getLsbD (63 - i)).getD 64)
/-- Trailing zero bits (R114). -/
def ctzOf (x : Dword) : Dword := BitVec.ofNat 64 (((List.range 64).find? fun i => x.getLsbD i).getD 64)
/-- One bits (R114). -/
def popcOf (x : Dword) : Dword := BitVec.ofNat 64 ((List.range 64).filter fun i => x.getLsbD i).length
/-- The eight bytes in reverse order (R114). -/
def bswapOf (x : Dword) : Dword := BitVec.ofNat 64 (leNat (leBytes 8 x.toNat).reverse)
/-- A truth value as an integer. -/
def bool64 (b : Bool) : Dword := if b then 1 else 0
/-- Signed quotient, truncated toward zero; −1 for a zero divisor (R115). -/
def divS (a b : Dword) : Dword := if b = 0 then BitVec.allOnes 64 else BitVec.ofInt 64 (Int.tdiv a.toInt b.toInt)
/-- Unsigned quotient (R115). -/
def divU (a b : Dword) : Dword := if b = 0 then BitVec.allOnes 64 else BitVec.ofNat 64 (a.toNat / b.toNat)
/-- Signed remainder, with the sign of A (R115). -/
def remS (a b : Dword) : Dword := if b = 0 then a else BitVec.ofInt 64 (Int.tmod a.toInt b.toInt)
/-- Unsigned remainder (R115). -/
def remU (a b : Dword) : Dword := if b = 0 then a else BitVec.ofNat 64 (a.toNat % b.toNat)
/-- The shift amount: bits [5:0] (R114). -/
def sh6 (b : Dword) : Nat := b.toNat % 64

/-- `ADD` (R114). -/
def execAdd (d a b : GReg) (s : State) : Host.Outcome State Fault Refusal :=
  op3 (enc (.add d a b)) d.toNat a.toNat b.toNat (fun a b => a + b) s

/-- `SUB` (R114). -/
def execSub (d a b : GReg) (s : State) : Host.Outcome State Fault Refusal :=
  op3 (enc (.sub d a b)) d.toNat a.toNat b.toNat (fun a b => a - b) s

/-- `AND` (R114). -/
def execAnd (d a b : GReg) (s : State) : Host.Outcome State Fault Refusal :=
  op3 (enc (.and d a b)) d.toNat a.toNat b.toNat (fun a b => a &&& b) s

/-- `OR` (R114). -/
def execOr (d a b : GReg) (s : State) : Host.Outcome State Fault Refusal :=
  op3 (enc (.or d a b)) d.toNat a.toNat b.toNat (fun a b => a ||| b) s

/-- `XOR` (R114). -/
def execXor (d a b : GReg) (s : State) : Host.Outcome State Fault Refusal :=
  op3 (enc (.xor d a b)) d.toNat a.toNat b.toNat (fun a b => a ^^^ b) s

/-- `ANDN` (R114). -/
def execAndn (d a b : GReg) (s : State) : Host.Outcome State Fault Refusal :=
  op3 (enc (.andn d a b)) d.toNat a.toNat b.toNat (fun a b => a &&& ~~~ b) s

/-- `ORN` (R114). -/
def execOrn (d a b : GReg) (s : State) : Host.Outcome State Fault Refusal :=
  op3 (enc (.orn d a b)) d.toNat a.toNat b.toNat (fun a b => a ||| ~~~ b) s

/-- `XNOR` (R114). -/
def execXnor (d a b : GReg) (s : State) : Host.Outcome State Fault Refusal :=
  op3 (enc (.xnor d a b)) d.toNat a.toNat b.toNat (fun a b => ~~~ (a ^^^ b)) s

/-- `SLL` (R114). -/
def execSll (d a b : GReg) (s : State) : Host.Outcome State Fault Refusal :=
  op3 (enc (.sll d a b)) d.toNat a.toNat b.toNat (fun a b => a <<< sh6 b) s

/-- `SRL` (R114). -/
def execSrl (d a b : GReg) (s : State) : Host.Outcome State Fault Refusal :=
  op3 (enc (.srl d a b)) d.toNat a.toNat b.toNat (fun a b => a >>> sh6 b) s

/-- `SRA` (R114). -/
def execSra (d a b : GReg) (s : State) : Host.Outcome State Fault Refusal :=
  op3 (enc (.sra d a b)) d.toNat a.toNat b.toNat (fun a b => a.sshiftRight (sh6 b)) s

/-- `ROL` (R114). -/
def execRol (d a b : GReg) (s : State) : Host.Outcome State Fault Refusal :=
  op3 (enc (.rol d a b)) d.toNat a.toNat b.toNat (fun a b => a.rotateLeft (sh6 b)) s

/-- `ROR` (R114). -/
def execRor (d a b : GReg) (s : State) : Host.Outcome State Fault Refusal :=
  op3 (enc (.ror d a b)) d.toNat a.toNat b.toNat (fun a b => a.rotateRight (sh6 b)) s

/-- `SEQ` (R114). -/
def execSeq (d a b : GReg) (s : State) : Host.Outcome State Fault Refusal :=
  op3 (enc (.seq d a b)) d.toNat a.toNat b.toNat (fun a b => bool64 (a == b)) s

/-- `SLT` (R114). -/
def execSlt (d a b : GReg) (s : State) : Host.Outcome State Fault Refusal :=
  op3 (enc (.slt d a b)) d.toNat a.toNat b.toNat (fun a b => bool64 (a.slt b)) s

/-- `SLT_Z` (R114). -/
def execSltZ (d a b : GReg) (s : State) : Host.Outcome State Fault Refusal :=
  op3 (enc (.sltZ d a b)) d.toNat a.toNat b.toNat (fun a b => bool64 (a.ult b)) s

/-- `MIN` (R114). -/
def execMin (d a b : GReg) (s : State) : Host.Outcome State Fault Refusal :=
  op3 (enc (.min d a b)) d.toNat a.toNat b.toNat (fun a b => if a.slt b then a else b) s

/-- `MAX` (R114). -/
def execMax (d a b : GReg) (s : State) : Host.Outcome State Fault Refusal :=
  op3 (enc (.max d a b)) d.toNat a.toNat b.toNat (fun a b => if a.slt b then b else a) s

/-- `MIN_Z` (R114). -/
def execMinZ (d a b : GReg) (s : State) : Host.Outcome State Fault Refusal :=
  op3 (enc (.minZ d a b)) d.toNat a.toNat b.toNat (fun a b => if a.ult b then a else b) s

/-- `MAX_Z` (R114). -/
def execMaxZ (d a b : GReg) (s : State) : Host.Outcome State Fault Refusal :=
  op3 (enc (.maxZ d a b)) d.toNat a.toNat b.toNat (fun a b => if a.ult b then b else a) s

/-- `MUL` (R114). -/
def execMul (d a b : GReg) (s : State) : Host.Outcome State Fault Refusal :=
  op3 (enc (.mul d a b)) d.toNat a.toNat b.toNat (fun a b => a * b) s

/-- `MULH` (R114). -/
def execMulh (d a b : GReg) (s : State) : Host.Outcome State Fault Refusal :=
  op3 (enc (.mulh d a b)) d.toNat a.toNat b.toNat (fun a b => BitVec.ofInt 64 (a.toInt * b.toInt / 2 ^ 64)) s

/-- `MULH_Z` (R114). -/
def execMulhZ (d a b : GReg) (s : State) : Host.Outcome State Fault Refusal :=
  op3 (enc (.mulhZ d a b)) d.toNat a.toNat b.toNat (fun a b => BitVec.ofNat 64 (a.toNat * b.toNat / 2 ^ 64)) s

/-- `DIV` (R115). -/
def execDiv (d a b : GReg) (s : State) : Host.Outcome State Fault Refusal :=
  op3 (enc (.div d a b)) d.toNat a.toNat b.toNat (fun a b => divS a b) s

/-- `DIV_Z` (R115). -/
def execDivZ (d a b : GReg) (s : State) : Host.Outcome State Fault Refusal :=
  op3 (enc (.divZ d a b)) d.toNat a.toNat b.toNat (fun a b => divU a b) s

/-- `REM` (R115). -/
def execRem (d a b : GReg) (s : State) : Host.Outcome State Fault Refusal :=
  op3 (enc (.rem d a b)) d.toNat a.toNat b.toNat (fun a b => remS a b) s

/-- `REM_Z` (R115). -/
def execRemZ (d a b : GReg) (s : State) : Host.Outcome State Fault Refusal :=
  op3 (enc (.remZ d a b)) d.toNat a.toNat b.toNat (fun a b => remU a b) s

/-- `CLZ` (R114). -/
def execClz (d a : GReg) (s : State) : Host.Outcome State Fault Refusal :=
  op2 (enc (.clz d a)) d.toNat a.toNat clzOf s

/-- `CTZ` (R114). -/
def execCtz (d a : GReg) (s : State) : Host.Outcome State Fault Refusal :=
  op2 (enc (.ctz d a)) d.toNat a.toNat ctzOf s

/-- `POPC` (R114). -/
def execPopc (d a : GReg) (s : State) : Host.Outcome State Fault Refusal :=
  op2 (enc (.popc d a)) d.toNat a.toNat popcOf s

/-- `BSWAP` (R114). -/
def execBswap (d a : GReg) (s : State) : Host.Outcome State Fault Refusal :=
  op2 (enc (.bswap d a)) d.toNat a.toNat bswapOf s

/-- `CSEL` (R116): gD is the condition. -/
def execCsel (d a b : GReg) (s : State) : Host.Outcome State Fault Refusal :=
  issue (useG (enc (.csel d a b)) [d.toNat, a.toNat, b.toNat] [d.toNat, a.toNat, b.toNat] [d.toNat]) s fun s _ rd =>
    .done (s.writeG s.cur d.toNat (if rd d.toNat != 0 then rd a.toNat else rd b.toNat))

/-- `ADDI` (R117). -/
def execAddi (d a : GReg) (i : BitVec 11) (s : State) : Host.Outcome State Fault Refusal :=
  op2 (enc (.addi d a i)) d.toNat a.toNat (fun a => a + i.signExtend 64) s

/-- `ANDI` (R117). -/
def execAndi (d a : GReg) (i : BitVec 11) (s : State) : Host.Outcome State Fault Refusal :=
  op2 (enc (.andi d a i)) d.toNat a.toNat (fun a => a &&& i.signExtend 64) s

/-- `ORI` (R117). -/
def execOri (d a : GReg) (i : BitVec 11) (s : State) : Host.Outcome State Fault Refusal :=
  op2 (enc (.ori d a i)) d.toNat a.toNat (fun a => a ||| i.signExtend 64) s

/-- `XORI` (R117). -/
def execXori (d a : GReg) (i : BitVec 11) (s : State) : Host.Outcome State Fault Refusal :=
  op2 (enc (.xori d a i)) d.toNat a.toNat (fun a => a ^^^ i.signExtend 64) s

/-- `SLTI` (R117). -/
def execSlti (d a : GReg) (i : BitVec 11) (s : State) : Host.Outcome State Fault Refusal :=
  op2 (enc (.slti d a i)) d.toNat a.toNat (fun a => bool64 (a.slt (i.signExtend 64))) s

/-- `SLTI_Z` (R117). -/
def execSltiZ (d a : GReg) (i : BitVec 11) (s : State) : Host.Outcome State Fault Refusal :=
  op2 (enc (.sltiZ d a i)) d.toNat a.toNat (fun a => bool64 (a.ult (i.signExtend 64))) s

/-- `SLLI` (R117). -/
def execSlli (d a : GReg) (n : BitVec 6) (s : State) : Host.Outcome State Fault Refusal :=
  op2 (enc (.slli d a n)) d.toNat a.toNat (fun a => a <<< n.toNat) s

/-- `SRLI` (R117). -/
def execSrli (d a : GReg) (n : BitVec 6) (s : State) : Host.Outcome State Fault Refusal :=
  op2 (enc (.srli d a n)) d.toNat a.toNat (fun a => a >>> n.toNat) s

/-- `SRAI` (R117). -/
def execSrai (d a : GReg) (n : BitVec 6) (s : State) : Host.Outcome State Fault Refusal :=
  op2 (enc (.srai d a n)) d.toNat a.toNat (fun a => a.sshiftRight n.toNat) s

/-- `ROLI` (R117). -/
def execRoli (d a : GReg) (n : BitVec 6) (s : State) : Host.Outcome State Fault Refusal :=
  op2 (enc (.roli d a n)) d.toNat a.toNat (fun a => a.rotateLeft n.toNat) s

/-- `LUI` (R118). -/
def execLui (d : GReg) (i : BitVec 18) (s : State) : Host.Outcome State Fault Refusal :=
  issue (useG (enc (.lui d i)) [d.toNat] [] [d.toNat]) s fun s _ _ =>
    .done (s.writeG s.cur d.toNat (i.signExtend 64 <<< 11))

/-- `LHI` (R118): gD is shifted left by 18 and the immediate comes in below. -/
def execLhi (d : GReg) (i : BitVec 18) (s : State) : Host.Outcome State Fault Refusal :=
  issue (useG (enc (.lhi d i)) [d.toNat] [d.toNat] [d.toNat]) s fun s _ rd =>
    .done (s.writeG s.cur d.toNat (rd d.toNat <<< 18 ||| i.zeroExtend 64))

/-- `ADDPC` (R118). -/
def execAddpc (d : GReg) (i : BitVec 18) (s : State) : Host.Outcome State Fault Refusal :=
  issue (useG (enc (.addpc d i)) [d.toNat] [] [d.toNat]) s fun s t _ =>
    .done (s.writeG s.cur d.toNat ((pcPlus t.pc i.toInt).zeroExtend 64))

/-- `JAL` (R119). -/
def execJal (d : GReg) (i : BitVec 18) (s : State) : Host.Outcome State Fault Refusal := jump (enc (.jal d i)) d.toNat i.toInt s

/-- `JALR` (R120). -/
def execJalr (d a : GReg) (i : BitVec 11) (s : State) : Host.Outcome State Fault Refusal :=
  jumpReg (enc (.jalr d a i)) d.toNat a.toNat i.toInt s

/-- `BEQ` (R121). -/
def execBeq (a b : GReg) (x : BitVec 11) (s : State) : Host.Outcome State Fault Refusal :=
  branch (enc (.beq a b x)) a.toNat b.toNat x.toInt (fun a b => a == b) s

/-- `BNE` (R121). -/
def execBne (a b : GReg) (x : BitVec 11) (s : State) : Host.Outcome State Fault Refusal :=
  branch (enc (.bne a b x)) a.toNat b.toNat x.toInt (fun a b => a != b) s

/-- `BLT` (R121). -/
def execBlt (a b : GReg) (x : BitVec 11) (s : State) : Host.Outcome State Fault Refusal :=
  branch (enc (.blt a b x)) a.toNat b.toNat x.toInt (fun a b => a.slt b) s

/-- `BGE` (R121). -/
def execBge (a b : GReg) (x : BitVec 11) (s : State) : Host.Outcome State Fault Refusal :=
  branch (enc (.bge a b x)) a.toNat b.toNat x.toInt (fun a b => !a.slt b) s

/-- `BLT_Z` (R121). -/
def execBltZ (a b : GReg) (x : BitVec 11) (s : State) : Host.Outcome State Fault Refusal :=
  branch (enc (.bltZ a b x)) a.toNat b.toNat x.toInt (fun a b => a.ult b) s

/-- `BGE_Z` (R121). -/
def execBgeZ (a b : GReg) (x : BitVec 11) (s : State) : Host.Outcome State Fault Refusal :=
  branch (enc (.bgeZ a b x)) a.toNat b.toNat x.toInt (fun a b => !a.ult b) s

end Sys2Proof.Machine
end

