-- ==== Sys2Proof/Machine/SpecialFn.lean ====
section
/-!
DEFINITION. The special-function instructions, opcode 0x1F (R131 to R136): a request enters the unit's queue, and SFU_RESULT
writes it.
-/
namespace Sys2Proof.Machine

/-- Requests of a core that have not started (R135: the queue holds sixteen). -/
def Core.sfuWaiting (c : Core) (cycle : Nat) : Nat := (c.sfu.filter fun r => decide (cycle < r.start)).length

/-- Puts a request at the tail of the unit's queue (R135): its start, and its result six cycles after it. -/
def State.sfuPut (s : State) (w : Who) (fn d : Nat) (x : Word) : State :=
  let c := s.core w.core
  let start := sfuSlot c.sfu (Nat.max s.cycle c.sfuBlocked)
  (s.setCore w.core { c with sfu := c.sfu ++ [{ w, f := fn, d, x, start }] }).after (start + 6 - s.cycle) (.sfuResult w)

/-- The shape of a special-function instruction (R131, R135): the thread leaves rotation until the result is written. The selector
does not choose it while the queue is full; asked for then, it does nothing.
Log 101 (DEDUCED, unsafe). -/
def sfuOp (enc : Nat) (fn d a : Nat) (s : State) : Host.Outcome State Fault Refusal :=
  issue (useG enc [d, a] [a] [d]) s fun s' _ rd =>
    if 16 ≤ (s.core s.cur.core).sfuWaiting s.cycle then .left s
    else
      let x : Word := (rd a).truncate 32
      .wait (s'.sfuPut s.cur fn d x) (.sfu fn d x)

/-- `EXP2` (R131). -/
def execExp2 (d a : GReg) (s : State) : Host.Outcome State Fault Refusal := sfuOp (enc (.exp2 d a)) 0 d.toNat a.toNat s

/-- `LOG2` (R131). -/
def execLog2 (d a : GReg) (s : State) : Host.Outcome State Fault Refusal := sfuOp (enc (.log2 d a)) 1 d.toNat a.toNat s

/-- `RCP` (R131). -/
def execRcp (d a : GReg) (s : State) : Host.Outcome State Fault Refusal := sfuOp (enc (.rcp d a)) 2 d.toNat a.toNat s

/-- `RSQRT` (R131). -/
def execRsqrt (d a : GReg) (s : State) : Host.Outcome State Fault Refusal := sfuOp (enc (.rsqrt d a)) 3 d.toNat a.toNat s

/-- `SIN` (R133). -/
def execSin (d a : GReg) (s : State) : Host.Outcome State Fault Refusal := sfuOp (enc (.sin d a)) 4 d.toNat a.toNat s

/-- `COS` (R133). -/
def execCos (d a : GReg) (s : State) : Host.Outcome State Fault Refusal := sfuOp (enc (.cos d a)) 5 d.toNat a.toNat s

/-- `SINT` (R134). -/
def execSint (d a : GReg) (s : State) : Host.Outcome State Fault Refusal := sfuOp (enc (.sint d a)) 6 d.toNat a.toNat s

/-- `COST` (R134). -/
def execCost (d a : GReg) (s : State) : Host.Outcome State Fault Refusal := sfuOp (enc (.cost d a)) 7 d.toNat a.toNat s

/-- `TANH` (R131). -/
def execTanh (d a : GReg) (s : State) : Host.Outcome State Fault Refusal := sfuOp (enc (.tanh d a)) 8 d.toNat a.toNat s

/-- `SIGM` (R131). -/
def execSigm (d a : GReg) (s : State) : Host.Outcome State Fault Refusal := sfuOp (enc (.sigm d a)) 9 d.toNat a.toNat s

/-- `ERF` (R131). -/
def execErf (d a : GReg) (s : State) : Host.Outcome State Fault Refusal := sfuOp (enc (.erf d a)) 10 d.toNat a.toNat s

/-- `SFU_RESULT` (R135): the result is written and its flags accrue; an enabled flag traps once it has (R112). -/
def execSfuResult (w : Who) (s : State) : Host.Outcome State Fault Refusal :=
  match (s.core w.core).sfu.find? fun r => r.w == w, s.thread w with
  | some r, some t =>
    let s1 := s.modCore w.core fun c => { c with sfu := c.sfu.filter fun r => r.w != w }
    let v := sfuFn r.f r.x.toNat
    let s2 := s1.completeWith w [(.reg r.d, BitVec.ofNat 512 v.1), (.orFlags, v.2.zeroExtend 512)]
    match trapOf v.2 t.fen with
    | some cause => .next (s2.takeTrap w cause 0 t.nextPc)
    | none => .next s2
  | _, _ => .next s

/-- `SFU_DISCARD_BLOCK_END` (R136): requests start again. -/
def execSfuDiscardBlockEnd (core : Nat) (s : State) : Host.Outcome State Fault Refusal :=
  .next (s.modCore core fun c => if c.sfuBlocked < s.cycle then { c with sfuBlocked := 0 } else c)

end Sys2Proof.Machine
end

