-- ==== Sys2Proof/Machine/Wide.lean ====
section
/-!
DEFINITION. The wide packed instructions, opcodes 0x20 to 0x25 (R137 to R147): lanes, masks, and the shapes that the
instructions share.
-/
namespace Sys2Proof.Machine

/-- Lanes of a wide register (R137). -/
def laneCount (t : LaneT) : Nat := 512 / t.width

/-- Lane i of a wide register; the upper bits of an e8m10 container are ignored (R137). -/
def getLane (t : LaneT) (x : Wide) (i : Nat) : Nat :=
  let v := x.toNat / 2 ^ (t.width * i) % 2 ^ t.width
  if t = .e8m10 then v % 2 ^ 19 else v

/-- The raw bits of lane i. -/
def rawLane (t : LaneT) (x : Wide) (i : Nat) : Nat := x.toNat / 2 ^ (t.width * i) % 2 ^ t.width

/-- Whether the mask bit that governs lane i is set (R137). -/
def laneOn (t : LaneT) (m : Dword) (i : Nat) : Bool := m.getLsbD (if t.width = 4 then i / 2 else i)

/-- Lanes of width n, the first in the lowest bits (R6). -/
def packLanes (n : Nat) (l : List Nat) : Nat := l.foldr (fun x acc => x % 2 ^ n + 2 ^ n * acc) 0

/-- Writes the active lanes, and keeps the rest (R137). -/
def mapLanes (t : LaneT) (m : Dword) (old : Wide) (f : Nat → Nat) : Wide :=
  BitVec.ofNat 512 (packLanes t.width ((List.range (laneCount t)).map fun i => if laneOn t m i then f i else rawLane t old i))

/-- The flags of the active lanes (R137). -/
def laneFlags (t : LaneT) (m : Dword) (f : Nat → FlagSet) : FlagSet :=
  (List.range (laneCount t)).foldl (fun g i => if laneOn t m i then g ||| f i else g) 0

/-- A lane as the integer it encodes (R141). -/
def laneVal (t : LaneT) (x : Wide) (i : Nat) : Int := laneInt t.width t.signed (getLane t x i)

/-- The lane that encodes an integer modulo 2^w. -/
def intLane (t : LaneT) (v : Int) : Nat := (v % 2 ^ t.width).toNat

/-- Form `op.T wD, wA, wB`: each active lane from its number, with no flag. -/
def wop (enc : Nat) (w a b : Reg4) (k : KReg) (t : LaneT) (f : Wide → Wide → Nat → Nat) (s : State) :
    Host.Outcome State Fault Refusal :=
  issue (useW enc [] [w.toNat, a.toNat, b.toNat] [] []) s fun s th _ =>
    let x := s.readW s.cur th a.toNat
    let y := s.readW s.cur th b.toNat
    .done (s.writeW s.cur w.toNat (mapLanes t (th.readK k.toNat) (s.readW s.cur th w.toNat) (f x y)))

/-- An integer form of R141: each active lane from the two integers. -/
def wint (enc : Nat) (w a b : Reg4) (k : KReg) (t : LaneT) (f : Int → Int → Int) (s : State) :
    Host.Outcome State Fault Refusal :=
  wop enc w a b k t (fun x y i => intLane t (f (laneVal t x i) (laneVal t y i))) s

/-- A form whose lanes carry flags: lane result and flags from wA, wB, the old wD and the lane number (R140, R142). -/
def wflag (enc : Nat) (w a b : Reg4) (k : KReg) (t : LaneT) (f : BitVec 2 → Nat → Nat → Nat → Nat × FlagSet) (s : State) :
    Host.Outcome State Fault Refusal :=
  issue (useW enc [] [w.toNat, a.toNat, b.toNat] [] []) s fun s th _ =>
    let x := s.readW s.cur th a.toNat
    let y := s.readW s.cur th b.toNat
    let z := s.readW s.cur th w.toNat
    let m := th.readK k.toNat
    let g := fun i => f th.frm (getLane t x i) (getLane t y i) (getLane t z i)
    flagRes (s.writeW s.cur w.toNat (mapLanes t m z fun i => (g i).1)) th s.cur (laneFlags t m fun i => (g i).2)

/-- A form with one wide source whose lanes carry flags. -/
def wflag1 (enc : Nat) (w a : Reg4) (k : KReg) (t : LaneT) (f : BitVec 2 → Nat → Nat × FlagSet) (s : State) :
    Host.Outcome State Fault Refusal :=
  issue (useW enc [] [w.toNat, a.toNat] [] []) s fun s th _ =>
    let x := s.readW s.cur th a.toNat
    let z := s.readW s.cur th w.toNat
    let m := th.readK k.toNat
    let g := fun i => f th.frm (getLane t x i)
    flagRes (s.writeW s.cur w.toNat (mapLanes t m z fun i => (g i).1)) th s.cur (laneFlags t m fun i => (g i).2)

/-- A compare (R143): bit i for each active lane that satisfies the test, every other bit zero. -/
def wcmp (enc : Nat) (d : KReg) (a b : Reg4) (k : KReg) (t : LaneT) (f : Nat → Nat → Bool × FlagSet) (s : State) :
    Host.Outcome State Fault Refusal :=
  issue (useW enc [] [a.toNat, b.toNat] [] []) s fun s th _ =>
    let x := s.readW s.cur th a.toNat
    let y := s.readW s.cur th b.toNat
    let m := th.readK k.toNat
    let g := fun i => f (getLane t x i) (getLane t y i)
    let bits := packLanes 1 ((List.range (laneCount t)).map fun i => (laneOn t m i && (g i).1).toNat)
    flagRes (s.writeK s.cur d.toNat (BitVec.ofNat 64 bits)) th s.cur (laneFlags t m fun i => (g i).2)

/-- A mask operation (R143). -/
def kop (enc : Nat) (d a b : KReg) (f : Dword → Dword → Dword) (s : State) : Host.Outcome State Fault Refusal :=
  issue (useW enc [] [] [] []) s fun s th _ => .done (s.writeK s.cur d.toNat (f (th.readK a.toNat) (th.readK b.toNat)))

/-- A lane extended to a register (R144): by sign for i types, with zeros for others. -/
def extendLane (t : LaneT) (x : Nat) : Dword := BitVec.ofInt 64 (laneInt t.width t.signed x)

/-- The active lanes of a wide register, in ascending order (R145). -/
def activeLanes (t : LaneT) (m : Dword) (x : Wide) : List Nat :=
  ((List.range (laneCount t)).filter fun i => laneOn t m i).map fun i => getLane t x i

/-- One level of the pairwise tree (R104): elements 2j and 2j + 1 combine, an odd last one passes up. -/
def treeLevel (f : Nat → Nat → Nat × FlagSet) : List Nat → List Nat × FlagSet
  | a :: b :: t =>
    let (r, g) := f a b
    let (l, h) := treeLevel f t
    (r :: l, g ||| h)
  | l => (l, 0)

/-- The pairwise tree (R104), level by level. -/
def treeFold (f : Nat → Nat → Nat × FlagSet) : Nat → List Nat → Nat × FlagSet
  | n + 1, a :: b :: t =>
    let (l, g) := treeLevel f (a :: b :: t)
    let (r, h) := treeFold f n l
    (r, g ||| h)
  | _, a :: _ => (a, 0)
  | _, [] => (0, 0)

/-- An integer reduction (R145). -/
def wred (enc : Nat) (d a : Reg4) (k : KReg) (t : LaneT) (f : List Int → Int) (s : State) :
    Host.Outcome State Fault Refusal :=
  issue (useW enc [d.toNat] [a.toNat] [] [d.toNat]) s fun s th _ =>
    let l := (activeLanes t (th.readK k.toNat) (s.readW s.cur th a.toNat)).map fun x => laneInt t.width t.signed x
    .done (s.writeG s.cur d.toNat (BitVec.ofInt 64 (f l)))

/-- A lane widened exactly to FP32 (R145, R94); a NaN becomes the default NaN (R93, R140). -/
def widen32 (t : LaneT) (x : Nat) : Nat × FlagSet := fmt32.pack 0 (t.value x)

/-- A floating-point reduction (R145): the tree over the widened lanes; `none'` is the result for no lane. -/
def wfred (enc : Nat) (d a : Reg4) (k : KReg) (t : LaneT) (none' : Nat) (f : BitVec 2 → Nat → Nat → Nat × FlagSet) (s : State) :
    Host.Outcome State Fault Refusal :=
  issue (useW enc [d.toNat] [a.toNat] [] [d.toNat]) s fun s th _ =>
    let l := (activeLanes t (th.readK k.toNat) (s.readW s.cur th a.toNat)).map (widen32 t)
    let r := if l.isEmpty then (none', 0) else treeFold (f th.frm) 8 (l.map (·.1))
    flagRes (s.writeG s.cur d.toNat (BitVec.ofNat 64 r.1)) th s.cur (l.foldl (fun g p => g ||| p.2) r.2)

/-- The wide partner of a narrow type (R146). -/
def partner : LaneT → LaneT
  | .i4 => .i8
  | .z4 => .z8
  | .i8 => .i16
  | .z8 => .z16
  | .i16 => .i32
  | .z16 => .z32
  | .i32 => .i64
  | .z32 => .z64
  | _ => .f32

/-- `WADD` (R141). -/
def execWadd (w a b : Reg4) (k : KReg) (t : LaneT) (s : State) : Host.Outcome State Fault Refusal :=
  wint (enc (.wadd w a b k t)) w a b k t (fun x y => x + y) s

/-- `WSUB` (R141). -/
def execWsub (w a b : Reg4) (k : KReg) (t : LaneT) (s : State) : Host.Outcome State Fault Refusal :=
  wint (enc (.wsub w a b k t)) w a b k t (fun x y => x - y) s

/-- `WMUL` (R141). -/
def execWmul (w a b : Reg4) (k : KReg) (t : LaneT) (s : State) : Host.Outcome State Fault Refusal :=
  wint (enc (.wmul w a b k t)) w a b k t (fun x y => x * y) s

/-- `WMULH` (R141). -/
def execWmulh (w a b : Reg4) (k : KReg) (t : LaneT) (s : State) : Host.Outcome State Fault Refusal :=
  wint (enc (.wmulh w a b k t)) w a b k t (fun x y => x * y / 2 ^ t.width) s

/-- `WMIN` (R141). -/
def execWmin (w a b : Reg4) (k : KReg) (t : LaneT) (s : State) : Host.Outcome State Fault Refusal :=
  wint (enc (.wmin w a b k t)) w a b k t (fun x y => min x y) s

/-- `WMAX` (R141). -/
def execWmax (w a b : Reg4) (k : KReg) (t : LaneT) (s : State) : Host.Outcome State Fault Refusal :=
  wint (enc (.wmax w a b k t)) w a b k t (fun x y => max x y) s

/-- `WAVG` (R141). -/
def execWavg (w a b : Reg4) (k : KReg) (t : LaneT) (s : State) : Host.Outcome State Fault Refusal :=
  wint (enc (.wavg w a b k t)) w a b k t (fun x y => (x + y + 1) / 2) s

/-- `WABS` (R141). -/
def execWabs (w a : Reg4) (k : KReg) (t : LaneT) (s : State) : Host.Outcome State Fault Refusal :=
  wflag1 (enc (.wabs w a k t)) w a k t (fun _ x => (intLane t (laneInt t.width t.signed x).natAbs, 0)) s

/-- `WSLL` (R141). -/
def execWsll (w a b : Reg4) (k : KReg) (t : LaneT) (s : State) : Host.Outcome State Fault Refusal :=
  wop (enc (.wsll w a b k t)) w a b k t (fun x y i => if t.width ≤ getLane t y i then 0 else getLane t x i * 2 ^ getLane t y i) s

/-- `WSRL` (R141). -/
def execWsrl (w a b : Reg4) (k : KReg) (t : LaneT) (s : State) : Host.Outcome State Fault Refusal :=
  wop (enc (.wsrl w a b k t)) w a b k t (fun x y i => if t.width ≤ getLane t y i then 0 else getLane t x i / 2 ^ getLane t y i) s

/-- `WSRA` (R141). -/
def execWsra (w a b : Reg4) (k : KReg) (t : LaneT) (s : State) : Host.Outcome State Fault Refusal :=
  wop (enc (.wsra w a b k t)) w a b k t (fun x y i => intLane t (laneInt t.width true (getLane t x i) / 2 ^ Nat.min (getLane t y i) t.width)) s

/-- `WAND` (R141). -/
def execWand (w a b : Reg4) (k : KReg) (t : LaneT) (s : State) : Host.Outcome State Fault Refusal :=
  wop (enc (.wand w a b k t)) w a b k t (fun x y i => getLane t x i &&& getLane t y i) s

/-- `WOR` (R141). -/
def execWor (w a b : Reg4) (k : KReg) (t : LaneT) (s : State) : Host.Outcome State Fault Refusal :=
  wop (enc (.wor w a b k t)) w a b k t (fun x y i => getLane t x i ||| getLane t y i) s

/-- `WXOR` (R141). -/
def execWxor (w a b : Reg4) (k : KReg) (t : LaneT) (s : State) : Host.Outcome State Fault Refusal :=
  wop (enc (.wxor w a b k t)) w a b k t (fun x y i => getLane t x i ^^^ getLane t y i) s

/-- `WANDN` (R141). -/
def execWandn (w a b : Reg4) (k : KReg) (t : LaneT) (s : State) : Host.Outcome State Fault Refusal :=
  wop (enc (.wandn w a b k t)) w a b k t (fun x y i => getLane t x i &&& (2 ^ t.width - 1 - getLane t y i)) s

/-- `WADDS` (R141). -/
def execWadds (w a b : Reg4) (k : KReg) (t : LaneT) (s : State) : Host.Outcome State Fault Refusal :=
  wflag (enc (.wadds w a b k t)) w a b k t
    (fun _ x y _ => clampInt t.width t.signed (laneInt t.width t.signed x + laneInt t.width t.signed y)) s

/-- `WFADD` (R142). -/
def execWfadd (w a b : Reg4) (k : KReg) (t : LaneT) (s : State) : Host.Outcome State Fault Refusal :=
  wflag (enc (.wfadd w a b k t)) w a b k t (fun rm x y _ => t.fmt.add rm x y) s

/-- `WFSUB` (R142). -/
def execWfsub (w a b : Reg4) (k : KReg) (t : LaneT) (s : State) : Host.Outcome State Fault Refusal :=
  wflag (enc (.wfsub w a b k t)) w a b k t (fun rm x y _ => t.fmt.sub rm x y) s

/-- `WFMUL` (R142). -/
def execWfmul (w a b : Reg4) (k : KReg) (t : LaneT) (s : State) : Host.Outcome State Fault Refusal :=
  wflag (enc (.wfmul w a b k t)) w a b k t (fun rm x y _ => t.fmt.mul rm x y) s

/-- `WFMA` (R142). -/
def execWfma (w a b : Reg4) (k : KReg) (t : LaneT) (s : State) : Host.Outcome State Fault Refusal :=
  wflag (enc (.wfma w a b k t)) w a b k t (fun rm x y z => t.fmt.fma rm false false x y z) s

/-- `WFMIN` (R142). -/
def execWfmin (w a b : Reg4) (k : KReg) (t : LaneT) (s : State) : Host.Outcome State Fault Refusal :=
  wflag (enc (.wfmin w a b k t)) w a b k t (fun _ x y _ => t.fmt.minMax false x y) s

/-- `WFMAX` (R142). -/
def execWfmax (w a b : Reg4) (k : KReg) (t : LaneT) (s : State) : Host.Outcome State Fault Refusal :=
  wflag (enc (.wfmax w a b k t)) w a b k t (fun _ x y _ => t.fmt.minMax true x y) s

/-- `WFABS` (R142). -/
def execWfabs (w a : Reg4) (k : KReg) (t : LaneT) (s : State) : Host.Outcome State Fault Refusal :=
  wflag1 (enc (.wfabs w a k t)) w a k t (fun _ x => t.fmt.withSign x false) s

/-- `WFNEG` (R142). -/
def execWfneg (w a : Reg4) (k : KReg) (t : LaneT) (s : State) : Host.Outcome State Fault Refusal :=
  wflag1 (enc (.wfneg w a k t)) w a k t (fun _ x => t.fmt.withSign x (x / t.fmt.signW % 2 == 0)) s

/-- `WCMPEQ` (R143). -/
def execWcmpeq (d : KReg) (a b : Reg4) (k : KReg) (t : LaneT) (s : State) : Host.Outcome State Fault Refusal :=
  wcmp (enc (.wcmpeq d a b k t)) d a b k t (fun x y => (laneInt t.width t.signed x == laneInt t.width t.signed y, 0)) s

/-- `WCMPLT` (R143). -/
def execWcmplt (d : KReg) (a b : Reg4) (k : KReg) (t : LaneT) (s : State) : Host.Outcome State Fault Refusal :=
  wcmp (enc (.wcmplt d a b k t)) d a b k t (fun x y => (decide (laneInt t.width t.signed x < laneInt t.width t.signed y), 0)) s

/-- `WCMPLE` (R143). -/
def execWcmple (d : KReg) (a b : Reg4) (k : KReg) (t : LaneT) (s : State) : Host.Outcome State Fault Refusal :=
  wcmp (enc (.wcmple d a b k t)) d a b k t (fun x y => (decide (laneInt t.width t.signed x ≤ laneInt t.width t.signed y), 0)) s

/-- `WFCMPEQ` (R143). -/
def execWfcmpeq (d : KReg) (a b : Reg4) (k : KReg) (t : LaneT) (s : State) : Host.Outcome State Fault Refusal :=
  wcmp (enc (.wfcmpeq d a b k t)) d a b k t (fun x y => t.fmt.eq x y) s

/-- `WFCMPLT` (R143). -/
def execWfcmplt (d : KReg) (a b : Reg4) (k : KReg) (t : LaneT) (s : State) : Host.Outcome State Fault Refusal :=
  wcmp (enc (.wfcmplt d a b k t)) d a b k t (fun x y => t.fmt.lt x y) s

/-- `WFCMPLE` (R143). -/
def execWfcmple (d : KReg) (a b : Reg4) (k : KReg) (t : LaneT) (s : State) : Host.Outcome State Fault Refusal :=
  wcmp (enc (.wfcmple d a b k t)) d a b k t (fun x y => t.fmt.le x y) s

/-- `KAND` (R143). -/
def execKand (d a b : KReg) (s : State) : Host.Outcome State Fault Refusal := kop (enc (.kand d a b)) d a b (fun x y => x &&& y) s

/-- `KOR` (R143). -/
def execKor (d a b : KReg) (s : State) : Host.Outcome State Fault Refusal := kop (enc (.kor d a b)) d a b (fun x y => x ||| y) s

/-- `KXOR` (R143). -/
def execKxor (d a b : KReg) (s : State) : Host.Outcome State Fault Refusal := kop (enc (.kxor d a b)) d a b (fun x y => x ^^^ y) s

/-- `KNOT` (R143). -/
def execKnot (d a : KReg) (s : State) : Host.Outcome State Fault Refusal := kop (enc (.knot d a)) d a a (fun x _ => ~~~ x) s

/-- `KPOP` (R143). -/
def execKpop (d : Reg4) (a : KReg) (s : State) : Host.Outcome State Fault Refusal :=
  issue (useW (enc (.kpop d a)) [d.toNat] [] [] [d.toNat]) s fun s th _ =>
    .done (s.writeG s.cur d.toNat (BitVec.ofNat 64 ((List.range 64).filter fun i => (th.readK a.toNat).getLsbD i).length))

/-- `WBCAST` (R144). -/
def execWbcast (w a : Reg4) (k : KReg) (t : LaneT) (s : State) : Host.Outcome State Fault Refusal :=
  issue (useW (enc (.wbcast w a k t)) [a.toNat] [w.toNat] [a.toNat] []) s fun s th rd =>
    let v := getLane t ((rd a.toNat).zeroExtend 512) 0
    .done (s.writeW s.cur w.toNat (mapLanes t (th.readK k.toNat) (s.readW s.cur th w.toNat) fun _ => v))

/-- `WINS` (R144). -/
def execWins (w a b : Reg4) (t : LaneT) (s : State) : Host.Outcome State Fault Refusal :=
  issue (useW (enc (.wins w a b t)) [a.toNat, b.toNat] [w.toNat] [a.toNat, b.toNat] []) s fun s th rd =>
    let j := (rd a.toNat).toNat % laneCount t
    let v := getLane t ((rd b.toNat).zeroExtend 512) 0
    let z := s.readW s.cur th w.toNat
    .done (s.writeW s.cur w.toNat (mapLanes t (BitVec.allOnes 64) z fun i => if i = j then v else rawLane t z i))

/-- `WEXT` (R144). -/
def execWext (d a b : Reg4) (t : LaneT) (s : State) : Host.Outcome State Fault Refusal :=
  issue (useW (enc (.wext d a b t)) [d.toNat, b.toNat] [a.toNat] [b.toNat] [d.toNat]) s fun s th rd =>
    .done (s.writeG s.cur d.toNat
      (extendLane t (getLane t (s.readW s.cur th a.toNat) ((rd b.toNat).toNat % laneCount t))))

/-- `WSHUF` (R144). -/
def execWshuf (w a b : Reg4) (k : KReg) (t : LaneT) (s : State) : Host.Outcome State Fault Refusal :=
  wop (enc (.wshuf w a b k t)) w a b k t (fun x y i => getLane t x (rawLane t y i % laneCount t)) s

/-- `WROT` (R144). -/
def execWrot (w a b : Reg4) (k : KReg) (t : LaneT) (s : State) : Host.Outcome State Fault Refusal :=
  issue (useW (enc (.wrot w a b k t)) [b.toNat] [w.toNat, a.toNat] [b.toNat] []) s fun s th rd =>
    let n := laneCount t
    let x := s.readW s.cur th a.toNat
    .done (s.writeW s.cur w.toNat (mapLanes t (th.readK k.toNat) (s.readW s.cur th w.toNat) fun i =>
      getLane t x ((i + (rd b.toNat).toNat % n) % n)))

/-- `WZIP` (R144). -/
def execWzip (w a b : Reg4) (k : KReg) (t : LaneT) (s : State) : Host.Outcome State Fault Refusal :=
  wop (enc (.wzip w a b k t)) w a b k t (fun x y i => getLane t (if i % 2 = 0 then x else y) (i / 2)) s

/-- `WUNZIP` (R144). -/
def execWunzip (w a : Reg4) (k : KReg) (t : LaneT) (s : State) : Host.Outcome State Fault Refusal :=
  wop (enc (.wunzip w a k t)) w a a k t (fun x _ i =>
    getLane t x (if i < laneCount t / 2 then 2 * i else 2 * (i - laneCount t / 2) + 1)) s

/-- `WSEL` (R144): the mask selects, and every lane is written. -/
def execWsel (w a b : Reg4) (k : KReg) (t : LaneT) (s : State) : Host.Outcome State Fault Refusal :=
  issue (useW (enc (.wsel w a b k t)) [] [w.toNat, a.toNat, b.toNat] [] []) s fun s th _ =>
    let x := s.readW s.cur th a.toNat
    let y := s.readW s.cur th b.toNat
    .done (s.writeW s.cur w.toNat (mapLanes t (BitVec.allOnes 64) 0 fun i =>
      getLane t (if laneOn t (th.readK k.toNat) i then x else y) i))

/-- The largest integer of a lane type. -/
def laneMax (t : LaneT) : Int := if t.signed then 2 ^ (t.width - 1) - 1 else 2 ^ t.width - 1
/-- The smallest integer of a lane type. -/
def laneMin (t : LaneT) : Int := if t.signed then -(2 ^ (t.width - 1)) else 0

/-- `WRSUM` (R145). -/
def execWrsum (d a : Reg4) (k : KReg) (t : LaneT) (s : State) : Host.Outcome State Fault Refusal :=
  wred (enc (.wrsum d a k t)) d a k t (fun l => l.foldl (· + ·) 0) s

/-- `WRMIN` (R145). -/
def execWrmin (d a : Reg4) (k : KReg) (t : LaneT) (s : State) : Host.Outcome State Fault Refusal :=
  wred (enc (.wrmin d a k t)) d a k t (fun l => l.foldl min (laneMax t)) s

/-- `WRMAX` (R145). -/
def execWrmax (d a : Reg4) (k : KReg) (t : LaneT) (s : State) : Host.Outcome State Fault Refusal :=
  wred (enc (.wrmax d a k t)) d a k t (fun l => l.foldl max (laneMin t)) s

/-- `WRFSUM` (R145). -/
def execWrfsum (d a : Reg4) (k : KReg) (t : LaneT) (s : State) : Host.Outcome State Fault Refusal :=
  wfred (enc (.wrfsum d a k t)) d a k t 0 fmt32.add s

/-- `WRFMIN` (R145). -/
def execWrfmin (d a : Reg4) (k : KReg) (t : LaneT) (s : State) : Host.Outcome State Fault Refusal :=
  wfred (enc (.wrfmin d a k t)) d a k t fmt32.inf (fun _ => fmt32.minMax false) s

/-- `WRFMAX` (R145). -/
def execWrfmax (d a : Reg4) (k : KReg) (t : LaneT) (s : State) : Host.Outcome State Fault Refusal :=
  wfred (enc (.wrfmax d a k t)) d a k t (fmt32.signed true fmt32.inf) (fun _ => fmt32.minMax true) s

/-- `WCVT` (R146): t is the destination type and st the source type. -/
def execWcvt (w a : Reg4) (st : LaneT) (k : KReg) (t : LaneT) (s : State) : Host.Outcome State Fault Refusal :=
  issue (useW (enc (.wcvt w a st k t)) [] [w.toNat, a.toNat] [] []) s fun s th _ =>
    let x := s.readW s.cur th a.toNat
    let m := th.readK k.toNat
    let g := fun i => (s.core s.cur.core).convert th.fmtWord th.frm t st (getLane st x i)
    flagRes (s.writeW s.cur w.toNat (mapLanes t m (s.readW s.cur th w.toNat) fun i => (g i).1)) th s.cur
      (laneFlags t m fun i => (g i).2)

/-- `WNARROW` (R146): the low half of the lanes from wA, the high half from wB. -/
def execWnarrow (w a b : Reg4) (k : KReg) (t : LaneT) (s : State) : Host.Outcome State Fault Refusal :=
  issue (useW (enc (.wnarrow w a b k t)) [] [w.toNat, a.toNat, b.toNat] [] []) s fun s th _ =>
    let n := laneCount (partner t)
    let x := s.readW s.cur th a.toNat
    let y := s.readW s.cur th b.toNat
    let m := th.readK k.toNat
    let g := fun i => (s.core s.cur.core).convert th.fmtWord th.frm t (partner t)
      (if i < n then getLane (partner t) x i else getLane (partner t) y (i - n))
    flagRes (s.writeW s.cur w.toNat (mapLanes t m (s.readW s.cur th w.toNat) fun i => (g i).1)) th s.cur
      (laneFlags t m fun i => (g i).2)

/-- `WWIDEN` (R146): t is the narrow type; h picks the half. -/
def execWwiden (w a : Reg4) (h : BitVec 4) (k : KReg) (t : LaneT) (s : State) : Host.Outcome State Fault Refusal :=
  issue (useW (enc (.wwiden w a h k t)) [] [w.toNat, a.toNat] [] []) s fun s th _ =>
    let p := partner t
    let x := s.readW s.cur th a.toNat
    let m := th.readK k.toNat
    let g := fun i => (s.core s.cur.core).convert th.fmtWord th.frm p t (getLane t x (h.toNat * laneCount p + i))
    flagRes (s.writeW s.cur w.toNat (mapLanes p m (s.readW s.cur th w.toNat) fun i => (g i).1)) th s.cur
      (laneFlags p m fun i => (g i).2)

/-- `WENC` (R146, R147): lanes encoded into the low bytes, the other bytes zero. -/
def execWenc (w a : Reg4) (t : LaneT) (s : State) : Host.Outcome State Fault Refusal :=
  issue (useW (enc (.wenc w a t)) [] [w.toNat, a.toNat] [] []) s fun s th _ =>
    if fmtBad th.fmtWord th.fmtRest then .trap cReservedField (th.fmtWord.zeroExtend 64)
    else
      let x := s.readW s.cur th a.toNat
      let l := (List.range (laneCount t)).map fun i =>
        (s.core s.cur.core).encodeC8 (otab th.fmtWord) (t.value (getLane t x i))
      flagRes (s.writeW s.cur w.toNat (BitVec.ofNat 512 (packLanes 8 (l.map (·.1))))) th s.cur
        (l.foldl (fun g p => g ||| p.2) 0)

/-- `WDEC` (R146, R147): lanes decoded from byte group g, rounded to T. -/
def execWdec (w a : Reg4) (g : BitVec 4) (t : LaneT) (s : State) : Host.Outcome State Fault Refusal :=
  issue (useW (enc (.wdec w a g t)) [] [w.toNat, a.toNat] [] []) s fun s th _ =>
    if fmtBad th.fmtWord th.fmtRest then .trap cReservedField (th.fmtWord.zeroExtend 64)
    else
      let x := s.readW s.cur th a.toNat
      let l := (List.range (laneCount t)).map fun i =>
        t.fmt.pack th.frm ((s.core s.cur.core).decodeC8 (atab th.fmtWord)
          (getLane .z8 x (g.toNat * laneCount t + i)))
      flagRes (s.writeW s.cur w.toNat (BitVec.ofNat 512 (packLanes t.width (l.map (·.1))))) th s.cur
        (l.foldl (fun g p => g ||| p.2) 0)

end Sys2Proof.Machine
end

