-- ==== Sys2Proof/Machine/Dispatch.lean ====
section
/-!
DEFINITION. The dispatch: one arm for each constructor of `Instr`, each one direct call of its meaning.
-/
namespace Sys2Proof.Machine

/-- Runs one instruction, or one step of the machine. -/
def exec (i : Instr) (s : State) : Host.Outcome State Fault Refusal :=
  match i with
  | .add d a b => Sys2Proof.Machine.execAdd d a b s
  | .sub d a b => Sys2Proof.Machine.execSub d a b s
  | .and d a b => Sys2Proof.Machine.execAnd d a b s
  | .or d a b => Sys2Proof.Machine.execOr d a b s
  | .xor d a b => Sys2Proof.Machine.execXor d a b s
  | .andn d a b => Sys2Proof.Machine.execAndn d a b s
  | .orn d a b => Sys2Proof.Machine.execOrn d a b s
  | .xnor d a b => Sys2Proof.Machine.execXnor d a b s
  | .sll d a b => Sys2Proof.Machine.execSll d a b s
  | .srl d a b => Sys2Proof.Machine.execSrl d a b s
  | .sra d a b => Sys2Proof.Machine.execSra d a b s
  | .rol d a b => Sys2Proof.Machine.execRol d a b s
  | .ror d a b => Sys2Proof.Machine.execRor d a b s
  | .seq d a b => Sys2Proof.Machine.execSeq d a b s
  | .slt d a b => Sys2Proof.Machine.execSlt d a b s
  | .sltZ d a b => Sys2Proof.Machine.execSltZ d a b s
  | .min d a b => Sys2Proof.Machine.execMin d a b s
  | .max d a b => Sys2Proof.Machine.execMax d a b s
  | .minZ d a b => Sys2Proof.Machine.execMinZ d a b s
  | .maxZ d a b => Sys2Proof.Machine.execMaxZ d a b s
  | .mul d a b => Sys2Proof.Machine.execMul d a b s
  | .mulh d a b => Sys2Proof.Machine.execMulh d a b s
  | .mulhZ d a b => Sys2Proof.Machine.execMulhZ d a b s
  | .div d a b => Sys2Proof.Machine.execDiv d a b s
  | .divZ d a b => Sys2Proof.Machine.execDivZ d a b s
  | .rem d a b => Sys2Proof.Machine.execRem d a b s
  | .remZ d a b => Sys2Proof.Machine.execRemZ d a b s
  | .clz d a => Sys2Proof.Machine.execClz d a s
  | .ctz d a => Sys2Proof.Machine.execCtz d a s
  | .popc d a => Sys2Proof.Machine.execPopc d a s
  | .bswap d a => Sys2Proof.Machine.execBswap d a s
  | .csel d a b => Sys2Proof.Machine.execCsel d a b s
  | .addi d a imm => Sys2Proof.Machine.execAddi d a imm s
  | .andi d a imm => Sys2Proof.Machine.execAndi d a imm s
  | .ori d a imm => Sys2Proof.Machine.execOri d a imm s
  | .xori d a imm => Sys2Proof.Machine.execXori d a imm s
  | .slli d a x2 => Sys2Proof.Machine.execSlli d a x2 s
  | .srli d a x2 => Sys2Proof.Machine.execSrli d a x2 s
  | .srai d a x2 => Sys2Proof.Machine.execSrai d a x2 s
  | .roli d a x2 => Sys2Proof.Machine.execRoli d a x2 s
  | .slti d a imm => Sys2Proof.Machine.execSlti d a imm s
  | .sltiZ d a imm => Sys2Proof.Machine.execSltiZ d a imm s
  | .lui d imm => Sys2Proof.Machine.execLui d imm s
  | .lhi d imm => Sys2Proof.Machine.execLhi d imm s
  | .addpc d imm => Sys2Proof.Machine.execAddpc d imm s
  | .jal d imm => Sys2Proof.Machine.execJal d imm s
  | .jalr d a imm => Sys2Proof.Machine.execJalr d a imm s
  | .beq a b x => Sys2Proof.Machine.execBeq a b x s
  | .bne a b x => Sys2Proof.Machine.execBne a b x s
  | .blt a b x => Sys2Proof.Machine.execBlt a b x s
  | .bge a b x => Sys2Proof.Machine.execBge a b x s
  | .bltZ a b x => Sys2Proof.Machine.execBltZ a b x s
  | .bgeZ a b x => Sys2Proof.Machine.execBgeZ a b x s
  | .ldB d n imm => Sys2Proof.Machine.execLdB d n imm s
  | .ldH d n imm => Sys2Proof.Machine.execLdH d n imm s
  | .ldW d n imm => Sys2Proof.Machine.execLdW d n imm s
  | .ldD d n imm => Sys2Proof.Machine.execLdD d n imm s
  | .ldBZ d n imm => Sys2Proof.Machine.execLdBZ d n imm s
  | .ldHZ d n imm => Sys2Proof.Machine.execLdHZ d n imm s
  | .ldWZ d n imm => Sys2Proof.Machine.execLdWZ d n imm s
  | .stB d n imm => Sys2Proof.Machine.execStB d n imm s
  | .stH d n imm => Sys2Proof.Machine.execStH d n imm s
  | .stW d n imm => Sys2Proof.Machine.execStW d n imm s
  | .stD d n imm => Sys2Proof.Machine.execStD d n imm s
  | .ldp d n p => Sys2Proof.Machine.execLdp d n p s
  | .stp d n p => Sys2Proof.Machine.execStp d n p s
  | .ldC d n m => Sys2Proof.Machine.execLdC d n m s
  | .ldSync d n => Sys2Proof.Machine.execLdSync d n s
  | .ldTake d n => Sys2Proof.Machine.execLdTake d n s
  | .stFill d n => Sys2Proof.Machine.execStFill d n s
  | .stWfill d n => Sys2Proof.Machine.execStWfill d n s
  | .feClr n => Sys2Proof.Machine.execFeClr n s
  | .feSet n => Sys2Proof.Machine.execFeSet n s
  | .lrw d a => Sys2Proof.Machine.execLrw d a s
  | .scq d a b => Sys2Proof.Machine.execScq d a b s
  | .rsvDrop a => Sys2Proof.Machine.execRsvDrop a s
  | .amoAdd d a b => Sys2Proof.Machine.execAmoAdd d a b s
  | .amoAnd d a b => Sys2Proof.Machine.execAmoAnd d a b s
  | .amoOr d a b => Sys2Proof.Machine.execAmoOr d a b s
  | .amoXor d a b => Sys2Proof.Machine.execAmoXor d a b s
  | .amoMin d a b => Sys2Proof.Machine.execAmoMin d a b s
  | .amoMax d a b => Sys2Proof.Machine.execAmoMax d a b s
  | .amoMinZ d a b => Sys2Proof.Machine.execAmoMinZ d a b s
  | .amoMaxZ d a b => Sys2Proof.Machine.execAmoMaxZ d a b s
  | .amoSwp d a b => Sys2Proof.Machine.execAmoSwp d a b s
  | .amoCas d a b => Sys2Proof.Machine.execAmoCas d a b s
  | .amoFadd d a b => Sys2Proof.Machine.execAmoFadd d a b s
  | .detOpen a b => Sys2Proof.Machine.execDetOpen a b s
  | .detDone a => Sys2Proof.Machine.execDetDone a s
  | .fence c => Sys2Proof.Machine.execFence c s
  | .acq c => Sys2Proof.Machine.execAcq c s
  | .rel c => Sys2Proof.Machine.execRel c s
  | .fenceC c => Sys2Proof.Machine.execFenceC c s
  | .lockL d a => Sys2Proof.Machine.execLockL d a s
  | .unlockL a => Sys2Proof.Machine.execUnlockL a s
  | .bind d a b => Sys2Proof.Machine.execBind d a b s
  | .unbind a => Sys2Proof.Machine.execUnbind a s
  | .agSet d a => Sys2Proof.Machine.execAgSet d a s
  | .agGet d a b => Sys2Proof.Machine.execAgGet d a b s
  | .fadd d a b => Sys2Proof.Machine.execFadd d a b s
  | .fsub d a b => Sys2Proof.Machine.execFsub d a b s
  | .fmul d a b => Sys2Proof.Machine.execFmul d a b s
  | .fdiv d a b => Sys2Proof.Machine.execFdiv d a b s
  | .fsqrt d a => Sys2Proof.Machine.execFsqrt d a s
  | .fmin d a b => Sys2Proof.Machine.execFmin d a b s
  | .fmax d a b => Sys2Proof.Machine.execFmax d a b s
  | .feq d a b => Sys2Proof.Machine.execFeq d a b s
  | .flt d a b => Sys2Proof.Machine.execFlt d a b s
  | .fle d a b => Sys2Proof.Machine.execFle d a b s
  | .fclass d a => Sys2Proof.Machine.execFclass d a s
  | .fabs d a => Sys2Proof.Machine.execFabs d a s
  | .fneg d a => Sys2Proof.Machine.execFneg d a s
  | .fsgnj d a b => Sys2Proof.Machine.execFsgnj d a b s
  | .fmadd d a b => Sys2Proof.Machine.execFmadd d a b s
  | .fmsub d a b => Sys2Proof.Machine.execFmsub d a b s
  | .fnmadd d a b => Sys2Proof.Machine.execFnmadd d a b s
  | .fnmsub d a b => Sys2Proof.Machine.execFnmsub d a b s
  | .cvt d a rm dt st => Sys2Proof.Machine.execCvt d a rm dt st s
  | .exp2 d a => Sys2Proof.Machine.execExp2 d a s
  | .log2 d a => Sys2Proof.Machine.execLog2 d a s
  | .rcp d a => Sys2Proof.Machine.execRcp d a s
  | .rsqrt d a => Sys2Proof.Machine.execRsqrt d a s
  | .sin d a => Sys2Proof.Machine.execSin d a s
  | .cos d a => Sys2Proof.Machine.execCos d a s
  | .sint d a => Sys2Proof.Machine.execSint d a s
  | .cost d a => Sys2Proof.Machine.execCost d a s
  | .tanh d a => Sys2Proof.Machine.execTanh d a s
  | .sigm d a => Sys2Proof.Machine.execSigm d a s
  | .erf d a => Sys2Proof.Machine.execErf d a s
  | .wadd w a b k t => Sys2Proof.Machine.execWadd w a b k t s
  | .wsub w a b k t => Sys2Proof.Machine.execWsub w a b k t s
  | .wmul w a b k t => Sys2Proof.Machine.execWmul w a b k t s
  | .wmulh w a b k t => Sys2Proof.Machine.execWmulh w a b k t s
  | .wmin w a b k t => Sys2Proof.Machine.execWmin w a b k t s
  | .wmax w a b k t => Sys2Proof.Machine.execWmax w a b k t s
  | .wabs w a k t => Sys2Proof.Machine.execWabs w a k t s
  | .wavg w a b k t => Sys2Proof.Machine.execWavg w a b k t s
  | .wsll w a b k t => Sys2Proof.Machine.execWsll w a b k t s
  | .wsrl w a b k t => Sys2Proof.Machine.execWsrl w a b k t s
  | .wsra w a b k t => Sys2Proof.Machine.execWsra w a b k t s
  | .wand w a b k t => Sys2Proof.Machine.execWand w a b k t s
  | .wor w a b k t => Sys2Proof.Machine.execWor w a b k t s
  | .wxor w a b k t => Sys2Proof.Machine.execWxor w a b k t s
  | .wandn w a b k t => Sys2Proof.Machine.execWandn w a b k t s
  | .wadds w a b k t => Sys2Proof.Machine.execWadds w a b k t s
  | .wfadd w a b k t => Sys2Proof.Machine.execWfadd w a b k t s
  | .wfsub w a b k t => Sys2Proof.Machine.execWfsub w a b k t s
  | .wfmul w a b k t => Sys2Proof.Machine.execWfmul w a b k t s
  | .wfma w a b k t => Sys2Proof.Machine.execWfma w a b k t s
  | .wfmin w a b k t => Sys2Proof.Machine.execWfmin w a b k t s
  | .wfmax w a b k t => Sys2Proof.Machine.execWfmax w a b k t s
  | .wfabs w a k t => Sys2Proof.Machine.execWfabs w a k t s
  | .wfneg w a k t => Sys2Proof.Machine.execWfneg w a k t s
  | .wcmpeq d a b k t => Sys2Proof.Machine.execWcmpeq d a b k t s
  | .wcmplt d a b k t => Sys2Proof.Machine.execWcmplt d a b k t s
  | .wcmple d a b k t => Sys2Proof.Machine.execWcmple d a b k t s
  | .wfcmpeq d a b k t => Sys2Proof.Machine.execWfcmpeq d a b k t s
  | .wfcmplt d a b k t => Sys2Proof.Machine.execWfcmplt d a b k t s
  | .wfcmple d a b k t => Sys2Proof.Machine.execWfcmple d a b k t s
  | .kand d a b => Sys2Proof.Machine.execKand d a b s
  | .kor d a b => Sys2Proof.Machine.execKor d a b s
  | .kxor d a b => Sys2Proof.Machine.execKxor d a b s
  | .knot d a => Sys2Proof.Machine.execKnot d a s
  | .kpop d a => Sys2Proof.Machine.execKpop d a s
  | .wbcast w a k t => Sys2Proof.Machine.execWbcast w a k t s
  | .wins w a b t => Sys2Proof.Machine.execWins w a b t s
  | .wext d a b t => Sys2Proof.Machine.execWext d a b t s
  | .wshuf w a b k t => Sys2Proof.Machine.execWshuf w a b k t s
  | .wrot w a b k t => Sys2Proof.Machine.execWrot w a b k t s
  | .wzip w a b k t => Sys2Proof.Machine.execWzip w a b k t s
  | .wunzip w a k t => Sys2Proof.Machine.execWunzip w a k t s
  | .wsel w a b k t => Sys2Proof.Machine.execWsel w a b k t s
  | .wrsum d a k t => Sys2Proof.Machine.execWrsum d a k t s
  | .wrmin d a k t => Sys2Proof.Machine.execWrmin d a k t s
  | .wrmax d a k t => Sys2Proof.Machine.execWrmax d a k t s
  | .wrfsum d a k t => Sys2Proof.Machine.execWrfsum d a k t s
  | .wrfmin d a k t => Sys2Proof.Machine.execWrfmin d a k t s
  | .wrfmax d a k t => Sys2Proof.Machine.execWrfmax d a k t s
  | .wcvt w a x2 k t => Sys2Proof.Machine.execWcvt w a x2 k t s
  | .wnarrow w a b k t => Sys2Proof.Machine.execWnarrow w a b k t s
  | .wwiden w a h k t => Sys2Proof.Machine.execWwiden w a h k t s
  | .wenc w a t => Sys2Proof.Machine.execWenc w a t s
  | .wdec w a g t => Sys2Proof.Machine.execWdec w a g t s
  | .wld w n imm => Sys2Proof.Machine.execWld w n imm s
  | .wst w n imm => Sys2Proof.Machine.execWst w n imm s
  | .wldSync w n imm => Sys2Proof.Machine.execWldSync w n imm s
  | .wstFill w n imm => Sys2Proof.Machine.execWstFill w n imm s
  | .gangForm a n => Sys2Proof.Machine.execGangForm a n s
  | .push w h e => Sys2Proof.Machine.execPush w h e s
  | .pushm e a imm => Sys2Proof.Machine.execPushm e a imm s
  | .engWait e d => Sys2Proof.Machine.execEngWait e d s
  | .engPoll e d => Sys2Proof.Machine.execEngPoll e d s
  | .tcfgSet a n => Sys2Proof.Machine.execTcfgSet a n s
  | .tcfgGet d n => Sys2Proof.Machine.execTcfgGet d n s
  | .accLoad a t => Sys2Proof.Machine.execAccLoad a t s
  | .msgSend a b => Sys2Proof.Machine.execMsgSend a b s
  | .msgSendw a b => Sys2Proof.Machine.execMsgSendw a b s
  | .msgBind d m n c => Sys2Proof.Machine.execMsgBind d m n c s
  | .msgWait c => Sys2Proof.Machine.execMsgWait c s
  | .taskPush a => Sys2Proof.Machine.execTaskPush a s
  | .taskSend a b => Sys2Proof.Machine.execTaskSend a b s
  | .retireS a b => Sys2Proof.Machine.execRetireS a b s
  | .tstamp d => Sys2Proof.Machine.execTstamp d s
  | .detList a b => Sys2Proof.Machine.execDetList a b s
  | .detWait a b => Sys2Proof.Machine.execDetWait a b s
  | .thrSpawn d a => Sys2Proof.Machine.execThrSpawn d a s
  | .thrWake a => Sys2Proof.Machine.execThrWake a s
  | .barInit a b => Sys2Proof.Machine.execBarInit a b s
  | .barArr a => Sys2Proof.Machine.execBarArr a s
  | .barWait a => Sys2Proof.Machine.execBarWait a s
  | .barAw a => Sys2Proof.Machine.execBarAw a s
  | .redSend a t p => Sys2Proof.Machine.execRedSend a t p s
  | .redRecv w => Sys2Proof.Machine.execRedRecv w s
  | .nestSet a b => Sys2Proof.Machine.execNestSet a b s
  | .nestClaim d a => Sys2Proof.Machine.execNestClaim d a s
  | .nestNext d => Sys2Proof.Machine.execNestNext d s
  | .nestEnd a => Sys2Proof.Machine.execNestEnd a s
  | .ctxOpen d a => Sys2Proof.Machine.execCtxOpen d a s
  | .ctxClose a => Sys2Proof.Machine.execCtxClose a s
  | .editIns d a b => Sys2Proof.Machine.execEditIns d a b s
  | .editDel d a => Sys2Proof.Machine.execEditDel d a s
  | .editChg d a b => Sys2Proof.Machine.execEditChg d a b s
  | .ctxFork d a b => Sys2Proof.Machine.execCtxFork d a b s
  | .ctxRope d a b => Sys2Proof.Machine.execCtxRope d a b s
  | .dmapGet d a => Sys2Proof.Machine.execDmapGet d a s
  | .dmapMov a b => Sys2Proof.Machine.execDmapMov a b s
  | .settle a b => Sys2Proof.Machine.execSettle a b s
  | .ctxRd d a b => Sys2Proof.Machine.execCtxRd d a b s
  | .ctxRel a => Sys2Proof.Machine.execCtxRel a s
  | .beamMap a b => Sys2Proof.Machine.execBeamMap a b s
  | .ptbFill a b => Sys2Proof.Machine.execPtbFill a b s
  | .ptbInv a => Sys2Proof.Machine.execPtbInv a s
  | .posXl d a b => Sys2Proof.Machine.execPosXl d a b s
  | .mfs d sel => Sys2Proof.Machine.execMfs d sel s
  | .mts d sel => Sys2Proof.Machine.execMts d sel s
  | .trap e => Sys2Proof.Machine.execTrap e s
  | .hcall d n => Sys2Proof.Machine.execHcall d n s
  | .tlbInv d a => Sys2Proof.Machine.execTlbInv d a s
  | .tlbAll a => Sys2Proof.Machine.execTlbAll a s
  | .istInv a => Sys2Proof.Machine.execIstInv a s
  | .klog a c => Sys2Proof.Machine.execKlog a c s
  | .tsave a n => Sys2Proof.Machine.execTsave a n s
  | .trest d a => Sys2Proof.Machine.execTrest d a s
  | .gangEnd => Sys2Proof.Machine.execGangEnd s
  | .gangBar => Sys2Proof.Machine.execGangBar s
  | .retire => Sys2Proof.Machine.execRetire s
  | .taskAbort => Sys2Proof.Machine.execTaskAbort s
  | .thrExit => Sys2Proof.Machine.execThrExit s
  | .thrPark => Sys2Proof.Machine.execThrPark s
  | .hret => Sys2Proof.Machine.execHret s
  | .tret => Sys2Proof.Machine.execTret s
  | .nop => Sys2Proof.Machine.execNop s
  | .wfe => Sys2Proof.Machine.execWfe s
  | .tlbAllPart => Sys2Proof.Machine.execTlbAllPart s
  | .cMv d a => Sys2Proof.Machine.execCMv d a s
  | .cAdd d a => Sys2Proof.Machine.execCAdd d a s
  | .cSub d a => Sys2Proof.Machine.execCSub d a s
  | .cAddi d imm => Sys2Proof.Machine.execCAddi d imm s
  | .cLi d imm => Sys2Proof.Machine.execCLi d imm s
  | .cLdW d a imm => Sys2Proof.Machine.execCLdW d a imm s
  | .cLdD d a imm => Sys2Proof.Machine.execCLdD d a imm s
  | .cStW d a imm => Sys2Proof.Machine.execCStW d a imm s
  | .cStD d a imm => Sys2Proof.Machine.execCStD d a imm s
  | .cAnd d a => Sys2Proof.Machine.execCAnd d a s
  | .cSll d imm => Sys2Proof.Machine.execCSll d imm s
  | .cBeqz a o => Sys2Proof.Machine.execCBeqz a o s
  | .cBnez a o => Sys2Proof.Machine.execCBnez a o s
  | .cJ o => Sys2Proof.Machine.execCJ o s
  | .cRet a => Sys2Proof.Machine.execCRet a s
  | .cNop => Sys2Proof.Machine.execCNop s
  | .mxMma tag sf bsgn asgn rows tile lso stride k wbo bstride ascl => Sys2Proof.Machine.execMxMma tag sf bsgn asgn rows tile lso stride k wbo bstride ascl s
  | .mxLdb tag addr wbo len => Sys2Proof.Machine.execMxLdb tag addr wbo len s
  | .mxLdt tag sf type rows tile lso stride => Sys2Proof.Machine.execMxLdt tag sf type rows tile lso stride s
  | .mxStt tag sf gf cf type rows tile cmp dst stride thr => Sys2Proof.Machine.execMxStt tag sf gf cf type rows tile cmp dst stride thr s
  | .mxZero tag tiles => Sys2Proof.Machine.execMxZero tag tiles s
  | .mxQk tag sf desc => Sys2Proof.Machine.execMxQk tag sf desc s
  | .mxPv tag sf tile desc => Sys2Proof.Machine.execMxPv tag sf tile desc s
  | .vxMap tag sf v => Sys2Proof.Machine.execVxMap tag sf v s
  | .vxFma tag sf v => Sys2Proof.Machine.execVxFma tag sf v s
  | .vxRed tag sf v => Sys2Proof.Machine.execVxRed tag sf v s
  | .vxExpsum tag sf v => Sys2Proof.Machine.execVxExpsum tag sf v s
  | .vxNorm tag sf v => Sys2Proof.Machine.execVxNorm tag sf v s
  | .vxRequant tag sf v => Sys2Proof.Machine.execVxRequant tag sf v s
  | .vxCmpst tag sf n a thr cmp dst => Sys2Proof.Machine.execVxCmpst tag sf n a thr cmp dst s
  | .vxTopk tag sf v => Sys2Proof.Machine.execVxTopk tag sf v s
  | .vxKsum tag sf v => Sys2Proof.Machine.execVxKsum tag sf v s
  | .vxCvt tag sf v => Sys2Proof.Machine.execVxCvt tag sf v s
  | .cpCopy tag sf ff tf src dst len shape => Sys2Proof.Machine.execCpCopy tag sf ff tf src dst len shape s
  | .cpGather tag sf ff tf src dst idx n esz => Sys2Proof.Machine.execCpGather tag sf ff tf src dst idx n esz s
  | .cpScatter tag sf ff tf src dst idx n esz => Sys2Proof.Machine.execCpScatter tag sf ff tf src dst idx n esz s
  | .cpFill tag tf ef dst len pat => Sys2Proof.Machine.execCpFill tag tf ef dst len pat s
  | .cpPut tag sf ff dev raddr laddr len => Sys2Proof.Machine.execCpPut tag sf ff dev raddr laddr len s
  | .cpGet tag sf ff dev raddr laddr len => Sys2Proof.Machine.execCpGet tag sf ff dev raddr laddr len s
  | .cpAmo tag sf dev raddr op lso => Sys2Proof.Machine.execCpAmo tag sf dev raddr op lso s
  | .cpIst tag core src iso len => Sys2Proof.Machine.execCpIst tag core src iso len s
  | .cpFrame tag slot layer part pos cnt stamp mode dst st => Sys2Proof.Machine.execCpFrame tag slot layer part pos cnt stamp mode dst st s
  | .queueEntry core e => Sys2Proof.Machine.execQueueEntry core e s
  | .commandCompletion core e => Sys2Proof.Machine.execCommandCompletion core e s
  | .memoryReturn w r => Sys2Proof.Machine.execMemoryReturn w r s
  | .streamElementArrival core gen => Sys2Proof.Machine.execStreamElementArrival core gen s
  | .windowAccess w => Sys2Proof.Machine.execWindowAccess w s
  | .sfuResult w => Sys2Proof.Machine.execSfuResult w s
  | .sfuDiscardBlockEnd core => Sys2Proof.Machine.execSfuDiscardBlockEnd core s
  | .wcbDrainTimeout w line => Sys2Proof.Machine.execWcbDrainTimeout w line s
  | .agentAnswer w => Sys2Proof.Machine.execAgentAnswer w s
  | .hostWindowWrite part len data => Sys2Proof.Machine.execHostWindowWrite part len data s
  | .messageArrival m => Sys2Proof.Machine.execMessageArrival m s
  | .heldMessageDeposit core cls => Sys2Proof.Machine.execHeldMessageDeposit core cls s
  | .launchMessage core addr => Sys2Proof.Machine.execLaunchMessage core addr s
  | .launchRecordPlace core r => Sys2Proof.Machine.execLaunchRecordPlace core r s
  | .taskDispatch core => Sys2Proof.Machine.execTaskDispatch core s
  | .footprintFetchDone core gid => Sys2Proof.Machine.execFootprintFetchDone core gid s
  | .stealRequest core => Sys2Proof.Machine.execStealRequest core s
  | .stealBackoffEnd core => Sys2Proof.Machine.execStealBackoffEnd core s
  | .successorStart core gid => Sys2Proof.Machine.execSuccessorStart core gid s
  | .taskCommit die => Sys2Proof.Machine.execTaskCommit die s
  | .heldEffectSend core => Sys2Proof.Machine.execHeldEffectSend core s
  | .directWrite d => Sys2Proof.Machine.execDirectWrite d s
  | .reservationGrant word => Sys2Proof.Machine.execReservationGrant word s
  | .reservationRevoke word => Sys2Proof.Machine.execReservationRevoke word s
  | .roundOpenArrival r => Sys2Proof.Machine.execRoundOpenArrival r s
  | .roundUpdateArrival r => Sys2Proof.Machine.execRoundUpdateArrival r s
  | .roundDoneArrival r => Sys2Proof.Machine.execRoundDoneArrival r s
  | .roundUpdateResend r => Sys2Proof.Machine.execRoundUpdateResend r s
  | .heldUpdateApply line => Sys2Proof.Machine.execHeldUpdateApply line s
  | .barrierArrival cluster bar w => Sys2Proof.Machine.execBarrierArrival cluster bar w s
  | .barrierWaitArrival cluster bar w => Sys2Proof.Machine.execBarrierWaitArrival cluster bar w s
  | .barrierWake cluster bar phase => Sys2Proof.Machine.execBarrierWake cluster bar phase s
  | .reductionRoundComplete die => Sys2Proof.Machine.execReductionRoundComplete die s
  | .directoryRead r => Sys2Proof.Machine.execDirectoryRead r s
  | .directoryOwnership r => Sys2Proof.Machine.execDirectoryOwnership r s
  | .forwardRequest die line => Sys2Proof.Machine.execForwardRequest die line s
  | .invalidation die line => Sys2Proof.Machine.execInvalidation die line s
  | .ownershipGrant die line => Sys2Proof.Machine.execOwnershipGrant die line s
  | .writeBack die lw => Sys2Proof.Machine.execWriteBack die lw s
  | .replicationEpochEnd die => Sys2Proof.Machine.execReplicationEpochEnd die s
  | .remoteAccess a => Sys2Proof.Machine.execRemoteAccess a s
  | .hostWrite part addr bytes => Sys2Proof.Machine.execHostWrite part addr bytes s
  | .hostRead part addr len => Sys2Proof.Machine.execHostRead part addr len s
  | .instructionStoreWrite core unit data => Sys2Proof.Machine.execInstructionStoreWrite core unit data s
  | .istInvArrival core w => Sys2Proof.Machine.execIstInvArrival core w s
  | .tlbInvArrival m => Sys2Proof.Machine.execTlbInvArrival m s
  | .pageWalk die => Sys2Proof.Machine.execPageWalk die s
  | .walkReadReturn die walker => Sys2Proof.Machine.execWalkReadReturn die walker s
  | .editApply e => Sys2Proof.Machine.execEditApply e s
  | .windowAssembly p => Sys2Proof.Machine.execWindowAssembly p s
  | .recordPush p => Sys2Proof.Machine.execRecordPush p s
  | .commitNotice ctx recAddr succ => Sys2Proof.Machine.execCommitNotice ctx recAddr succ s
  | .dmapReport r => Sys2Proof.Machine.execDmapReport r s
  | .gangFormation leader => Sys2Proof.Machine.execGangFormation leader s
  | .forwardedInstructionArrival w f => Sys2Proof.Machine.execForwardedInstructionArrival w f s
  | .gangTrapNotice leader member cause => Sys2Proof.Machine.execGangTrapNotice leader member cause s
  | .deadlockWalk => Sys2Proof.Machine.execDeadlockWalk s
  | .detachedCauseStart core => Sys2Proof.Machine.execDetachedCauseStart core s
  | .hypervisorEvent e => Sys2Proof.Machine.execHypervisorEvent e s
  | .hcallReply w status result => Sys2Proof.Machine.execHcallReply w status result s
  | .hypervisorPreempt w => Sys2Proof.Machine.execHypervisorPreempt w s
  | .deviceReset => Sys2Proof.Machine.execDeviceReset s
  | .bootStartWrite p => Sys2Proof.Machine.execBootStartWrite p s
  | .stagingReleaseWrite => Sys2Proof.Machine.execStagingReleaseWrite s
  | .partitionStart p => Sys2Proof.Machine.execPartitionStart p s
  | .partitionCoreEntryWrite part core v => Sys2Proof.Machine.execPartitionCoreEntryWrite part core v s
  | .spaceEntryWrite part space v => Sys2Proof.Machine.execSpaceEntryWrite part space v s
  | .detsetWrite part idx v => Sys2Proof.Machine.execDetsetWrite part idx v s
  | .reductionEntryWrite part core v => Sys2Proof.Machine.execReductionEntryWrite part core v s
  | .registerWrite part off v => Sys2Proof.Machine.execRegisterWrite part off v s
  | .powerToleranceWrite v => Sys2Proof.Machine.execPowerToleranceWrite v s
  | .coreClockGate core => Sys2Proof.Machine.execCoreClockGate core s
  | .coreWake core => Sys2Proof.Machine.execCoreWake core s
  | .dieRetentionEntry die => Sys2Proof.Machine.execDieRetentionEntry die s
  | .dieWake die => Sys2Proof.Machine.execDieWake die s
  | .partitionPowerOff part => Sys2Proof.Machine.execPartitionPowerOff part s
  | .partitionWake part => Sys2Proof.Machine.execPartitionWake part s
  | .hbmRefresh die bank => Sys2Proof.Machine.execHbmRefresh die bank s
  | .sramEccScrub die => Sys2Proof.Machine.execSramEccScrub die s
  | .hbmPatrolScrub die => Sys2Proof.Machine.execHbmPatrolScrub die s
  | .telemetrySample die => Sys2Proof.Machine.execTelemetrySample die s
  | .uncorrectableError e => Sys2Proof.Machine.execUncorrectableError e s
  | .retryResult e ok => Sys2Proof.Machine.execRetryResult e ok s
  | .stealReply core r => Sys2Proof.Machine.execStealReply core r s
  | .hypervisorResume w act => Sys2Proof.Machine.execHypervisorResume w act s
  | .partitionEnd part => Sys2Proof.Machine.execPartitionEnd part s
  | .powerLoss => Sys2Proof.Machine.execPowerLoss s

end Sys2Proof.Machine
end

