-- ==== Sys2Proof/Machine/Issue.lean ====
section
/-!
DEFINITION. The issue of one instruction by a core (R17, R71 to R74, R78, R153): which slot issues, what it fetches, and the meaning of
the bits it fetched. The compact instructions and the commands of the engines are run from their bits here, each by the
meaning that `exec` gives it.
-/
namespace Sys2Proof.Machine

/-- A meaning behind the checks of a layout (R86 check 2). -/
def guardD (z : Bool) (m : Meaning) : Except DecErr Meaning := if z then .ok m else .error .reserved

/-- The meaning of a compact instruction: op `[14:11]` (R81). -/
def runHalf (w : Half) : Except DecErr Meaning :=
  match (w.extractLsb' 11 4).toNat with
  | 0 => guardD (w.extractLsb' 0 3 == 0#3) (execCMv (w.extractLsb' 7 4) (w.extractLsb' 3 4))
  | 1 => guardD (w.extractLsb' 0 3 == 0#3) (execCAdd (w.extractLsb' 7 4) (w.extractLsb' 3 4))
  | 2 => guardD (w.extractLsb' 0 3 == 0#3) (execCSub (w.extractLsb' 7 4) (w.extractLsb' 3 4))
  | 3 => guardD true (execCAddi (w.extractLsb' 7 4) (w.extractLsb' 0 7))
  | 4 => guardD true (execCLi (w.extractLsb' 7 4) (w.extractLsb' 0 7))
  | 5 => guardD true (execCLdW (w.extractLsb' 7 4) (w.extractLsb' 3 4) (w.extractLsb' 0 3))
  | 6 => guardD true (execCLdD (w.extractLsb' 7 4) (w.extractLsb' 3 4) (w.extractLsb' 0 3))
  | 7 => guardD true (execCStW (w.extractLsb' 7 4) (w.extractLsb' 3 4) (w.extractLsb' 0 3))
  | 8 => guardD true (execCStD (w.extractLsb' 7 4) (w.extractLsb' 3 4) (w.extractLsb' 0 3))
  | 9 => guardD (w.extractLsb' 0 3 == 0#3) (execCAnd (w.extractLsb' 7 4) (w.extractLsb' 3 4))
  | 10 => guardD (w.extractLsb' 6 1 == 0#1) (execCSll (w.extractLsb' 7 4) (w.extractLsb' 0 6))
  | 11 => guardD true (execCBeqz (w.extractLsb' 7 4) (w.extractLsb' 0 7))
  | 12 => guardD true (execCBnez (w.extractLsb' 7 4) (w.extractLsb' 0 7))
  | 13 => guardD true (execCJ (w.extractLsb' 0 11))
  | 14 => guardD (w.extractLsb' 0 7 == 0#7) (execCRet (w.extractLsb' 7 4))
  | _ => guardD (w.extractLsb' 0 11 == 0#11) (execCNop)

/-- The meaning of an instruction of 2 or 4 bytes (R78). A halfword that begins a longer one and stands alone at the end of the
store is no instruction. -/
def runBits (len bits : Nat) : Except DecErr Meaning :=
  if len = 2 then (if 2 ^ 15 ≤ bits then .error .illegal else runHalf (BitVec.ofNat 16 bits))
  else (decode32 (BitVec.ofNat 32 bits)).map exec

/-! Fetch. -/

/-- A halfword that a thread fetches (R78): from the instruction store, or, where it may have been fetched ahead of a write, the
old one (R259); a lantern core fetches from its private SRAM (R359). `k` tells the fetches of one issue apart.
Log 13 (DESIGN CHOICE, safe). -/
def State.half (s : State) (core : Nat) (t : Thread) (i k : Nat) : Half :=
  let c := s.core core
  if isLantern core then BitVec.ofNat 16 (leNat (memBytes c.sram (2 * i) 2))
  else match smGet t.ahead i with
    | some old => if Config.choice (s.fresh + k) then old else smGetD c.ist i 0
    | none => smGetD c.ist i 0

/-- What a thread fetches at its pc: the length in bytes and the bits (R78). -/
def State.fetch (s : State) (core : Nat) (t : Thread) : Nat × Nat :=
  let i := t.pc.toNat / 2
  let h := s.half core t i 0
  if h.getLsbD 15 && decide (i + 1 < 2 ^ 15) then (4, h.toNat * 2 ^ 16 + (s.half core t (i + 1) 1).toNat) else (2, h.toNat)

/-! The issue. -/

/-- The machine as the instruction of a slot begins (R71): the slot is current, and its core has issued in this cycle. -/
def State.atIssue (s : State) (w : Who) (t : Thread) : State :=
  let s1 := s.modCore w.core fun c =>
    { c with
      lastSlot := w.slot, issued := s.cycle + 1, late := 0,
      threads := smSet c.threads w.slot { t with lastIssue := some s.cycle } }
  { s1 with cur := w, fresh := if t.ahead.isEmpty then s.fresh else s.fresh + 2 }

/-- Runs the bits that a slot has fetched, or raises the first cause of R86. -/
def State.runFetched (s : State) (w : Who) (t : Thread) (len bits : Nat) : Host.Outcome State Fault Refusal :=
  match runBits len bits with
  | .ok m => m (s.atIssue w { t with ilen := len })
  | .error e =>
    let cause := if e = .illegal ∨ (isLantern w.core && !lanternRuns bits) = true then cIllegalOpcode else cReservedField
    .next ((s.atIssue w { t with ilen := len }).takeTrap w cause (BitVec.ofNat 64 bits) t.pc)

/-- The end of a forwarded instruction (R153): it leaves the follower's queue unless it will issue again. -/
def State.unqueue (s : State) (w : Who) : State :=
  s.modThread w fun t =>
    match t.run with
    | .waiting (.retry _) _ => t
    | _ => { t with fq := t.fq.drop 1 }

/-- The issue of a slot (R71, R153): a cause that waits comes before the next instruction (R160, R387); a gang follower issues
what was forwarded to it, and any other thread what it fetches.
Log 100 (DEDUCED, unsafe). -/
def State.issueSlot (s : State) (w : Who) (t : Thread) : Host.Outcome State Fault Refusal :=
  match t.next with
  | (cause, tval) :: rest =>
    let pc := if t.follower then ((t.fq.head?).map (·.2.pc)).getD t.pc else t.pc
    .next ((s.atIssue w { t with next := rest }).takeTrap w cause tval pc)
  | [] =>
    if t.follower then
      match t.fq with
      | (_, f) :: _ =>
        (match s.runFetched w { t with pc := f.pc } f.len f.bits with
        | .next s1 => .next (s1.unqueue w)
        | o => o)
      | [] => .next s
    else
      let f := s.fetch w.core t
      s.runFetched w t f.1 f.2

/-! The selector. -/

/-- Whether the instruction that a thread would issue next is one of the special functions (R83: opcode 0x1F) and would find their
queue full (R135).
Log 101 (DEDUCED, unsafe). -/
def State.sfuHeld (s : State) (w : Who) (t : Thread) : Bool :=
  decide (16 ≤ (s.core w.core).sfuWaiting s.cycle) && t.next.isEmpty
    && (let bits := if t.follower then ((t.fq.head?).map (·.2.bits)).getD 0 else (s.fetch w.core t).2
        bits / 2 ^ 25 == 64 + 0x1F)

/-- Whether a thread is eligible (R71, R135, R153): in rotation, eight cycles after its last issue, and not with a special function
that finds its queue full; a follower also needs an instruction that has arrived, and a leader room in its followers' queues.
Log 101 (DEDUCED, unsafe). -/
def State.eligible (s : State) (w : Who) (t : Thread) : Bool :=
  t.run == .ready
    && (match t.lastIssue with
      | some c => decide (c + 8 ≤ s.cycle)
      | none => true)
    && (if t.follower then !t.next.isEmpty || (match t.fq with
        | (at', _) :: _ => decide (at' ≤ s.cycle)
        | [] => false)
      else !s.gangFull w t)
    && !s.sfuHeld w t && !s.awaitsSecure w t

/-- The slot that a core issues for in this cycle: in free rotation a follower first (R153), then the order of R71; in
deterministic rotation the slot whose phase it is (R74). -/
def State.chosen (s : State) (core : Nat) (c : Core) : Option (Nat × Thread) :=
  if c.held || c.gated || c.issued == s.cycle + 1 then none
  else
    let l := c.threads.filter fun p => s.eligible { core, slot := p.1 } p.2
    if c.rot = 0 then
      if s.cycle < c.portBusy then none
      else
        match l.find? fun p => p.2.follower with
        | some p => some p
        | none =>
          match l.find? fun p => decide (c.lastSlot + 1 ≤ p.1) with
          | some p => some p
          | none => l.head?
    else l.find? fun p => p.1 == c.cyc.toNat % c.rot

/-- The next slot of the machine that issues in this cycle.
Log 99 (DESIGN CHOICE, unsafe). -/
def State.issuer (s : State) : Option (Who × Thread) :=
  s.cores.findSome? fun p => (s.chosen p.1 p.2).map fun x => ({ core := p.1, slot := x.1 }, x.2)

end Sys2Proof.Machine
end

