-- ==== Sys2Proof/Machine/Landing.lean ====
section
/-!
DEFINITION. The writes to the register files at the end of a cycle (R60, R61): the results of fixed latency, then, as slots are free,
the returns and the deposits in the order in which they reached the file. An instruction that issued in the cycle has read the
values from before it.
-/
namespace Sys2Proof.Machine

/-- What writing one register comes to: it is written, the write must wait, or the element it stores faults (R279). -/
inductive Landed where
  | done (s : State)
  | hold (s : State)
  | fault (s : State) (cause : Nat) (tval : Dword)

/-- The store of an element of an output stream that is not made at an issue: one through the cluster window waits for a port (R265), and a
thread whose return it is waits until it is complete (R237).
Log 5 (DEDUCED, unsafe). -/
def State.lateStore (s : State) (w : Who) (t : Thread) (g : Gen) (v : Dword) : OutRes → Landed
  | .ok s' => .done s'
  | .window s' core off =>
    (match s'.takePort core with
    | none => .hold s
    | some s1 =>
      let s2 := s1.modCore core fun c => c.lwrite off g.bytes v.toNat
      .done (if s.waitOf w = some .landing then s2.outFor w 23 else s2))
  | .control s' pa ev =>
    let s1 := s'.after (ctrlLat w.core pa - 1) ev
    .done (if s.waitOf w = some .landing then s1.outFor w (ctrlLat w.core pa - 1) else s1)
  | .stop (.trap cause tval) => .fault s cause tval
  | .stop (.retry _ mark) => .hold (if mark then s.unbound w t else s)
  | .stop _ => .hold s

/-- As `lateStore`: a page that no TLB holds is translated at once, and an element that must wait (R227, R228) waits with its write.
Log 5 (DEDUCED, unsafe). -/
def State.lateOut (s : State) (w : Who) (t : Thread) (i : Nat) (g : Gen) (v : Dword) : Landed :=
  match s.outStore w t i g v with
  | .stop (.retry (.walk space va store) _) =>
    (match s.findNow w.core t.part space va store with
    | .error (cause, tval) => .fault s cause tval
    | .ok e =>
      let s1 := s.modCore w.core fun c => { c with tlb := tlbFill c.tlb e 64 }
      match s1.lateStore w t g v (s1.outStore w t i g v) with
      | .hold _ => .hold s
      | x => x)
  | r => s.lateStore w t g v r

/-- Writes a general register by its number, when its return or deposit has a slot (R57, R63, R279). -/
def State.putReg (s : State) (w : Who) (n : Nat) (v : Dword) : Landed :=
  match s.thread w with
  | none => .done s
  | some t =>
    if t.shadow n then .done (s.putG w t n v)
    else match (s.core w.core).boundGen w.slot n with
      | none => .done (s.putG w t n v)
      | some (i, g) =>
        if (g.bound.map (·.2)) ≠ some .output then .done s
        else if g.exhausted then .fault s cStreamOverflow (BitVec.ofNat 64 i)
        else s.lateOut w t i g v

/-- Makes one write. -/
def State.putDest (s : State) (w : Who) (d : RegDest) (v : Wide) : Landed :=
  match d with
  | .file i => .done (s.modCore w.core fun c => { c with gfile := smSet c.gfile i (v.truncate 64) })
  | .shadow n => .done (s.modThread w fun t => { t with hregs := smSet t.hregs n (v.truncate 64) })
  | .wide i => .done (s.modCore w.core fun c => { c with wfile := smSet c.wfile i v })
  | .mask n => .done (s.modThread w fun t => { t with kregs := smSet t.kregs n (v.truncate 64) })
  | .flags => .done (s.modThread w fun t => { t with fflags := v.truncate 9 })
  | .orFlags => .done (s.modThread w fun t => { t with fflags := t.fflags ||| v.truncate 9 })
  | .reg n => s.putReg w n (v.truncate 64)

/-- Makes the writes of one entry in order: the machine, what must still wait, and the first fault.
Log 5 (DEDUCED, unsafe). -/
def State.putDests (s : State) (w : Who) : List (RegDest × Wide) → State × List (RegDest × Wide) × Option (Nat × Dword)
  | [] => (s, [], none)
  | (d, v) :: t =>
    match s.putDest w d v with
    | .done s1 => s1.putDests w t
    | .hold s1 => (s1, (d, v) :: t, none)
    | .fault s1 cause tval =>
      let r := s1.putDests w t
      (r.1, r.2.1, some (cause, tval))

/-- What follows once the writes of a return or a deposit have been made: its thread is eligible in the next cycle (R72), or the class
is ready (R295). -/
def State.afterWrite (s : State) (w : Who) (k : WriteKind) : State :=
  let wake := fun s : State => if s.waitOf w = some .landing then s.wake w else s
  match k with
  | .fixed => s
  | .ret => wake s
  | .deposit (some cls) => s.deposited w cls
  | .deposit none => (wake s).setEvent w

/-- Whether an entry writes the wide file. -/
def RegWrite.isWide (r : RegWrite) : Bool := r.regs.any fun p => match p.1 with | .wide _ => true | _ => false

/-- Whether an entry writes the general file. -/
def RegWrite.isGen (r : RegWrite) : Bool := r.regs.any fun p => match p.1 with | .file _ | .reg _ => true | _ => false

/-- The writing of the returns of a core under way: the machine, the entries that stay, the free slots of the general and of the wide
file, and the slots whose earlier return stays, which no later one overtakes. -/
structure Landing where
  s : State
  keep : List RegWrite
  gfree : Nat
  wfree : Nat
  stuck : List Nat

/-- One return or deposit, in the order of the queue (R60). -/
def Landing.one (core : Nat) (a : Landing) (r : RegWrite) : Landing :=
  if (if r.isWide then a.wfree else a.gfree) = 0 || a.stuck.contains r.slot then
    { a with keep := a.keep ++ [r], stuck := r.slot :: a.stuck }
  else
    let w : Who := { core, slot := r.slot }
    match a.s.putDests w r.regs with
    | (s1, rest, trap) =>
      let s2 := if rest.isEmpty then s1.afterWrite w r.kind else s1
      let s3 := match trap with
        | some (cause, tval) => s2.takeTrap w cause tval (((s2.thread w).map (·.pc)).getD 0)
        | none => s2
      { s := s3,
        keep := if rest.isEmpty then a.keep else a.keep ++ [{ r with regs := rest }],
        gfree := if r.isWide then a.gfree else a.gfree - 1, wfree := if r.isWide then a.wfree - 1 else a.wfree,
        stuck := if rest.isEmpty then a.stuck else r.slot :: a.stuck }

/-- Writes what a core's register files take in this cycle (R60, R61): the results of fixed latency through slot F; then returns
and deposits through slot O, and through slot F where no result has reserved it.
Log 5 (DEDUCED, unsafe). -/
def State.land (s : State) (core : Nat) : State :=
  let l := (s.core core).writes
  let due := l.filter fun r => r.kind == .fixed && decide (r.due ≤ s.cycle)
  let later := l.filter fun r => r.kind == .fixed && decide (s.cycle < r.due)
  let rets := l.filter fun r => r.kind != .fixed
  let s1 := due.foldl (fun s r => (s.putDests { core, slot := r.slot } r.regs).1) (s.modCore core fun c => { c with writes := [] })
  let used := fun f : RegWrite → Bool => (((due.filter f).map (·.slot)).eraseDups).length
  let a := rets.foldl (Landing.one core)
    { s := s1, keep := [], gfree := 2 - used RegWrite.isGen, wfree := 2 - used RegWrite.isWide, stuck := [] }
  let keep := later ++ a.keep
  a.s.modCore core fun c => { c with writes := keep.filter (fun r => smGet c.threads r.slot |>.isSome) ++ c.writes }

/-- The writes at the end of a cycle, in every core that has some on their way. -/
def State.landAll (s : State) : State :=
  (s.cores.filter fun p => !p.2.writes.isEmpty).foldl (fun s p => s.land p.1) s

end Sys2Proof.Machine
end

