-- ==== Sys2Proof/Machine/Cycle.lean ====
section
/-!
DEFINITION. What happens in a cycle outside the issue ports: the steps of the agenda that are due, the steps whose condition holds,
the waits that clear, and what passes with the cycle itself.
-/
namespace Sys2Proof.Machine

/-- A step as the row of the opcode table that it is. -/
noncomputable def Ev.row : Ev → Instr
  | .queueEntry core e => .queueEntry core e
  | .commandCompletion core e => .commandCompletion core e
  | .memoryReturn w r => .memoryReturn w r
  | .streamElementArrival core gen => .streamElementArrival core gen
  | .windowAccess w => .windowAccess w
  | .sfuResult w => .sfuResult w
  | .sfuDiscardBlockEnd core => .sfuDiscardBlockEnd core
  | .wcbDrainTimeout w line => .wcbDrainTimeout w line
  | .agentAnswer w => .agentAnswer w
  | .hostWindowWrite part len data => .hostWindowWrite part len data
  | .messageArrival m => .messageArrival m
  | .heldMessageDeposit core cls => .heldMessageDeposit core cls
  | .launchMessage core addr => .launchMessage core addr
  | .launchRecordPlace core r => .launchRecordPlace core r
  | .taskDispatch core => .taskDispatch core
  | .footprintFetchDone core gid => .footprintFetchDone core gid
  | .stealRequest core => .stealRequest core
  | .stealBackoffEnd core => .stealBackoffEnd core
  | .successorStart core gid => .successorStart core gid
  | .taskCommit die => .taskCommit die
  | .heldEffectSend core => .heldEffectSend core
  | .directWrite d => .directWrite d
  | .reservationGrant word => .reservationGrant word
  | .reservationRevoke word => .reservationRevoke word
  | .roundOpenArrival r => .roundOpenArrival r
  | .roundUpdateArrival r => .roundUpdateArrival r
  | .roundDoneArrival r => .roundDoneArrival r
  | .roundUpdateResend r => .roundUpdateResend r
  | .heldUpdateApply line => .heldUpdateApply line
  | .barrierArrival cluster bar w => .barrierArrival cluster bar w
  | .barrierWaitArrival cluster bar w => .barrierWaitArrival cluster bar w
  | .barrierWake cluster bar phase => .barrierWake cluster bar phase
  | .reductionRoundComplete die => .reductionRoundComplete die
  | .directoryRead r => .directoryRead r
  | .directoryOwnership r => .directoryOwnership r
  | .forwardRequest die line => .forwardRequest die line
  | .invalidation die line => .invalidation die line
  | .ownershipGrant die line => .ownershipGrant die line
  | .writeBack die lw => .writeBack die lw
  | .replicationEpochEnd die => .replicationEpochEnd die
  | .remoteAccess a => .remoteAccess a
  | .hostWrite part addr bytes => .hostWrite part addr bytes
  | .hostRead part addr len => .hostRead part addr len
  | .instructionStoreWrite core unit data => .instructionStoreWrite core unit data
  | .istInvArrival core w => .istInvArrival core w
  | .tlbInvArrival m => .tlbInvArrival m
  | .pageWalk die => .pageWalk die
  | .walkReadReturn die walker => .walkReadReturn die walker
  | .editApply e => .editApply e
  | .windowAssembly p => .windowAssembly p
  | .recordPush p => .recordPush p
  | .commitNotice ctx recAddr succ => .commitNotice ctx recAddr succ
  | .dmapReport r => .dmapReport r
  | .gangFormation leader => .gangFormation leader
  | .forwardedInstructionArrival w f => .forwardedInstructionArrival w f
  | .gangTrapNotice leader member cause => .gangTrapNotice leader member cause
  | .deadlockWalk => .deadlockWalk
  | .detachedCauseStart core => .detachedCauseStart core
  | .hypervisorEvent e => .hypervisorEvent e
  | .hcallReply w status result => .hcallReply w status result
  | .hypervisorPreempt w => .hypervisorPreempt w
  | .deviceReset => .deviceReset
  | .bootStartWrite p => .bootStartWrite p
  | .stagingReleaseWrite => .stagingReleaseWrite
  | .partitionStart p => .partitionStart p
  | .partitionCoreEntryWrite part core v => .partitionCoreEntryWrite part core v
  | .spaceEntryWrite part space v => .spaceEntryWrite part space v
  | .detsetWrite part idx v => .detsetWrite part idx v
  | .reductionEntryWrite part core v => .reductionEntryWrite part core v
  | .registerWrite part off v => .registerWrite part off v
  | .powerToleranceWrite v => .powerToleranceWrite v
  | .coreClockGate core => .coreClockGate core
  | .coreWake core => .coreWake core
  | .dieRetentionEntry die => .dieRetentionEntry die
  | .dieWake die => .dieWake die
  | .partitionPowerOff part => .partitionPowerOff part
  | .partitionWake part => .partitionWake part
  | .hbmRefresh die bank => .hbmRefresh die bank
  | .sramEccScrub die => .sramEccScrub die
  | .hbmPatrolScrub die => .hbmPatrolScrub die
  | .telemetrySample die => .telemetrySample die
  | .uncorrectableError e => .uncorrectableError e
  | .retryResult e ok => .retryResult e ok
  | .stealReply core r => .stealReply core r
  | .hypervisorResume w act => .hypervisorResume w act
  | .partitionEnd part => .partitionEnd part
  | .powerLoss => .powerLoss

/-- Runs a step. -/
def runEv (e : Ev) (s : State) : Host.Outcome State Fault Refusal :=
  match e with
  | .queueEntry core e => execQueueEntry core e s
  | .commandCompletion core e => execCommandCompletion core e s
  | .memoryReturn w r => execMemoryReturn w r s
  | .streamElementArrival core gen => execStreamElementArrival core gen s
  | .windowAccess w => execWindowAccess w s
  | .sfuResult w => execSfuResult w s
  | .sfuDiscardBlockEnd core => execSfuDiscardBlockEnd core s
  | .wcbDrainTimeout w line => execWcbDrainTimeout w line s
  | .agentAnswer w => execAgentAnswer w s
  | .hostWindowWrite part len data => execHostWindowWrite part len data s
  | .messageArrival m => execMessageArrival m s
  | .heldMessageDeposit core cls => execHeldMessageDeposit core cls s
  | .launchMessage core addr => execLaunchMessage core addr s
  | .launchRecordPlace core r => execLaunchRecordPlace core r s
  | .taskDispatch core => execTaskDispatch core s
  | .footprintFetchDone core gid => execFootprintFetchDone core gid s
  | .stealRequest core => execStealRequest core s
  | .stealBackoffEnd core => execStealBackoffEnd core s
  | .successorStart core gid => execSuccessorStart core gid s
  | .taskCommit die => execTaskCommit die s
  | .heldEffectSend core => execHeldEffectSend core s
  | .directWrite d => execDirectWrite d s
  | .reservationGrant word => execReservationGrant word s
  | .reservationRevoke word => execReservationRevoke word s
  | .roundOpenArrival r => execRoundOpenArrival r s
  | .roundUpdateArrival r => execRoundUpdateArrival r s
  | .roundDoneArrival r => execRoundDoneArrival r s
  | .roundUpdateResend r => execRoundUpdateResend r s
  | .heldUpdateApply line => execHeldUpdateApply line s
  | .barrierArrival cluster bar w => execBarrierArrival cluster bar w s
  | .barrierWaitArrival cluster bar w => execBarrierWaitArrival cluster bar w s
  | .barrierWake cluster bar phase => execBarrierWake cluster bar phase s
  | .reductionRoundComplete die => execReductionRoundComplete die s
  | .directoryRead r => execDirectoryRead r s
  | .directoryOwnership r => execDirectoryOwnership r s
  | .forwardRequest die line => execForwardRequest die line s
  | .invalidation die line => execInvalidation die line s
  | .ownershipGrant die line => execOwnershipGrant die line s
  | .writeBack die lw => execWriteBack die lw s
  | .replicationEpochEnd die => execReplicationEpochEnd die s
  | .remoteAccess a => execRemoteAccess a s
  | .hostWrite part addr bytes => execHostWrite part addr bytes s
  | .hostRead part addr len => execHostRead part addr len s
  | .instructionStoreWrite core unit data => execInstructionStoreWrite core unit data s
  | .istInvArrival core w => execIstInvArrival core w s
  | .tlbInvArrival m => execTlbInvArrival m s
  | .pageWalk die => execPageWalk die s
  | .walkReadReturn die walker => execWalkReadReturn die walker s
  | .editApply e => execEditApply e s
  | .windowAssembly p => execWindowAssembly p s
  | .recordPush p => execRecordPush p s
  | .commitNotice ctx recAddr succ => execCommitNotice ctx recAddr succ s
  | .dmapReport r => execDmapReport r s
  | .gangFormation leader => execGangFormation leader s
  | .forwardedInstructionArrival w f => execForwardedInstructionArrival w f s
  | .gangTrapNotice leader member cause => execGangTrapNotice leader member cause s
  | .deadlockWalk => execDeadlockWalk s
  | .detachedCauseStart core => execDetachedCauseStart core s
  | .hypervisorEvent e => execHypervisorEvent e s
  | .hcallReply w status result => execHcallReply w status result s
  | .hypervisorPreempt w => execHypervisorPreempt w s
  | .deviceReset => execDeviceReset s
  | .bootStartWrite p => execBootStartWrite p s
  | .stagingReleaseWrite => execStagingReleaseWrite s
  | .partitionStart p => execPartitionStart p s
  | .partitionCoreEntryWrite part core v => execPartitionCoreEntryWrite part core v s
  | .spaceEntryWrite part space v => execSpaceEntryWrite part space v s
  | .detsetWrite part idx v => execDetsetWrite part idx v s
  | .reductionEntryWrite part core v => execReductionEntryWrite part core v s
  | .registerWrite part off v => execRegisterWrite part off v s
  | .powerToleranceWrite v => execPowerToleranceWrite v s
  | .coreClockGate core => execCoreClockGate core s
  | .coreWake core => execCoreWake core s
  | .dieRetentionEntry die => execDieRetentionEntry die s
  | .dieWake die => execDieWake die s
  | .partitionPowerOff part => execPartitionPowerOff part s
  | .partitionWake part => execPartitionWake part s
  | .hbmRefresh die bank => execHbmRefresh die bank s
  | .sramEccScrub die => execSramEccScrub die s
  | .hbmPatrolScrub die => execHbmPatrolScrub die s
  | .telemetrySample die => execTelemetrySample die s
  | .uncorrectableError e => execUncorrectableError e s
  | .retryResult e ok => execRetryResult e ok s
  | .stealReply core r => execStealReply core r s
  | .hypervisorResume w act => execHypervisorResume w act s
  | .partitionEnd part => execPartitionEnd part s
  | .powerLoss => execPowerLoss s

/-- Runs a step that is due; one that arrives at a die in retention waits for the die (R399). -/
def State.runDue (s : State) (e : Ev) : Host.Outcome State Fault Refusal :=
  match s.sleeping e with
  | some d => .next (s.wakeFor d e)
  | none => runEv e s

/-- Whether a step comes in its cycle after the issues: an access through a cluster window (R219), and a write of an instruction store,
since a halfword that is fetched in the cycle of its write is the old one (R259). -/
def Ev.late : Ev → Bool
  | .windowAccess _ | .instructionStoreWrite _ _ _ => true
  | _ => false

/-- Whether a bank has taken an arrival of a round in this cycle (R200). -/
def State.bankBusy (s : State) (bank : Nat) : Bool :=
  let d := s.die (bank / 256)
  d.bankCycle == s.cycle + 1 && d.bankTook.contains bank

/-- Notes that a bank takes an arrival in this cycle (R200). -/
def State.takeBank (s : State) (e : Ev) : State :=
  match e.bank with
  | none => s
  | some (b, _) =>
    s.modDie (b / 256) fun d =>
      { d with bankCycle := s.cycle + 1, bankTook := b :: (if d.bankCycle = s.cycle + 1 then d.bankTook else []) }

/-- Whether a step of the agenda comes before another: it is due earlier, or it is an arrival at a bank in the same cycle with a lower
issuer index (R200). -/
def Sched.before (x y : Sched) : Bool :=
  decide (x.due < y.due)
    || (x.due == y.due && match x.ev.bank, y.ev.bank with
      | some (b, i), some (b', j) => b == b' && decide (i < j)
      | _, _ => false)

/-- The first of some steps: the earliest, and of one cycle the one that was sent first. -/
def firstSched : List Sched → Option Sched
  | [] => none
  | x :: t =>
    match firstSched t with
    | none => some x
    | some y => if y.before x then some y else some x

/-- The next step of the agenda that is due among those of a kind, and the machine without it; a bank takes one arrival of its rounds in
a cycle (R200).
Log 99 (DESIGN CHOICE, unsafe). -/
def State.takeFirst (s : State) (p : Ev → Bool) : Option (Ev × State) :=
  let ready := s.agenda.filter fun x =>
    decide (x.due ≤ s.cycle) && p x.ev && (match x.ev.bank with
      | some (b, _) => !s.bankBusy b
      | none => true)
  (firstSched ready).map fun x => (x.ev, ({ s with agenda := s.agenda.erase x }).takeBank x.ev)

/-- The next due step that comes before the issues of its cycle. -/
def State.takeDue (s : State) : Option (Ev × State) := s.takeFirst fun e => !e.late

/-- The next due step that comes after the issues of its cycle (R219, R259). -/
def State.takeLate (s : State) : Option (Ev × State) := s.takeFirst Ev.late

/-! The engines. -/

/-- The begin of the command in an execution position (R158): in the cycle after it came there, and then in each cycle in which it
gets further. Bits that no layout has fail with CMD_MALFORMED (R160). -/
def State.tryCmd (s : State) (core : Nat) (k : Engine) : Option State :=
  match ((s.core core).unit k).exec with
  | none => none
  | some r =>
    if r.begun || (match r.hold with | .row _ => true | _ => false) || decide (s.cycle < r.next) then none
    else
      let bad : Meaning := fun s => runCommand k false s (do
        demand false cCmdMalformed
        pure 0)
      match ((runCmd r.cmd.bits).getD bad) { s with cur := { core, slot := r.cmd.w.slot } } with
      | .next s1 =>
        if ((s1.core core).unit k).exec == some r
            && (s1.group core r.cmd.gid).map (·.unbounded) == (s.group core r.cmd.gid).map (·.unbounded) then none
        else some s1
      | _ => none

/-- What an engine does by itself in this cycle: a waiting command enters the queue, the head of the queue goes to the execution
position, or the command there begins. -/
def State.engineOn (s : State) (core : Nat) (k : Engine) : Option State :=
  let u := (s.core core).unit k
  if !u.outside.isEmpty && decide (u.queue.length < 2) then some (s.enterQueue core k)
  else
    let s1 := s.engineNext core k
    if u.exec.isNone && ((s1.core core).unit k).exec.isSome then some s1 else s.tryCmd core k

/-! The waits of a thread. -/

/-- Whether the object that an instruction waits for has cleared, so that it issues again (R72). -/
def State.objClear (s : State) (w : Who) (t : Thread) : Obj → Bool
  | .secure => !s.notSecure w t
  | .place line =>
    let c := s.core w.core
    (match s.group w.core t.gid with
    | some g => g.unbounded
    | none => true) || c.specRoom line
  | .walk _ _ _ | .piece => false
  | .stream i =>
    (match smGet (s.core w.core).gens i with
    | none => true
    | some g => g.exhausted || g.bound.isNone || (match g.ahead with
      | x :: _ => x.val.isSome || x.fault.isSome
      | [] => false))
  | .full core off => (s.core core).isFull (off / 4)
  | .lane core cls => s.laneOpen core cls
  | .nextRound => (smGet (s.redTree (dieOf w.core) t.part).sent (localOf w.core)).isNone
  | .total => (s.redTree (dieOf w.core) t.part).total.isSome

/-- A change of the machine, if it gets a thread further. -/
def State.ifMoved (s1 : State) (w : Who) (t : Thread) : Option State :=
  match s1.thread w with
  | some x => if x.run == t.run && x.gang == t.gang then none else some s1
  | none => some s1

/-- Whether a window access of a thread is on its way. -/
def State.windowOnWay (s : State) (w : Who) : Bool := s.agenda.any fun x => x.ev == .windowAccess w

/-- The state that follows from a step which ends in one. -/
def stateOf (s : State) : Host.Outcome State Fault Refusal → State
  | .next s1 => s1
  | _ => s

/-- A wait that clears in this cycle: what the machine becomes with it. -/
def State.clears (s : State) (w : Who) (t : Thread) : Option State :=
  match t.run with
  | .waiting wt since =>
    (match wt with
    | .release scope rel acq cc =>
      if s.releaseDue w t scope rel acq since then some ((s.finishRelease w t scope rel acq cc).complete w []) else none
    | .seqRel op d a b fs =>
      if s.releaseDue w t .pkg true false since then some (s.seqReleased w t op d a b fs) else none
    | .seq op d a b => s.seqServe w t op d a b since
    | .barInit _ _ => (s.barInitServe w).ifMoved w t
    | .ack => if (s.core w.core).flights.all fun f => f.w != w then some (s.complete w []) else none
    | .retry (.walk _ _ _) => (s.walkHit w).ifMoved w t
    | .retry o => if s.objClear w t o then some (s.wake w) else none
    | .tlbInv 0 _ => (s.tlbInvDone w).ifMoved w t
    | .tsave _ _ => (s.finishSave w).ifMoved w t
    | .tcfg _ _ _ => (s.engineDrained w).ifMoved w t
    | .accord _ _ _ _ => (s.engineDrained w).ifMoved w t
    | .gangForm _ => (stateOf s (execGangFormation w s)).ifMoved w t
    | .sync _ _ _ _ _ => if s.windowOnWay w then none else (stateOf s (execWindowAccess w s)).ifMoved w t
    | .wideSync _ _ => if s.windowOnWay w then none else (stateOf s (execWindowAccess w s)).ifMoved w t
    | _ => none)
  | _ => if t.gang.isSome then (s.gangResume w).ifMoved w t else none

/-! The steps whose condition holds. -/

/-- Whether the record of a place can be pushed to a core of its partition (R318). -/
def State.canPush (s : State) (c : Ctx) (key : Nat) (p : Place) : Bool :=
  c.pushReady key p && (match c.layerEnt (c.placeLayer key) with
    | some e => s.partOf (pushCore e p.j) == some c.part
    | none => false)

/-- The step of a context that is due (R313, R318, R319). -/
def State.ctxDue (s : State) (die idx : Nat) (c : Ctx) : Option Ev :=
  let id := fun key : Nat => ({ die, idx, layer := c.placeLayer key, phys := c.placePhys key, k := key % 2 } : PlaceId)
  match c.places.find? fun p => s.windowReady die idx c p.1 p.2 with
  | some p => some (.windowAssembly (id p.1))
  | none =>
    match c.places.find? fun p => s.canPush c p.1 p.2 with
    | some p => some (.recordPush (id p.1))
    | none =>
      match s.editReady die idx c with
      | some e => some (.editApply e)
      | none => (c.reports.find? fun r => !s.reportWaits r [] none).map Ev.dmapReport

/-- The step of a reservation queue that is due (R235). -/
def State.rsvDue (s : State) (die word : Nat) (q : RsvQueue) : Option Ev :=
  if s.rsvReady die word then some (.reservationGrant word)
  else if q.holder.isSome && decide (q.since + 4096 ≤ s.cycle) then some (.reservationRevoke word)
  else none

/-- The step of a die that is due. A reservation at a die in retention wakes it (R399). -/
def State.dieDue (s : State) (die : Nat) : Option Ev :=
  let d := s.die die
  if (s.commitPick die).isSome then some (.taskCommit die)
  else if s.walkDue die then some (.pageWalk die)
  else if d.retained then none
  else
    match d.rsv.findSome? fun p => s.rsvDue die p.1 p.2 with
    | some e => some e
    | none =>
      match d.ctxs.findSome? fun p => s.ctxDue die p.1 p.2 with
      | some e => some e
      | none => if s.retainDue die then some (.dieRetentionEntry die) else none

/-- A die in retention whose reservation queues or sequencer have something to do begins to wake (R399). -/
def State.dieStirs (s : State) (die : Nat) : Bool :=
  let d := s.die die
  d.retained && !(s.agenda.any fun x => x.ev == .dieWake die)
    && ((d.rsv.findSome? fun p => s.rsvDue die p.1 p.2).isSome || (d.ctxs.findSome? fun p => s.ctxDue die p.1 p.2).isSome)

/-- The step of a core that is due. -/
def State.coreDue (s : State) (core : Nat) (c : Core) : Option Ev :=
  if c.held then none
  else if (match c.effects with
      | (e, lines) :: _ => !s.effectWaits core e lines
      | [] => false) then some (.heldEffectSend core)
  else
    match c.groups.find? fun g => s.succReady core g.1 with
    | some g => some (.successorStart core g.1)
    | none =>
      if c.gated || isLantern core then none
      else if (s.nextPick core).isSome then some (.taskDispatch core)
      else if s.detachedReady core then some (.detachedCauseStart core)
      else if s.gateDue core then some (.coreClockGate core)
      else none

/-- What a core does by itself in this cycle. -/
def State.coreOn (s : State) (core : Nat) (c : Core) : Option State :=
  match s.engineOn core .mx with
  | some s1 => some s1
  | none =>
    match s.engineOn core .vx with
    | some s1 => some s1
    | none =>
      match s.engineOn core .cp with
      | some s1 => some s1
      | none =>
        match c.threads.findSome? fun p => s.clears { core, slot := p.1 } p.2 with
        | some s1 => some s1
        | none => if s.wakeDue core then some (s.rouse core).1 else none

/-- What happens next in this cycle outside the issue ports, if anything does: the steps that are due in the agenda, then what the
cores do, then the steps whose condition holds.
Log 99 (DESIGN CHOICE, unsafe). -/
def State.duty (s : State) : Option (Host.Outcome State Fault Refusal) :=
  match s.takeDue with
  | some (e, s1) => some (s1.runDue e)
  | none =>
    match s.cores.findSome? fun p => s.coreOn p.1 p.2 with
    | some s1 => some (.next s1)
    | none =>
      match s.cores.findSome? fun p => s.coreDue p.1 p.2 with
      | some e => some (runEv e s)
      | none =>
        match (List.range 8).findSome? fun d => s.dieDue d with
        | some e => some (runEv e s)
        | none => ((List.range 8).find? fun d => s.dieStirs d).map fun d => .next (s.after (50 * Config.cyclesPerUs) (.dieWake d))

/-! The end of a cycle. -/

/-- A core's part of the end of a cycle: its clock counts (R67), and its idle time begins again while it has something to do
(R399). -/
def Core.tick (c : Core) (now : Nat) : Core :=
  if c.held || c.gated then c
  else { c with cyc := c.cyc + 1, idleSince := if c.resting then c.idleSince else now }

/-- The frame counter of a die (R206), which stands still in retention.
Log 93 (DEDUCED, unsafe). -/
def Die.tick (d : Die) : Die := if d.retained then d else { d with frame := d.frame + 1 }

/-- What waits for a condition of the control registers is tried again (R366). -/
def State.pendingRegs (s : State) : State :=
  s.parts.foldl
    (fun s p =>
      let low := p.2.coreEnts.filter fun e => e.2.shown != e.2.repl
      let s1 := low.foldl (fun s e => s.lowerRepl p.1 e.1) s
      if p.2.detPend.isEmpty then s1 else s1.applyDet p.1) s

/-- Barriers that carry a tally over (R297). -/
def State.carries (s : State) : State :=
  s.clusters.foldl (fun s k => (k.2.barriers.filter fun b => b.2.carried != 0).foldl (fun s b => s.barCarry k.1 b.1) s) s

/-- Idle cores begin to steal (R294), and rotations change (R366). -/
def State.idleCores (s : State) : State :=
  s.cores.foldl
    (fun s p =>
      let s1 := if p.2.held || isLantern p.1 then s else s.applyRot p.1
      if !p.2.stealing && p.2.backoff.isNone && s1.idle p.1 then s1.startSteal p.1 else s1) s

/-- The steps that come at fixed cycles: the end of a replication epoch (R246) and the deadlock walk (R307). -/
def State.periodic (s : State) : State :=
  let s1 := if s.cycle % 65536 = 0 then (List.range 8).foldl (fun s d => s.after 0 (.replicationEpochEnd d)) s else s
  if s.cycle % 1900000 = 0 then s1.after 0 .deadlockWalk else s1

/-- Leaders whose `gang.bar` is done with this cycle's writes (R155). -/
def State.gangBars (s : State) : State :=
  s.cores.foldl (fun s p => p.2.threads.foldl (fun s q => s.gangBarDone { core := p.1, slot := q.1 }) s) s

/-- The end of a cycle in which nothing more happens: what the register files take is written (R60).
Log 99 (DESIGN CHOICE, unsafe). -/
def State.tick (s : State) : State :=
  let s0 := s.landAll.gangBars
  let s1 : State :=
    { s0 with
      cycle := s.cycle + 1,
      cores := smMap (fun _ c => c.tick (s.cycle + 1)) s0.cores,
      dies := (List.range 8).map fun d => (d, (s0.die d).tick) }
  let s2 := (s1.postedOn s1.host.posted.length).pendingRegs.carries.idleCores
  s2.periodic

end Sys2Proof.Machine
end

