-- ==== Sys2Proof/Machine/Step.lean ====
section
/-!
DEFINITION. One step of the machine. Within a cycle come first the steps that are due, one at a time, then the issues, one core at a
time, then the accesses through the cluster windows and the writes of instruction stores; when nothing more happens the cycle ends. The last part lays an instruction where the next step fetches it.
-/
namespace Sys2Proof.Machine

/-- One step: what is due in this cycle, or the next issue, or what comes after the issues (R219, R259), or the end of the cycle.
Log 99 (DESIGN CHOICE, unsafe). -/
def step (s : State) : Host.Outcome State Fault Refusal :=
  match s.duty with
  | some o => o
  | none =>
    match s.issuer with
    | some (w, t) => s.issueSlot w t
    | none =>
      match s.takeLate with
      | some (e, s1) => s1.runDue e
      | none => .next s.tick

/-- Writes a halfword of a core's instruction store, for a thread that has not fetched it ahead. -/
def State.placeHalf (s : State) (w : Who) (i : Nat) (h : Half) : State :=
  let s1 := s.modCore w.core fun c => { c with ist := if h = 0 then smDel c.ist i else smSet c.ist i h }
  s1.modThread w fun t => { t with ahead := smDel t.ahead i }

/-- Writes halfwords from a halfword index upward. -/
def State.placeCode (s : State) (w : Who) (i : Nat) : List Half → State
  | [] => s
  | h :: t => (s.placeHalf w i h).placeCode w (i + 1) t

/-- The slot that the next step issues from its core's instruction store, and the halfword index it fetches at, if the next step
is such an issue. -/
def State.fetchPlace (s : State) : Option (Who × Nat) :=
  match s.duty with
  | some _ => none
  | none =>
    match s.issuer with
    | some (w, t) =>
      if t.next.isEmpty && !t.follower && !isLantern w.core && decide (t.pc.toNat < 0xFFFE) then some (w, t.pc.toNat / 2) else none
    | none => none

/-- A thread that may name every register and run every instruction: open mode at S, with wide state, in slot 0.
Log 3 (DEDUCED, safe). -/
def loadedThread : Thread :=
  { Thread.fresh with level := .s, compute := true, glim := 128, gext := 128, galloc := 128, wcount := 16 }

/-- The machine with a partition of one cluster started in it, and one thread at the start of core 0's instruction store: what boot,
PARTITION_START and a launch message come to (R360, R363, R290); log 3.
Log 3 (DEDUCED, safe). -/
def State.loaded (s : State) : State :=
  { s with
    cur := { core := 0, slot := 0 }, agenda := [], clusters := [], dies := [],
    cores := [(0, { Core.fresh false with threads := [(0, loadedThread)], groups := [(0, controlGroup 0 0)], nextGid := 1 })],
    parts := [(0, { Partition.fresh { noSpec with clusters := 1 } with live := true })],
    host := { s.host with boot := .running, posted := [] } }

/-- The machine with an instruction stored where the next step fetches: at the pc of the slot that issues next, or, where no
program runs, in a partition started for it.
Log 3 (DEDUCED, safe). -/
def State.withFetchWord (s : State) (nbits w : Nat) : State :=
  match s.fetchPlace with
  | some (v, i) => s.placeCode v i (tableHalves nbits w)
  | none => s.loaded.placeCode { core := 0, slot := 0 } 0 (tableHalves nbits w)

end Sys2Proof.Machine
end

