-- ==== Sys2Proof/Safety.lean ====
section
/-!
DEFINITION. What counts as a safe run, in the terms that claims use: the machine goes on, memory is in its canonical form, and the
tables that hold the cores, dies and partitions are.
-/
namespace Sys2Proof

open Sys2Proof.Machine

/-- The machine goes on for a number of steps: no fault, no refusal. -/
def RunsOn (n : Nat) (s : State) : Prop := ∃ t, core.run n s = .next t

/-- One step leads from a state to another. -/
def Steps (s t : State) : Prop := step s = .next t

/-- A state that the machine comes to from another in some number of steps. -/
def Reaches (s t : State) : Prop := ∃ n, core.run n s = .next t

/-- Memory is in its canonical form: addresses rise, and no cell equals what an unlisted address reads as. -/
def MemorySound (s : State) : Prop := s.mem.wf = true

/-- No general register of a handler's thread, and no entry of a core's file, is read through register 0 (R57). -/
def ZeroSound (s : State) : Prop := ∀ w t, s.thread w = some t → s.readG w t 0 = 0

end Sys2Proof
end

