-- ==== Sys2Proof/Certificates/Slice0/Obligations.lean ====
section
/-!
DEFINITION. The statements for the provers, from the numbered rules of the spec. First stand the words that they are said with: what
an instruction names, when it comes to its own effect, and the results that the spec's tables give, written as the tables write
them and apart from the definitions of the machine.
-/
namespace Sys2Proof.Claims
open Sys2Proof.Machine

/-! What an instruction names (R79 to R81, R83, R86): its level, whether it names wide or mask state, the general registers in its
fields, its wide registers, its general sources and destinations. -/

/-- What an instruction names, apart from its bits. -/
structure Names where
  priv : Bool
  wide : Bool
  gs : List Nat
  ws : List Nat
  src : List Nat
  dst : List Nat

/-- General registers only. -/
def gens (gs src dst : List Nat) : Option Names := some ⟨false, false, gs, [], src, dst⟩
/-- Wide or mask state too. -/
def wides (gs ws src dst : List Nat) : Option Names := some ⟨false, true, gs, ws, src, dst⟩
/-- Level S. -/
def sups (gs src dst : List Nat) : Option Names := some ⟨true, false, gs, [], src, dst⟩

/-- What each instruction of 16 or 32 bits names. A command of an engine and a step of the machine name nothing. -/
def namesOf : Instr → Option Names
  | .add d a b | .sub d a b | .and d a b | .or d a b | .xor d a b | .andn d a b | .orn d a b | .xnor d a b | .sll d a b
  | .srl d a b | .sra d a b | .rol d a b | .ror d a b | .seq d a b | .slt d a b | .sltZ d a b | .min d a b | .max d a b
  | .minZ d a b | .maxZ d a b | .mul d a b | .mulh d a b | .mulhZ d a b | .div d a b | .divZ d a b | .rem d a b | .remZ d a b
  | .fadd d a b | .fsub d a b | .fmul d a b | .fdiv d a b | .fmin d a b | .fmax d a b | .feq d a b | .flt d a b | .fle d a b
  | .fsgnj d a b | .ldC d a b | .scq d a b | .amoAdd d a b | .amoAnd d a b | .amoOr d a b | .amoXor d a b | .amoMin d a b
  | .amoMax d a b | .amoMinZ d a b | .amoMaxZ d a b | .amoSwp d a b | .amoFadd d a b | .ldp d a b | .editIns d a b
  | .editChg d a b | .ctxFork d a b | .ctxRope d a b | .posXl d a b =>
    gens [d.toNat, a.toNat, b.toNat] [a.toNat, b.toNat] [d.toNat]
  | .csel d a b | .fmadd d a b | .fmsub d a b | .fnmadd d a b | .fnmsub d a b =>
    gens [d.toNat, a.toNat, b.toNat] [d.toNat, a.toNat, b.toNat] [d.toNat]
  | .amoCas d a b => gens [d.toNat, a.toNat, b.toNat] [a.toNat, b.toNat, d.toNat] [d.toNat]
  | .stp d n p => gens [d.toNat, n.toNat, p.toNat] [d.toNat, n.toNat, p.toNat] []
  | .ctxRd d a b => gens [d.toNat, a.toNat, b.toNat] [a.toNat, b.toNat] [d.toNat, d.toNat + 1]
  | .clz d a | .ctz d a | .popc d a | .bswap d a | .fsqrt d a | .fclass d a | .fabs d a | .fneg d a | .exp2 d a | .log2 d a
  | .rcp d a | .rsqrt d a | .sin d a | .cos d a | .sint d a | .cost d a | .tanh d a | .sigm d a | .erf d a | .ldSync d a
  | .ldTake d a | .lrw d a | .lockL d a | .thrSpawn d a | .nestClaim d a | .ctxOpen d a | .editDel d a | .dmapGet d a =>
    gens [d.toNat, a.toNat] [a.toNat] [d.toNat]
  | .addi d a _ | .andi d a _ | .ori d a _ | .xori d a _ | .slti d a _ | .sltiZ d a _ | .jalr d a _ =>
    gens [d.toNat, a.toNat] [a.toNat] [d.toNat]
  | .slli d a _ | .srli d a _ | .srai d a _ | .roli d a _ => gens [d.toNat, a.toNat] [a.toNat] [d.toNat]
  | .ldB d n _ | .ldH d n _ | .ldW d n _ | .ldD d n _ | .ldBZ d n _ | .ldHZ d n _ | .ldWZ d n _ =>
    gens [d.toNat, n.toNat] [n.toNat] [d.toNat]
  | .stB d n _ | .stH d n _ | .stW d n _ | .stD d n _ => gens [d.toNat, n.toNat] [d.toNat, n.toNat] []
  | .stFill d n | .stWfill d n => gens [d.toNat, n.toNat] [d.toNat, n.toNat] []
  | .cvt d a _ _ _ => gens [d.toNat, a.toNat] [a.toNat] [d.toNat]
  | .lui d _ | .addpc d _ | .jal d _ => gens [d.toNat] [] [d.toNat]
  | .lhi d _ => gens [d.toNat] [d.toNat] [d.toNat]
  | .beq a b _ | .bne a b _ | .blt a b _ | .bge a b _ | .bltZ a b _ | .bgeZ a b _ => gens [a.toNat, b.toNat] [a.toNat, b.toNat] []
  | .msgSend a b | .msgSendw a b => gens [a.toNat, b.toNat] [a.toNat] []
  | .detOpen a b | .taskSend a b | .retireS a b | .detList a b | .detWait a b | .barInit a b
  | .nestSet a b | .dmapMov a b | .settle a b | .beamMap a b | .ptbFill a b => gens [a.toNat, b.toNat] [a.toNat, b.toNat] []
  | .feClr a | .feSet a | .rsvDrop a | .detDone a | .unlockL a | .taskPush a | .thrWake a | .barArr a | .barWait a | .barAw a
  | .nestEnd a | .ctxClose a | .ctxRel a | .ptbInv a => gens [a.toNat] [a.toNat] []
  | .agSet _ a => gens [a.toNat] [a.toNat] []
  | .gangForm a _ => gens [a.toNat] [a.toNat] []
  | .pushm _ a _ => gens [a.toNat] [a.toNat] []
  | .tcfgSet a _ => gens [a.toNat] [a.toNat] []
  | .accLoad a _ => gens [a.toNat] [a.toNat] []
  | .bind d _ _ => gens [d.toNat] [] []
  | .msgBind d _ _ _ => gens [d.toNat] [] []
  | .agGet d _ _ => gens [d.toNat] [] [d.toNat]
  | .engWait _ d | .engPoll _ d => gens [d.toNat] [] [d.toNat]
  | .tcfgGet d _ => gens [d.toNat] [] [d.toNat]
  | .tstamp d | .nestNext d => gens [d.toNat] [] [d.toNat]
  | .mfs d _ => gens [d.toNat] [] [d.toNat]
  | .unbind _ | .fence _ | .acq _ | .rel _ | .fenceC _ | .gangEnd | .gangBar | .msgWait _ | .retire | .taskAbort | .thrExit
  | .thrPark | .trap _ | .hret | .nop | .wfe => gens [] [] []
  | .cMv d a => gens [d.toNat, a.toNat, 0] [a.toNat, 0] [d.toNat]
  | .cAdd d a | .cSub d a | .cAnd d a => gens [d.toNat, d.toNat, a.toNat] [d.toNat, a.toNat] [d.toNat]
  | .cAddi d _ => gens [d.toNat, d.toNat] [d.toNat] [d.toNat]
  | .cLi d _ => gens [d.toNat, 0] [0] [d.toNat]
  | .cLdW d a _ | .cLdD d a _ => gens [d.toNat, a.toNat] [a.toNat] [d.toNat]
  | .cStW d a _ | .cStD d a _ => gens [d.toNat, a.toNat] [d.toNat, a.toNat] []
  | .cSll d _ => gens [d.toNat, d.toNat] [d.toNat] [d.toNat]
  | .cBeqz a _ | .cBnez a _ => gens [a.toNat, 0] [a.toNat, 0] []
  | .cJ _ => gens [0] [] [0]
  | .cRet a => gens [0, a.toNat] [a.toNat] [0]
  | .cNop => gens [] [] []
  | .wadd w a b _ _ | .wsub w a b _ _ | .wmul w a b _ _ | .wmulh w a b _ _ | .wmin w a b _ _ | .wmax w a b _ _
  | .wavg w a b _ _ | .wsll w a b _ _ | .wsrl w a b _ _ | .wsra w a b _ _ | .wand w a b _ _ | .wor w a b _ _
  | .wxor w a b _ _ | .wandn w a b _ _ | .wadds w a b _ _ | .wfadd w a b _ _ | .wfsub w a b _ _ | .wfmul w a b _ _
  | .wfma w a b _ _ | .wfmin w a b _ _ | .wfmax w a b _ _ | .wshuf w a b _ _ | .wzip w a b _ _ | .wsel w a b _ _
  | .wnarrow w a b _ _ => wides [] [w.toNat, a.toNat, b.toNat] [] []
  | .wabs w a _ _ | .wfabs w a _ _ | .wfneg w a _ _ => wides [] [w.toNat, a.toNat] [] []
  | .wunzip w a _ _ => wides [] [w.toNat, a.toNat, a.toNat] [] []
  | .wcmpeq _ a b _ _ | .wcmplt _ a b _ _ | .wcmple _ a b _ _ | .wfcmpeq _ a b _ _ | .wfcmplt _ a b _ _ | .wfcmple _ a b _ _ =>
    wides [] [a.toNat, b.toNat] [] []
  | .kand _ _ _ | .kor _ _ _ | .kxor _ _ _ | .knot _ _ => wides [] [] [] []
  | .kpop d _ => wides [d.toNat] [] [] [d.toNat]
  | .wbcast w a _ _ => wides [a.toNat] [w.toNat] [a.toNat] []
  | .wins w a b _ => wides [a.toNat, b.toNat] [w.toNat] [a.toNat, b.toNat] []
  | .wext d a b _ => wides [d.toNat, b.toNat] [a.toNat] [b.toNat] [d.toNat]
  | .wrot w a b _ _ => wides [b.toNat] [w.toNat, a.toNat] [b.toNat] []
  | .wrsum d a _ _ | .wrmin d a _ _ | .wrmax d a _ _ | .wrfsum d a _ _ | .wrfmin d a _ _ | .wrfmax d a _ _ =>
    wides [d.toNat] [a.toNat] [] [d.toNat]
  | .wcvt w a _ _ _ => wides [] [w.toNat, a.toNat] [] []
  | .wwiden w a _ _ _ => wides [] [w.toNat, a.toNat] [] []
  | .wenc w a _ => wides [] [w.toNat, a.toNat] [] []
  | .wdec w a _ _ => wides [] [w.toNat, a.toNat] [] []
  | .wld w n _ | .wst w n _ | .wldSync w n _ | .wstFill w n _ => wides [n.toNat] [w.toNat] [n.toNat] []
  | .push w _ _ => wides [] [w.toNat] [] []
  | .redSend a _ _ => wides [] [a.toNat] [] []
  | .redRecv w => wides [] [w.toNat] [] []
  | .mts d sel =>
    match sprAccess sel with
    | .rw => gens [d.toNat] [d.toNat] []
    | .sOnly => sups [d.toNat] [d.toNat] []
    | .ro => sups [] [] []
  | .hcall d _ => sups [d.toNat] [] []
  | .tlbInv d a => sups [d.toNat, a.toNat] [a.toNat, d.toNat] []
  | .tlbAll a | .istInv a => sups [a.toNat] [a.toNat] []
  | .klog a _ => sups [a.toNat] [a.toNat] []
  | .tsave a _ => sups [a.toNat] [a.toNat] []
  | .trest d a => sups [d.toNat, a.toNat] [a.toNat] [d.toNat]
  | .tret | .tlbAllPart => sups [] [] []
  | _ => none

/-- What an instruction names, with its bits. -/
def useOf (i : Instr) : Option Use := (namesOf i).map fun n =>
  { enc := enc i, priv := n.priv, wide := n.wide, gs := n.gs, ws := n.ws, src := n.src, dst := n.dst }

/-- The conditions of checks 1, 3, 4 and 5 of R86, each in its own words: a lantern core executes only what R359 lists, the level of
R83, wide or mask state for compute threads only (R55), and every register within the thread's holding (R57, R62), where 120 to
127 are the shadow registers in handler state (R63). -/
def LanternOk (u : Use) (w : Who) : Prop := isLantern w.core = true → lanternRuns u.enc = true
/-- Check 3. -/
def LevelOk (u : Use) (t : Thread) : Prop := u.priv = true → t.level ≠ .u
/-- Check 4. -/
def WideOk (u : Use) (t : Thread) : Prop := u.wide = true → t.compute = true
/-- Check 5. -/
def RegsOk (u : Use) (t : Thread) : Prop :=
  (∀ n ∈ u.gs, t.gbase + n < t.glim ∨ (t.handler = true ∧ 120 ≤ n)) ∧ ∀ n ∈ u.ws, n < t.wcount

/-- The machine once an instruction has passed the checks: a gang leader has forwarded it (R153), and a deferred read holds the port
(R58). -/
def ahead (u : Use) (s : State) (t : Thread) : State := (s.lead s.cur t u.enc).holdPort s.cur t u.src

/-- An instruction comes to its own effect: the slot holds the thread t, it passes the checks of R86, and the streams that it names
give and take their elements (R279). `s1` is the machine before the pops, `s2` after them, and `rd` gives its source registers. -/
structure Issues (i : Instr) (s : State) (t : Thread) (s1 s2 : State) (rd : Nat → Dword) : Prop where
  thread : s.thread s.cur = some t
  runs : ∃ u vals, useOf i = some u ∧ LanternOk u s.cur ∧ LevelOk u t ∧ WideOk u t ∧ RegsOk u t ∧ s1 = ahead u s t
    ∧ s1.outStops s.cur t u.dst = none ∧ s1.pops s.cur t u.src [] = .ok (s2, vals)
    ∧ rd = fun n => ((vals.find? fun p => p.1 == n).map (·.2)).getD (s2.readG s.cur t n)

/-- The writes of a result of fixed latency with its cycle, and those of a return that reaches the register files now (R60). -/
def fixedWrite (due slot : Nat) (regs : List (RegDest × Wide)) : RegWrite := { due, slot, kind := .fixed, regs }
/-- A return. -/
def returnWrite (s : State) (w : Who) (regs : List (RegDest × Wide)) : RegWrite := { due := s.cycle, slot := w.slot, kind := .ret, regs }

/-- A result of fixed latency is on its way to a register file (R58, R60): issued in cycle c it is written in c + 7, and one cycle later
behind a deferred read. -/
def sent (s : State) (w : Who) (d : RegDest) (v : Wide) : State :=
  s.modCore w.core fun c =>
    { c with writes := c.writes ++ [fixedWrite (s.cycle + 7 + c.late) w.slot [(d, v)]] }

/-- The thread goes on behind the instruction. -/
def goOn (s : State) (w : Who) (t : Thread) : State := s.modThread w fun x => { x with pc := t.pc + BitVec.ofNat 16 t.ilen }

/-- A general register is written with the instruction's latency, and the thread goes on. -/
def wrote (s2 : State) (w : Who) (t : Thread) (d : Nat) (v : Dword) : State := goOn (s2.writeG w d v) w t

/-- A thread leaves rotation with an instruction that something else completes (R72). -/
def waits (s2 : State) (w : Who) (x : Wait) (since : Nat) : State := s2.modThread w fun t => { t with run := .waiting x since }

/-- A register number that names a shadow register (R63). -/
def isShadow (t : Thread) (n : Nat) : Prop := t.handler = true ∧ 120 ≤ n

/-- No stream is bound to a register of a slot (R278). -/
def Unbound (s : State) (w : Who) (t : Thread) (n : Nat) : Prop := isShadow t n ∨ (s.core w.core).boundGen w.slot n = none

/-- What a general register holds (R56, R57, R63): g0 is zero, in handler state 120 to 127 are h0 to h7, and gN is entry
gbase + N of the core's file. -/
def regValue (s : State) (w : Who) (t : Thread) (n : Nat) : Dword :=
  if n = 0 then 0
  else if t.handler = true ∧ 120 ≤ n then smGetD t.hregs (n - 120) 0
  else smGetD (s.core w.core).gfile (t.gbase + n) 0

/-- Where a thread keeps a general register other than g0 (R56, R57, R63). -/
def homeOf (t : Thread) (n : Nat) : RegDest := if t.handler = true ∧ 120 ≤ n then .shadow (n - 120) else .file (t.gbase + n)

/-- Distinct registers of a bank among sources, g0 and the shadow registers aside (R58). -/
def bankReads (t : Thread) (src : List Nat) (b : Nat) : Nat :=
  (src.eraseDups.filter fun n => n != 0 && !(t.handler && decide (120 ≤ n)) && n % 4 == b).length

/-- What stays when one core's state changes: every other core, and everything outside the cores. -/
def OnlyCore (s s' : State) (core : Nat) : Prop :=
  (∀ c, c ≠ core → s'.core c = s.core c) ∧ s' = { s with cores := s'.cores }

/-- The halfwords from a thread's pc to the end of what one instruction can take (R78). -/
def halvesAt (s : State) (core : Nat) (pc : Half) : List Half :=
  let h := smGetD (s.core core).ist (pc.toNat / 2) 0
  if pc.toNat / 2 + 1 < 2 ^ 15 then [h, smGetD (s.core core).ist (pc.toNat / 2 + 1) 0] else [h]

/-- The instruction's bits as `tval` takes them (R86), from the halfwords at the pc. -/
def bitsAt : List Half → Dword
  | [h, g] => if h.getLsbD 15 then (h ++ g).zeroExtend 64 else h.zeroExtend 64
  | [h] => h.zeroExtend 64
  | _ => 0

/-! Results of the scalar integer instructions (R113 to R121), as numbers. A register that is read is `r n`. -/

/-- A destination and the value that goes to it. -/
abbrev IntResult := Option (Nat × ((Nat → Dword) → Dword))

/-- From two registers. -/
def of2 (d a b : Nat) (f : Dword → Dword → Dword) : IntResult := some (d, fun r => f (r a) (r b))
/-- From one register. -/
def of1 (d a : Nat) (f : Dword → Dword) : IntResult := some (d, fun r => f (r a))
/-- A natural number modulo 2^64. -/
def nat64 (n : Nat) : Dword := BitVec.ofNat 64 n
/-- An integer modulo 2^64. -/
def int64 (n : Int) : Dword := BitVec.ofInt 64 n
/-- 1 or 0. -/
def truth (p : Prop) [Decidable p] : Dword := if p then 1 else 0
/-- A shift amount: bits [5:0]. -/
def amount (b : Dword) : Nat := b.toNat % 64

/-- Shifts and rotates by n below 64. -/
def shl (a : Dword) (n : Nat) : Dword := nat64 (a.toNat * 2 ^ n)
/-- Zeros come in. -/
def shr (a : Dword) (n : Nat) : Dword := nat64 (a.toNat / 2 ^ n)
/-- Copies of bit 63 come in. -/
def sar (a : Dword) (n : Nat) : Dword := int64 (a.toInt / 2 ^ n)
/-- The bits that leave at the top come in below. -/
def rotl (a : Dword) (n : Nat) : Dword := nat64 (a.toNat * 2 ^ n % 2 ^ 64 + a.toNat / 2 ^ (64 - n))

/-- R114 and R115 (register operations), with the compact forms of R81. -/
def registerResult : Instr → IntResult
  | .add d a b => of2 d.toNat a.toNat b.toNat fun x y => nat64 (x.toNat + y.toNat)
  | .sub d a b => of2 d.toNat a.toNat b.toNat fun x y => int64 (x.toNat - y.toNat)
  | .and d a b => of2 d.toNat a.toNat b.toNat fun x y => nat64 (x.toNat &&& y.toNat)
  | .or d a b => of2 d.toNat a.toNat b.toNat fun x y => nat64 (x.toNat ||| y.toNat)
  | .xor d a b => of2 d.toNat a.toNat b.toNat fun x y => nat64 (x.toNat ^^^ y.toNat)
  | .andn d a b => of2 d.toNat a.toNat b.toNat fun x y => nat64 (x.toNat &&& (2 ^ 64 - 1 - y.toNat))
  | .orn d a b => of2 d.toNat a.toNat b.toNat fun x y => nat64 (x.toNat ||| (2 ^ 64 - 1 - y.toNat))
  | .xnor d a b => of2 d.toNat a.toNat b.toNat fun x y => nat64 (2 ^ 64 - 1 - (x.toNat ^^^ y.toNat))
  | .sll d a b => of2 d.toNat a.toNat b.toNat fun x y => shl x (amount y)
  | .srl d a b => of2 d.toNat a.toNat b.toNat fun x y => shr x (amount y)
  | .sra d a b => of2 d.toNat a.toNat b.toNat fun x y => sar x (amount y)
  | .rol d a b => of2 d.toNat a.toNat b.toNat fun x y => rotl x (amount y)
  | .ror d a b => of2 d.toNat a.toNat b.toNat fun x y => rotl x ((64 - amount y) % 64)
  | .seq d a b => of2 d.toNat a.toNat b.toNat fun x y => truth (x.toNat = y.toNat)
  | .slt d a b => of2 d.toNat a.toNat b.toNat fun x y => truth (x.toInt < y.toInt)
  | .sltZ d a b => of2 d.toNat a.toNat b.toNat fun x y => truth (x.toNat < y.toNat)
  | .min d a b => of2 d.toNat a.toNat b.toNat fun x y => int64 (min x.toInt y.toInt)
  | .max d a b => of2 d.toNat a.toNat b.toNat fun x y => int64 (max x.toInt y.toInt)
  | .minZ d a b => of2 d.toNat a.toNat b.toNat fun x y => nat64 (min x.toNat y.toNat)
  | .maxZ d a b => of2 d.toNat a.toNat b.toNat fun x y => nat64 (max x.toNat y.toNat)
  | .mul d a b => of2 d.toNat a.toNat b.toNat fun x y => nat64 (x.toNat * y.toNat)
  | .mulh d a b => of2 d.toNat a.toNat b.toNat fun x y => int64 (x.toInt * y.toInt / 2 ^ 64)
  | .mulhZ d a b => of2 d.toNat a.toNat b.toNat fun x y => nat64 (x.toNat * y.toNat / 2 ^ 64)
  | .div d a b => of2 d.toNat a.toNat b.toNat fun x y =>
      if y.toNat = 0 then nat64 (2 ^ 64 - 1) else int64 (x.toInt.tdiv y.toInt)
  | .divZ d a b => of2 d.toNat a.toNat b.toNat fun x y =>
      if y.toNat = 0 then nat64 (2 ^ 64 - 1) else nat64 (x.toNat / y.toNat)
  | .rem d a b => of2 d.toNat a.toNat b.toNat fun x y =>
      if y.toNat = 0 then x else int64 (x.toInt - x.toInt.tdiv y.toInt * y.toInt)
  | .remZ d a b => of2 d.toNat a.toNat b.toNat fun x y =>
      if y.toNat = 0 then x else nat64 (x.toNat - x.toNat / y.toNat * y.toNat)
  | .clz d a => of1 d.toNat a.toNat fun x => nat64 ((List.range 64).takeWhile fun i => x.toNat < 2 ^ (63 - i)).length
  | .ctz d a => of1 d.toNat a.toNat fun x => nat64 ((List.range 64).takeWhile fun i => x.toNat % 2 ^ (i + 1) = 0).length
  | .popc d a => of1 d.toNat a.toNat fun x => nat64 ((List.range 64).map fun i => x.toNat / 2 ^ i % 2).sum
  | .bswap d a => of1 d.toNat a.toNat fun x =>
      nat64 ((List.range 8).map fun i => x.toNat / 2 ^ (8 * i) % 256 * 2 ^ (8 * (7 - i))).sum
  | .csel d a b => some (d.toNat, fun r => if (r d.toNat).toNat ≠ 0 then r a.toNat else r b.toNat)
  | .cMv d a => of2 d.toNat a.toNat 0 fun x y => nat64 (x.toNat + y.toNat)
  | .cAdd d a => of2 d.toNat d.toNat a.toNat fun x y => nat64 (x.toNat + y.toNat)
  | .cSub d a => of2 d.toNat d.toNat a.toNat fun x y => int64 (x.toNat - y.toNat)
  | .cAnd d a => of2 d.toNat d.toNat a.toNat fun x y => nat64 (x.toNat &&& y.toNat)
  | _ => none

/-- R117 and R118 (immediates and constants), with the compact forms of R81. `addpc` reads the pc of the instruction. -/
def immediateResult (pc : Half) : Instr → IntResult
  | .addi d a n => of1 d.toNat a.toNat fun x => int64 (x.toNat + n.toInt)
  | .andi d a n => of1 d.toNat a.toNat fun x => x &&& int64 n.toInt
  | .ori d a n => of1 d.toNat a.toNat fun x => x ||| int64 n.toInt
  | .xori d a n => of1 d.toNat a.toNat fun x => x ^^^ int64 n.toInt
  | .slli d a n => of1 d.toNat a.toNat fun x => shl x n.toNat
  | .srli d a n => of1 d.toNat a.toNat fun x => shr x n.toNat
  | .srai d a n => of1 d.toNat a.toNat fun x => sar x n.toNat
  | .roli d a n => of1 d.toNat a.toNat fun x => rotl x n.toNat
  | .slti d a n => of1 d.toNat a.toNat fun x => truth (x.toInt < n.toInt)
  | .sltiZ d a n => of1 d.toNat a.toNat fun x => truth (x.toNat < (int64 n.toInt).toNat)
  | .lui d n => some (d.toNat, fun _ => int64 (n.toInt * 2 ^ 11))
  | .lhi d n => some (d.toNat, fun r => nat64 ((r d.toNat).toNat * 2 ^ 18 + n.toNat))
  | .addpc d n => some (d.toNat, fun _ => nat64 ((pc.toNat + n.toInt * 2) % 2 ^ 16).toNat)
  | .cAddi d n => of1 d.toNat d.toNat fun x => int64 (x.toNat + n.toInt)
  | .cLi d n => of1 d.toNat 0 fun x => int64 (x.toNat + n.toInt)
  | .cSll d n => of1 d.toNat d.toNat fun x => shl x n.toNat
  | _ => none

/-- A branch (R121): its condition on gA and gB, and its offset in halfwords. -/
def branchCond : Instr → Option (((Nat → Dword) → Prop) × Int)
  | .beq a b x => some (fun r => (r a.toNat).toNat = (r b.toNat).toNat, x.toInt)
  | .bne a b x => some (fun r => (r a.toNat).toNat ≠ (r b.toNat).toNat, x.toInt)
  | .blt a b x => some (fun r => (r a.toNat).toInt < (r b.toNat).toInt, x.toInt)
  | .bge a b x => some (fun r => (r b.toNat).toInt ≤ (r a.toNat).toInt, x.toInt)
  | .bltZ a b x => some (fun r => (r a.toNat).toNat < (r b.toNat).toNat, x.toInt)
  | .bgeZ a b x => some (fun r => (r b.toNat).toNat ≤ (r a.toNat).toNat, x.toInt)
  | .cBeqz a x => some (fun r => (r a.toNat).toNat = (r 0).toNat, x.toInt)
  | .cBnez a x => some (fun r => (r a.toNat).toNat ≠ (r 0).toNat, x.toInt)
  | _ => none

/-- A pc modulo 2^16 (R78). -/
def pcMod (n : Int) : Half := BitVec.ofInt 16 n

/-- The thread goes to a pc. -/
def goTo (s : State) (w : Who) (pc : Half) : State := s.modThread w fun x => { x with pc }

/-- A gang follower's leader alone decides control flow (R154). -/
def isFollower (t : Thread) : Prop := ∃ g, t.gang = some g ∧ g.member ≠ 0

/-! Floating point (R91 to R97, R110, R112, R122 to R129). -/

/-- The flags of R68 that can trap, by bit and cause, in the order in which one is chosen. -/
def trapOrder : List (Nat × Nat) :=
  [(4, cFpInvalid), (3, cFpDivzero), (2, cFpOverflow), (1, cFpUnderflow), (0, cFpInexact), (5, cRange), (6, cIntSat),
   (7, cLongAccSat)]

/-- The cause of an instruction that set the flags g under the enables en, if it traps (R68). -/
def enabledCause (g en : BitVec 9) : Option Nat := (trapOrder.find? fun p => g.getLsbD p.1 && en.getLsbD p.1).map (·.2)

/-- An instruction has made its effect and accrues flags (R68, R112): they join `fflags` in the cycle of its result, the thread goes on,
and it traps, with `tpc` past the instruction, when one that it set is enabled. -/
def accrued (s2 : State) (w : Who) (t : Thread) (g : BitVec 9) : State :=
  let s3 := goOn (if g = 0 then s2 else sent s2 w .orFlags (g.zeroExtend 512)) w t
  match enabledCause g t.fen with
  | some cause => s3.takeTrap w cause 0 (t.pc + BitVec.ofNat 16 t.ilen)
  | none => s3

/-- The low 32 bits of a register (R110). -/
def low32 (v : Dword) : Nat := v.toNat % 2 ^ 32

/-- The rational number that an encoding of a format stands for; none for infinities and NaNs (R92). -/
def finiteVal (f : Fmt) (n : Nat) : Option Rat :=
  match f.decode n with
  | .zero _ => some 0
  | .fin neg m e => some ((if neg then -1 else 1) * (m : Rat) * 2 ^ e)
  | _ => none

/-- Magnitude of a rational number. -/
def mag (q : Rat) : Rat := if q < 0 then -q else q

/-- The largest finite value of a format. -/
def largest (f : Fmt) : Rat := (2 - 2 ^ (-(f.fb : Int))) * 2 ^ (f.bias : Int)

/-- n encodes the exact value q rounded once to a format under a mode (R96). -/
def Rounds (f : Fmt) (rm : BitVec 2) (q : Rat) (n : Nat) : Prop :=
  if rm = 0 then
    if (2 - 2 ^ (-(f.fb : Int) - 1)) * 2 ^ (f.bias : Int) ≤ mag q then f.decode n = .inf (decide (q < 0))
    else ∃ v, finiteVal f n = some v ∧ ∀ m, m < 2 * f.signW → ∀ x, finiteVal f m = some x →
      mag (q - v) ≤ mag (q - x) ∧ (mag (q - v) = mag (q - x) → x ≠ v → n % 2 = 0)
  else if rm = 1 then
    ∃ v, finiteVal f n = some v ∧ mag v ≤ mag q ∧ 0 ≤ v * q ∧ ∀ m, m < 2 * f.signW → ∀ x, finiteVal f m = some x →
      mag x ≤ mag q → 0 ≤ x * q → mag x ≤ mag v
  else if rm = 2 then
    if q < -(largest f) then f.decode n = .inf true
    else ∃ v, finiteVal f n = some v ∧ v ≤ q ∧ ∀ m, m < 2 * f.signW → ∀ x, finiteVal f m = some x → x ≤ q → x ≤ v
  else
    if largest f < q then f.decode n = .inf false
    else ∃ v, finiteVal f n = some v ∧ q ≤ v ∧ ∀ m, m < 2 * f.signW → ∀ x, finiteVal f m = some x → q ≤ x → v ≤ x

/-- The four floating-point formats of R91. -/
def formats : List Fmt := [fmt32, fmt16, fmtBf, fmtE8]

/-- R122, R126: the arithmetic of the FP32 instructions under the thread's rounding mode, as the operation on encodings that
`ExactRounding` relates to exact arithmetic. The result goes to bits [31:0], zeros above (R110). -/
def fpResult (rm : BitVec 2) : Instr → Option (Nat × ((Nat → Dword) → Nat × BitVec 9))
  | .fadd d a b => some (d.toNat, fun r => fmt32.add rm (low32 (r a.toNat)) (low32 (r b.toNat)))
  | .fsub d a b => some (d.toNat, fun r => fmt32.sub rm (low32 (r a.toNat)) (low32 (r b.toNat)))
  | .fmul d a b => some (d.toNat, fun r => fmt32.mul rm (low32 (r a.toNat)) (low32 (r b.toNat)))
  | .fdiv d a b => some (d.toNat, fun r => fmt32.div rm (low32 (r a.toNat)) (low32 (r b.toNat)))
  | .fsqrt d a => some (d.toNat, fun r => fmt32.sqrt rm (low32 (r a.toNat)))
  | .fmadd d a b => some (d.toNat, fun r => fmt32.fma rm false false (low32 (r a.toNat)) (low32 (r b.toNat)) (low32 (r d.toNat)))
  | .fmsub d a b => some (d.toNat, fun r => fmt32.fma rm false true (low32 (r a.toNat)) (low32 (r b.toNat)) (low32 (r d.toNat)))
  | .fnmadd d a b => some (d.toNat, fun r => fmt32.fma rm true true (low32 (r a.toNat)) (low32 (r b.toNat)) (low32 (r d.toNat)))
  | .fnmsub d a b => some (d.toNat, fun r => fmt32.fma rm true false (low32 (r a.toNat)) (low32 (r b.toNat)) (low32 (r d.toNat)))
  | _ => none

/-- An encoding is a NaN (R92), and a signalling one (R93). -/
def isNaN (f : Fmt) (x : Nat) : Bool := decide (f.inf < x % f.signW)
/-- The top fraction bit of a signalling NaN is 0. -/
def isSNaN (f : Fmt) (x : Nat) : Bool := isNaN f x && decide (x % f.signW < f.nan)
/-- NV if a condition holds. -/
def nvIf (p : Bool) : BitVec 9 := if p then 16 else 0

/-- The sign bit of an encoding. -/
def signOf (f : Fmt) (x : Nat) : Nat := x / f.signW % 2
/-- Numbers in their order as integers, the two zeros equal. -/
def order (f : Fmt) (x : Nat) : Int := if signOf f x = 1 then -(x % f.signW : Nat) else (x % f.signW : Nat)
/-- The same with -0 below +0 (R123). -/
def orderZ (f : Fmt) (x : Nat) : Int := if signOf f x = 1 then -(x % f.signW : Nat) - 1 else (x % f.signW : Nat)

/-- `fmin` and `fmax` (R123): `isMax` tells which. -/
def chosen (f : Fmt) (isMax : Bool) (x y : Nat) : Nat × BitVec 9 :=
  (if isNaN f x && isNaN f y then f.nan else if isNaN f x then y else if isNaN f y then x
   else if (if isMax then orderZ f y ≤ orderZ f x else orderZ f x ≤ orderZ f y) then x else y,
   nvIf (isSNaN f x || isSNaN f y))

/-- The tests of the compares (R122). -/
inductive Test where
  | eq | lt | le

/-- A compare (R122): `eq` sets NV for a signalling NaN only. -/
def compared (f : Fmt) (c : Test) (x y : Nat) : Bool × BitVec 9 :=
  let ok := !isNaN f x && !isNaN f y
  match c with
  | .eq => (ok && decide (order f x = order f y), nvIf (isSNaN f x || isSNaN f y))
  | .lt => (ok && decide (order f x < order f y), nvIf (isNaN f x || isNaN f y))
  | .le => (ok && decide (order f x ≤ order f y), nvIf (isNaN f x || isNaN f y))

/-- X with another sign bit (R125). -/
def resigned (f : Fmt) (x sign : Nat) : Nat × BitVec 9 :=
  if isNaN f x then (f.nan, nvIf (isSNaN f x)) else (x % f.signW + sign * f.signW, 0)

/-- A truth value as 1 or 0 with its flags. -/
def asInt (r : Bool × BitVec 9) : Nat × BitVec 9 := (if r.1 then 1 else 0, r.2)

/-- R122, R123, R125: the forms of opcode 0x1C that do not round. -/
def fpExact : Instr → Option (Nat × ((Nat → Dword) → Nat × BitVec 9))
  | .fmin d a b => some (d.toNat, fun r => chosen fmt32 false (low32 (r a.toNat)) (low32 (r b.toNat)))
  | .fmax d a b => some (d.toNat, fun r => chosen fmt32 true (low32 (r a.toNat)) (low32 (r b.toNat)))
  | .feq d a b => some (d.toNat, fun r => asInt (compared fmt32 .eq (low32 (r a.toNat)) (low32 (r b.toNat))))
  | .flt d a b => some (d.toNat, fun r => asInt (compared fmt32 .lt (low32 (r a.toNat)) (low32 (r b.toNat))))
  | .fle d a b => some (d.toNat, fun r => asInt (compared fmt32 .le (low32 (r a.toNat)) (low32 (r b.toNat))))
  | .fabs d a => some (d.toNat, fun r => resigned fmt32 (low32 (r a.toNat)) 0)
  | .fneg d a => some (d.toNat, fun r => resigned fmt32 (low32 (r a.toNat)) (1 - signOf fmt32 (low32 (r a.toNat))))
  | .fsgnj d a b => some (d.toNat, fun r => resigned fmt32 (low32 (r a.toNat)) (signOf fmt32 (low32 (r b.toNat))))
  | _ => none

/-- The kind of an FP32 encoding (R124). -/
def kind32 (x : Nat) : Nat :=
  let m := x % 2 ^ 31
  if m = 0 then 0 else if m < 2 ^ 23 then 1 else if m < 0x7F800000 then 2 else if m = 0x7F800000 then 3
  else if 0x7FC00000 ≤ m then 4 else 5

/-- X is exactly a value of a format: a zero, an infinity, or a finite value that the format has. -/
def Exactly (f : Fmt) (x : Nat) : Prop :=
  x % 2 ^ 31 = 0x7F800000 ∨ ∃ v n, finiteVal fmt32 x = some v ∧ n < 2 * f.signW ∧ finiteVal f n = some v

/-- The class word of R124, bit by bit. -/
def IsClass (x w : Nat) : Prop :=
  w < 2 ^ 8 ∧ w % 8 = kind32 x ∧ w / 8 % 2 = x / 2 ^ 31 % 2
  ∧ (w / 16 % 2 = 1 ↔ ∃ z : Int, finiteVal fmt32 x = some (z : Rat))
  ∧ (w / 32 % 2 = 1 ↔ Exactly fmt16 x) ∧ (w / 64 % 2 = 1 ↔ Exactly fmtBf x) ∧ (w / 128 % 2 = 1 ↔ Exactly fmtE8 x)

/-- A reserved bit of the format descriptor that a thread latched is set (R99): of its word 0, or of the words behind it. -/
def FmtReserved (t : Thread) : Prop := t.fmtWord.toNat / 2 ^ 8 ≠ 0 ∨ t.fmtRest = true

/-- The number of a special function (R131). -/
def sfuOf : Instr → Option (Nat × Nat × Nat)
  | .exp2 d a => some (0, d.toNat, a.toNat)
  | .log2 d a => some (1, d.toNat, a.toNat)
  | .rcp d a => some (2, d.toNat, a.toNat)
  | .rsqrt d a => some (3, d.toNat, a.toNat)
  | .sin d a => some (4, d.toNat, a.toNat)
  | .cos d a => some (5, d.toNat, a.toNat)
  | .sint d a => some (6, d.toNat, a.toNat)
  | .cost d a => some (7, d.toNat, a.toNat)
  | .tanh d a => some (8, d.toNat, a.toNat)
  | .sigm d a => some (9, d.toNat, a.toNat)
  | .erf d a => some (10, d.toNat, a.toNat)
  | _ => none

/-! Wide registers, lanes and masks (R62, R137 to R147). -/

/-- Wide register n of a thread (R62). -/
def wideReg (s : State) (w : Who) (t : Thread) (n : Nat) : Wide := smGetD (s.core w.core).wfile (t.wbase + n) 0
/-- Mask register n of a thread: k0 is all ones (R62). -/
def maskReg (t : Thread) (n : Nat) : Dword := if n = 0 then BitVec.allOnes 64 else smGetD t.kregs n 0
/-- Lanes of a type (R137). -/
def lanes (t : LaneT) : Nat := 512 / t.width
/-- The bits of lane i as they stand. -/
def rawOf (t : LaneT) (x : Wide) (i : Nat) : Nat := x.toNat / 2 ^ (t.width * i) % 2 ^ t.width
/-- Lane i as an instruction reads it: bits [31:19] of an e8m10 container are ignored (R137). -/
def laneOf (t : LaneT) (x : Wide) (i : Nat) : Nat := if t = .e8m10 then rawOf t x i % 2 ^ 19 else rawOf t x i
/-- Lane i is active under mask register k (R137): one mask bit governs two 4-bit lanes. -/
def active (th : Thread) (k : KReg) (t : LaneT) (i : Nat) : Bool := (maskReg th k.toNat).getLsbD (if t.width = 4 then i / 2 else i)
/-- The signed or unsigned integer of a lane (R95). -/
def laneNum (t : LaneT) (x : Nat) : Int := if t.signed && decide (2 ^ (t.width - 1) ≤ x) then (x : Int) - 2 ^ t.width else x
/-- The encoding of an integer modulo 2^w. -/
def wrap (t : LaneT) (v : Int) : Nat := (v % 2 ^ t.width).toNat

/-- v holds f i in each lane i that is on, and what old held in every other lane (R137). -/
def Merged (t : LaneT) (on : Nat → Bool) (old : Wide) (f : Nat → Nat) (v : Wide) : Prop :=
  ∀ i, i < lanes t → rawOf t v i = if on i then f i % 2 ^ t.width else rawOf t old i

/-- The flags of the active lanes together (R137, R140). -/
def together (t : LaneT) (on : Nat → Bool) (g : Nat → BitVec 9) : BitVec 9 :=
  ((List.range (lanes t)).filter on).foldl (fun x i => x ||| g i) 0

/-- R141: the integer lanes, from lane i of wA and of wB as they are encoded. `wabs` reads wA alone. -/
def wideInteger : Instr → Option (Reg4 × Reg4 × Reg4 × KReg × LaneT × (Nat → Nat → Nat × BitVec 9))
  | .wadd w a b k t => some (w, a, b, k, t, fun x y => (wrap t (laneNum t x + laneNum t y), 0))
  | .wsub w a b k t => some (w, a, b, k, t, fun x y => (wrap t (laneNum t x - laneNum t y), 0))
  | .wmul w a b k t => some (w, a, b, k, t, fun x y => (wrap t (laneNum t x * laneNum t y), 0))
  | .wmulh w a b k t => some (w, a, b, k, t, fun x y => (wrap t (laneNum t x * laneNum t y / 2 ^ t.width), 0))
  | .wmin w a b k t => some (w, a, b, k, t, fun x y => (wrap t (min (laneNum t x) (laneNum t y)), 0))
  | .wmax w a b k t => some (w, a, b, k, t, fun x y => (wrap t (max (laneNum t x) (laneNum t y)), 0))
  | .wabs w a k t => some (w, a, a, k, t, fun x _ => (wrap t (laneNum t x).natAbs, 0))
  | .wavg w a b k t => some (w, a, b, k, t, fun x y => (wrap t ((laneNum t x + laneNum t y + 1) / 2), 0))
  | .wsll w a b k t => some (w, a, b, k, t, fun x c => (if t.width ≤ c then 0 else x * 2 ^ c % 2 ^ t.width, 0))
  | .wsrl w a b k t => some (w, a, b, k, t, fun x c => (if t.width ≤ c then 0 else x / 2 ^ c, 0))
  | .wsra w a b k t => some (w, a, b, k, t, fun x c =>
      let v : Int := if 2 ^ (t.width - 1) ≤ x then (x : Int) - 2 ^ t.width else x
      (wrap t (if t.width ≤ c then (if v < 0 then -1 else 0) else v / 2 ^ c), 0))
  | .wand w a b k t => some (w, a, b, k, t, fun x y => (x &&& y, 0))
  | .wor w a b k t => some (w, a, b, k, t, fun x y => (x ||| y, 0))
  | .wxor w a b k t => some (w, a, b, k, t, fun x y => (x ^^^ y, 0))
  | .wandn w a b k t => some (w, a, b, k, t, fun x y => (x &&& (2 ^ t.width - 1 - y), 0))
  | .wadds w a b k t => some (w, a, b, k, t, fun x y =>
      let v := laneNum t x + laneNum t y
      let lo : Int := if t.signed then -(2 ^ (t.width - 1)) else 0
      let hi : Int := if t.signed then 2 ^ (t.width - 1) - 1 else 2 ^ t.width - 1
      (wrap t (max lo (min hi v)), if lo ≤ v ∧ v ≤ hi then 0 else 64))
  | _ => none

/-- R142: the floating-point lanes, from lane i of wA, wB and the old wD. -/
def wideFloat (rm : BitVec 2) : Instr → Option (Reg4 × Reg4 × Reg4 × KReg × LaneT × (Nat → Nat → Nat → Nat × BitVec 9))
  | .wfadd w a b k t => some (w, a, b, k, t, fun x y _ => t.fmt.add rm x y)
  | .wfsub w a b k t => some (w, a, b, k, t, fun x y _ => t.fmt.sub rm x y)
  | .wfmul w a b k t => some (w, a, b, k, t, fun x y _ => t.fmt.mul rm x y)
  | .wfma w a b k t => some (w, a, b, k, t, fun x y z => t.fmt.fma rm false false x y z)
  | .wfmin w a b k t => some (w, a, b, k, t, fun x y _ => chosen t.fmt false x y)
  | .wfmax w a b k t => some (w, a, b, k, t, fun x y _ => chosen t.fmt true x y)
  | .wfabs w a k t => some (w, a, a, k, t, fun x _ _ => resigned t.fmt x 0)
  | .wfneg w a k t => some (w, a, a, k, t, fun x _ _ => resigned t.fmt x (1 - signOf t.fmt x))
  | _ => none

/-- R143: the compares, from lane i of wA and of wB. -/
def wideCompare : Instr → Option (KReg × Reg4 × Reg4 × KReg × LaneT × (Nat → Nat → Bool × BitVec 9))
  | .wcmpeq d a b k t => some (d, a, b, k, t, fun x y => (decide (laneNum t x = laneNum t y), 0))
  | .wcmplt d a b k t => some (d, a, b, k, t, fun x y => (decide (laneNum t x < laneNum t y), 0))
  | .wcmple d a b k t => some (d, a, b, k, t, fun x y => (decide (laneNum t x ≤ laneNum t y), 0))
  | .wfcmpeq d a b k t => some (d, a, b, k, t, fun x y => compared t.fmt .eq x y)
  | .wfcmplt d a b k t => some (d, a, b, k, t, fun x y => compared t.fmt .lt x y)
  | .wfcmple d a b k t => some (d, a, b, k, t, fun x y => compared t.fmt .le x y)
  | _ => none

/-- R143: the mask operations, on all 64 bits. -/
def maskOp : Instr → Option (KReg × (Thread → Dword))
  | .kand d a b => some (d, fun t => maskReg t a.toNat &&& maskReg t b.toNat)
  | .kor d a b => some (d, fun t => maskReg t a.toNat ||| maskReg t b.toNat)
  | .kxor d a b => some (d, fun t => maskReg t a.toNat ^^^ maskReg t b.toNat)
  | .knot d a => some (d, fun t => ~~~ maskReg t a.toNat)
  | _ => none

/-- R144: lane moves into wD: the lane that goes to lane i, from a reader of wide registers and one of general registers. -/
def laneMove : Instr → Option (Reg4 × LaneT × (Thread → Nat → Bool) × ((Nat → Wide) → (Nat → Dword) → Nat → Nat))
  | .wbcast w a k t => some (w, t, fun th => active th k t, fun _ r _ =>
      if t = .e8m10 then (r a.toNat).toNat % 2 ^ 19 else (r a.toNat).toNat % 2 ^ t.width)
  | .wshuf w a b k t => some (w, t, fun th => active th k t, fun x _ i => laneOf t (x a.toNat) (laneOf t (x b.toNat) i % lanes t))
  | .wrot w a b k t => some (w, t, fun th => active th k t, fun x r i =>
      laneOf t (x a.toNat) ((i + (r b.toNat).toNat % lanes t) % lanes t))
  | .wzip w a b k t => some (w, t, fun th => active th k t, fun x _ i =>
      if i % 2 = 0 then laneOf t (x a.toNat) (i / 2) else laneOf t (x b.toNat) (i / 2))
  | .wunzip w a k t => some (w, t, fun th => active th k t, fun x _ i =>
      if i < lanes t / 2 then laneOf t (x a.toNat) (2 * i) else laneOf t (x a.toNat) (2 * (i - lanes t / 2) + 1))
  | _ => none

/-- The active lanes of a wide register in ascending order (R145). -/
def activeOf (th : Thread) (k : KReg) (t : LaneT) (x : Wide) : List Nat :=
  ((List.range (lanes t)).filter fun i => active th k t i).map fun i => laneOf t x i

/-- The largest and smallest integer of a type (R145). -/
def typeMax (t : LaneT) : Int := if t.signed then 2 ^ (t.width - 1) - 1 else 2 ^ t.width - 1
/-- The smallest one. -/
def typeMin (t : LaneT) : Int := if t.signed then -(2 ^ (t.width - 1)) else 0

/-- R145: the integer reductions, from the integers of the active lanes. -/
def reduction : Instr → Option (Reg4 × Reg4 × KReg × LaneT × (List Int → Int))
  | .wrsum d a k t => some (d, a, k, t, fun l => l.sum)
  | .wrmin d a k t => some (d, a, k, t, fun l => l.foldr min (typeMax t))
  | .wrmax d a k t => some (d, a, k, t, fun l => l.foldr max (typeMin t))
  | _ => none

/-- R145: the floating-point reductions: the combination of the tree, and the result for no lane. -/
def floatReduction (rm : BitVec 2) : Instr → Option (Reg4 × Reg4 × KReg × LaneT × (Nat → Nat → Nat × BitVec 9) × Nat)
  | .wrfsum d a k t => some (d, a, k, t, fmt32.add rm, 0)
  | .wrfmin d a k t => some (d, a, k, t, chosen fmt32 false, 0x7F800000)
  | .wrfmax d a k t => some (d, a, k, t, chosen fmt32 true, 0xFF800000)
  | _ => none

/-- One level of the pairwise tree (R104): elements 2j and 2j + 1 combine, an odd last one passes up; with the flags of the level. -/
def pairUp (f : Nat → Nat → Nat × BitVec 9) : List Nat → List Nat × BitVec 9
  | x :: y :: l => ((f x y).1 :: (pairUp f l).1, (f x y).2 ||| (pairUp f l).2)
  | l => (l, 0)

/-- The tree in at most n levels. -/
def tree (f : Nat → Nat → Nat × BitVec 9) : Nat → List Nat → Nat × BitVec 9
  | 0, l => (l.headD 0, 0)
  | n + 1, l => if l.length ≤ 1 then (l.headD 0, 0) else ((tree f n (pairUp f l).1).1, (pairUp f l).2 ||| (tree f n (pairUp f l).1).2)

/-! Memory (R264 to R269, R148 to R150). -/

/-- A byte of a core's local store. -/
def localByte (s : State) (core o : Nat) : Nat := (smGetD (s.core core).lstore (o / 4) 0).toNat / 2 ^ (8 * (o % 4)) % 2 ^ 8
/-- n bytes from an offset as a number, the lowest address first (R6). -/
def localNum (s : State) (core o : Nat) : Nat → Nat
  | 0 => 0
  | n + 1 => localByte s core o + 2 ^ 8 * localNum s core (o + 1) n
/-- The full/empty bit of a word of a core's local store: a bit not listed is full (R269). -/
def full (s : State) (core i : Nat) : Bool := smGetD (s.core core).fe i true
/-- An address of a device core's own local store (R264), and its offset there. -/
def OwnLocal (core : Nat) (va : Dword) (off : Nat) : Prop :=
  isLantern core = false ∧ va.toNat = 0xFFFFFFFFF0000000 + off ∧ off < 393216
/-- No word of a span is poisoned (R397). -/
def CleanSpan (s : State) (core o n : Nat) : Prop := ∀ p ∈ (s.core core).poison, p.1 * 4 + 4 ≤ o / 4 * 4 ∨ o + n ≤ p.1 * 4

/-- n bytes of a register as a load extends them (R266). -/
def extended (n : Nat) (signed : Bool) (v : Nat) : Dword :=
  if signed && decide (2 ^ (8 * n - 1) ≤ v % 2 ^ (8 * n)) then int64 ((v % 2 ^ (8 * n) : Nat) - 2 ^ (8 * n)) else nat64 (v % 2 ^ (8 * n))

/-- An effective address (R266): base plus a signed number of elements, modulo 2^64. -/
def effective (base : Dword) (e : Int) (n : Nat) : Dword := int64 (base.toNat + e * n)

/-- The loads of general registers (R266, R81): destination, base register, offset in elements, size, and whether signed. -/
def loadOf : Instr → Option (Nat × Nat × Int × Nat × Bool)
  | .ldB d n i => some (d.toNat, n.toNat, i.toInt, 1, true)
  | .ldH d n i => some (d.toNat, n.toNat, i.toInt, 2, true)
  | .ldW d n i => some (d.toNat, n.toNat, i.toInt, 4, true)
  | .ldD d n i => some (d.toNat, n.toNat, i.toInt, 8, true)
  | .ldBZ d n i => some (d.toNat, n.toNat, i.toInt, 1, false)
  | .ldHZ d n i => some (d.toNat, n.toNat, i.toInt, 2, false)
  | .ldWZ d n i => some (d.toNat, n.toNat, i.toInt, 4, false)
  | .cLdW d a i => some (d.toNat, a.toNat, i.toNat, 4, true)
  | .cLdD d a i => some (d.toNat, a.toNat, i.toNat, 8, true)
  | _ => none

/-- The stores of general registers (R266, R81): source, base register, offset in elements, and size. -/
def storeOf : Instr → Option (Nat × Nat × Int × Nat)
  | .stB d n i => some (d.toNat, n.toNat, i.toInt, 1)
  | .stH d n i => some (d.toNat, n.toNat, i.toInt, 2)
  | .stW d n i => some (d.toNat, n.toNat, i.toInt, 4)
  | .stD d n i => some (d.toNat, n.toNat, i.toInt, 8)
  | .cStW d a i => some (d.toNat, a.toNat, i.toNat, 4)
  | .cStD d a i => some (d.toNat, a.toNat, i.toNat, 8)
  | _ => none

/-- The address and size of every store and load of general registers, with the two policy forms (R268). -/
def accessOf (rd : Nat → Dword) (i : Instr) : Option (Dword × Nat) :=
  match i with
  | .ldp _ n _ | .stp _ n _ => some (rd n.toNat, 8)
  | _ =>
    match loadOf i, storeOf i with
    | some (_, n, e, z, _), _ => some (effective (rd n) e z, z)
    | none, some (_, n, e, z) => some (effective (rd n) e z, z)
    | none, none => none

/-- `ldp` and `stp` with a reserved bit of the policy operand set (R267). -/
def badPolicy (rd : Nat → Dword) : Instr → Prop
  | .ldp _ _ p | .stp _ _ p => (rd p.toNat).toNat % 2 ^ 32 / 2 ^ 18 ≠ 0
  | _ => False

/-- Only the given bytes of a core's local store have changed, and no full/empty bit (R213). -/
def LocalFrame (s s' : State) (core o n : Nat) : Prop :=
  (∀ a, a < o ∨ o + n ≤ a → localByte s' core a = localByte s core a)
  ∧ (∀ c a, c ≠ core → localByte s' c a = localByte s c a) ∧ (∀ c i, full s' c i = full s c i) ∧ s'.mem = s.mem

/-- The full/empty forms (R269): what each is, its destination, its address register, and its source. -/
def syncOf : Instr → Option (SyncOp × Nat × Nat × Nat)
  | .ldSync d n => some (.ldSync, d.toNat, n.toNat, d.toNat)
  | .ldTake d n => some (.ldTake, d.toNat, n.toNat, d.toNat)
  | .stFill d n => some (.stFill, d.toNat, n.toNat, d.toNat)
  | .stWfill d n => some (.stWfill, d.toNat, n.toNat, d.toNat)
  | .feClr n => some (.feClr, 0, n.toNat, 0)
  | .feSet n => some (.feSet, 0, n.toNat, 0)
  | _ => none

/-- The state of the word that a form waits for, if it waits for one. -/
def needs : SyncOp → Option Bool
  | .ldSync | .ldTake => some true
  | .stWfill => some false
  | _ => none

/-- The full/empty bit after a form, from the bit before it. -/
def fillsTo : SyncOp → Bool → Bool
  | .ldSync, b => b
  | .ldTake, _ | .feClr, _ => false
  | .stFill, _ | .stWfill, _ | .feSet, _ => true

/-- The word after a form, from the word before it and the source. -/
def wordTo : SyncOp → Nat → Nat → Nat
  | .stFill, _, v | .stWfill, _, v => v
  | _, x, _ => x

/-- The forms that read the word. -/
def readsWord : SyncOp → Bool
  | .ldSync | .ldTake => true
  | _ => false

/-! Special registers, traps and the privileged forms (R63, R66 to R68, R374 to R393). -/

/-- What a special register reads (R67, R68, R374), as a number. -/
def sprHolds (s : State) (w : Who) (t : Thread) : Spr → Nat
  | .tid => w.slot % 2 ^ 64
  | .core => w.core % 2 ^ 11
  | .clus => w.core / 2 ^ 4 % 2 ^ 4
  | .die => w.core / 2 ^ 8 % 2 ^ 3
  | .dev => s.host.prov.device.toNat
  | .gidx => t.gidx.toNat
  | .gret => t.gret.toNat
  | .tstamp => t.tstamp.toNat
  | .lidx => t.lidx.toNat
  | .detidx => t.detidx.toNat
  | .prio => t.prio.toNat
  | .inh => t.inh.toNat
  | .fmtp => t.fmtp.toNat
  | .sclp => t.sclp.toNat
  | .mpol => t.mpol.toNat % 2 ^ 18
  | .fmode => t.fen.toNat * 2 ^ 16 + t.frm.toNat
  | .fflags => t.fflags.toNat
  | .gbase => t.gbase % 2 ^ 64
  | .glim => t.glim % 2 ^ 64
  | .mirmask => t.mirmask.toNat
  | .lvec => t.lvec.toNat
  | .cause => t.cause.toNat
  | .tpc => t.tpc.toNat
  | .tval => t.tval.toNat
  | .cyc => (s.core w.core).cyc.toNat
  | .ix0 => t.ix0.toNat
  | .ix1 => t.ix1.toNat
  | .ix2 => t.ix2.toNat

/-- The registers that `mts` never writes (R67): read-only at every level. -/
def ReadOnly : Spr → Prop
  | .gret | .mpol | .fmode | .fflags | .lvec | .detidx | .prio | .gbase | .glim | .mirmask | .cause | .tpc | .tval => False
  | _ => True

/-- A pc field whose bit 0 a write ignores (R67). -/
def evenBits (v : Dword) : Half := BitVec.ofNat 16 (v.toNat % 2 ^ 16 / 2 * 2)

/-- What `mts` writes (R374, R375): the field that holds the register takes its used bits. -/
def sprTakes (sel : Spr) (v : Dword) (t : Thread) : Thread :=
  match sel with
  | .gret => { t with gret := evenBits v }
  | .mpol => { t with mpol := BitVec.ofNat 32 (v.toNat % 2 ^ 18) }
  | .fmode => { t with fen := BitVec.ofNat 9 (v.toNat / 2 ^ 16), frm := BitVec.ofNat 2 v.toNat }
  | .fflags => { t with fflags := BitVec.ofNat 9 v.toNat }
  | .lvec => { t with lvec := evenBits v }
  | .detidx => { t with detidx := v }
  | .prio => { t with prio := BitVec.ofNat 2 v.toNat }
  | .cause => { t with cause := BitVec.ofNat 7 v.toNat }
  | .tpc => { t with tpc := evenBits v }
  | .tval => { t with tval := v }
  | .glim => { t with glim := v.toNat % 2 ^ 12 }
  | .mirmask => { t with mirmask := BitVec.ofNat 64 (v.toNat / 2 * 2) }
  | _ => t

/-- The values that R375 admits. -/
def sprTakesIt (sel : Spr) (v : Dword) (t : Thread) : Prop :=
  match sel with
  | .gbase => v.toNat % 2 ^ 11 = t.gbase
  | .glim => t.gbase + 8 ≤ v.toNat % 2 ^ 12 ∧ v.toNat % 2 ^ 12 ≤ t.gext
  | .mirmask => mirrorExt (BitVec.ofNat 64 (v.toNat / 2 * 2)) (t.glim - t.gbase) ≤ t.galloc - t.gext
  | _ => True

/-- h0 to h2 as a trap leaves them (R63, R384); h3 to h7 keep their values. -/
def TrapRegs (t t' : Thread) (cause : Nat) (tval h2 : Dword) : Prop :=
  smGetD t'.hregs 0 0 = nat64 cause ∧ smGetD t'.hregs 1 0 = tval ∧ smGetD t'.hregs 2 0 = h2
  ∧ ∀ n, 3 ≤ n → smGetD t'.hregs n 0 = smGetD t.hregs n 0

/-- A run of registers within a thread's holding (R57, R62, R63). -/
def RunHeld (t : Thread) (b n : Nat) : Prop :=
  ∀ k, k < n → b + k < 128 ∧ (t.gbase + (b + k) < t.glim ∨ (t.handler = true ∧ 120 ≤ b + k))

/-- A cause that the local handler takes (R63, R383). -/
def TakenLocally (t : Thread) (cause : Nat) : Prop :=
  (cause = cStreamUnderflow ∨ cause = cPtbMiss) ∧ t.handler = false ∧ t.lvec ≠ 0

/-- A cause that is delivered at H (R383, R386). -/
def TakenAtH (t : Thread) (cause : Nat) : Prop :=
  ¬ TakenLocally t cause ∧ (cause = cGuestFault ∨ cause = cLinkLasting ∨ t.level ≠ .u)

/-- The removals that `tlb.inv`, `tlb.all` and `tlb.all part` send (R377): one to every core, every cluster and every die of the
partition's clusters. -/
def removalTargets (set : BitVec 128) : Nat :=
  let ks := (List.range 128).filter fun k => set.getLsbD k
  ((List.range 2048).filter fun c => set.getLsbD (c / 16)).length + ks.length
    + ((List.range 8).filter fun d => ks.any fun k => k / 16 == d).length

/-! Atomics, rounds, generators, gangs, engines, messages, threads and barriers (R151 to R158, R196 to R202, R214, R231 to R235,
R270 to R279, R295 to R298, R328 to R351). -/

/-- An address that a form of the memory bank takes (R265, R270): aligned, in memory, translated as the form asks. -/
def BankAddr (s2 : State) (w : Who) (t : Thread) (va : Dword) (n : Nat) (store : Bool) (x : Access) : Prop :=
  va.toNat % n = 0 ∧ placeOf w.core va = .memory ∧ s2.xlate w t va n store t.mpol = .ok x

/-- A task that is not secure (R230). -/
def NotSecure (s : State) (w : Who) (t : Thread) : Prop := ∃ g, s.taskOf w t = some g ∧ g.secure = false

/-- The fused atomics (R270): what each is at the bank, destination, address and operand, and the word after it, from the word
before, gB and gD. -/
def atomicOf : Instr → Option (RsvOp × Nat × Nat × Nat × (Dword → Dword → Dword → Dword))
  | .amoAdd d a b => some (.add, d.toNat, a.toNat, b.toNat, fun m v _ => nat64 (m.toNat + v.toNat))
  | .amoAnd d a b => some (.and, d.toNat, a.toNat, b.toNat, fun m v _ => nat64 (m.toNat &&& v.toNat))
  | .amoOr d a b => some (.or, d.toNat, a.toNat, b.toNat, fun m v _ => nat64 (m.toNat ||| v.toNat))
  | .amoXor d a b => some (.xor, d.toNat, a.toNat, b.toNat, fun m v _ => nat64 (m.toNat ^^^ v.toNat))
  | .amoMin d a b => some (.min, d.toNat, a.toNat, b.toNat, fun m v _ => int64 (min m.toInt v.toInt))
  | .amoMax d a b => some (.max, d.toNat, a.toNat, b.toNat, fun m v _ => int64 (max m.toInt v.toInt))
  | .amoMinZ d a b => some (.minZ, d.toNat, a.toNat, b.toNat, fun m v _ => nat64 (min m.toNat v.toNat))
  | .amoMaxZ d a b => some (.maxZ, d.toNat, a.toNat, b.toNat, fun m v _ => nat64 (max m.toNat v.toNat))
  | .amoSwp d a b => some (.swp, d.toNat, a.toNat, b.toNat, fun _ v _ => v)
  | .amoCas d a b => some (.cas, d.toNat, a.toNat, b.toNat, fun m v x => if m.toNat = x.toNat then v else m)
  | _ => none

/-- A request stands in the queue of its word at the word's home (R235). -/
def Queued (s : State) (x : Access) (r : RsvReq) : Prop :=
  r ∈ (smGetD (s.die x.homeDie).rsv (x.pa / 8 * 8) RsvQueue.empty).queue ∧ r.acc = x

/-- It is the turn of a step at the home of a line, and no die holds a copy of it (R242): no transaction is in progress and no request
stands before it, or the step's own transaction has gathered its acknowledgements. An update of an ordered round is behind no request
(R202). -/
def ItsTurn (s : State) (home line : Nat) (ev : Ev) : Prop :=
  let e := s.dirEntry home line
  e.holders = [] ∧ ((e.busy = none ∧ (e.queue = [] ∨ e.queue.head? = some ev ∨ ev.ofRound = true))
    ∨ ∃ t, e.busy = some t ∧ t.agent = some ev ∧ t.acks = 0 ∧ t.due ≤ s.cycle)

/-- The doubleword that storage holds. -/
def homeWord (s : State) (word : Nat) : Dword := nat64 (leNat (memBytes s.mem word 8))

/-- A thread's answer is on its way with the registers it writes (R271, R327). -/
def Answered (s : State) (w : Who) (ws : List (Nat × Dword)) : Prop :=
  (∃ t since, s.thread w = some t ∧ t.run = .waiting (.answer ws) since) ∧ ∃ x ∈ s.agenda, x.ev = .agentAnswer w

/-- Something is on its way and will be a step of its own. -/
def OnWay (s : State) (ev : Ev) : Prop := ∃ x ∈ s.agenda, x.ev = ev

/-- No task holds a line in its signatures. -/
def Unheld (s : State) (line : Nat) : Prop := ∀ die, ∀ x ∈ s.dieGroups die, x.2.2.holds line = false

/-- The forms of opcode 0x19 (R274): scope, release, acquire, and whether the constant cache is emptied. -/
def fenceOf : Instr → Option (Scope × Bool × Bool × Bool)
  | .fence c => some (c, true, true, false)
  | .acq c => some (c, false, true, false)
  | .rel c => some (c, true, false, false)
  | .fenceC c => some (c, scopeWide c, scopeWide c, true)
  | _ => none

/-- The answers of `eng.wait` and `eng.poll` with nothing to report (R330). -/
def noReport : Dword := 0x8000000000000000
/-- The answer of `eng.poll` when the oldest command has not completed. -/
def notYet : Dword := 0x8000000000000001

/-- The command that `push` and `pushm` put at an engine (R87, R158, R161, R253). -/
def pushedCmd (s : State) (w : Who) (t : Thread) (k : Engine) (bits : BitVec 256) : Cmd :=
  let g := s.group w.core t.gid
  { seq := ((s.core w.core).unit k).pushed, bits, w, gid := t.gid, taskMode := !t.openMode && g.isSome, rm := t.frm, fmtWord := t.fmtWord,
    fmtRest := t.fmtRest, space := t.spc, level := t.level, part := t.part, pol := t.mpol, claim := (g.map (·.claim)).getD false, cfg := (g.map (·.cfg)).getD 0 }

/-- What a held effect of a task becomes (R229). -/
def HeldBy (s2 s3 : State) (w : Who) (t : Thread) (e : Effect) : Prop :=
  ∀ g, s2.group w.core t.gid = some g → ∃ g', s3.group w.core t.gid = some g' ∧ g'.held = g.held ++ [e]

/-- A thread's part in the round of a line after an instruction. -/
def PartIs (s3 : State) (w : Who) (line : Nat) (p : Part) : Prop := ∀ t, s3.thread w = some t → t.partOn line = some p

/-- A round's message of a thread (R198, R200). -/
def roundMsg (s2 : State) (w : Who) (t : Thread) (x : Access) (off n seq tok : Nat) (val : Word) : RoundMsg :=
  { w, line := x.line, va := x.va, tok, off, bank := s2.bankOf t.part x, idx := t.detidx.toNat, n, seq, val, dpage := true }

/-- Word 0 of a command that CheckWord0 refuses (R89): another engine's number, or no operation of the engine. -/
def word0Bad (k : Engine) (bits : BitVec 256) : Prop :=
  match k with
  | .mx => bits.toNat / 2 ^ 28 % 2 ^ 4 ≠ 1 ∨ 7 ≤ bits.toNat / 2 ^ 20 % 2 ^ 8
  | .vx => bits.toNat / 2 ^ 28 % 2 ^ 4 ≠ 2 ∨ 10 ≤ bits.toNat / 2 ^ 20 % 2 ^ 8
  | .cp => bits.toNat / 2 ^ 28 % 2 ^ 4 ≠ 3 ∨ 9 ≤ bits.toNat / 2 ^ 20 % 2 ^ 8

/-- A command that names a tile (R55, R168): any of the matrix engine but `mx.ldb` and `mx.qk`. -/
def tileNamed (bits : BitVec 256) : Prop :=
  bits.toNat / 2 ^ 28 % 2 ^ 4 = 1 ∧ bits.toNat / 2 ^ 20 % 2 ^ 8 ≠ 1 ∧ bits.toNat / 2 ^ 20 % 2 ^ 8 ≠ 5

/-- What an accepted push leaves (R158, R329): with a free place and nobody before it the command is in the queue and the thread goes on;
otherwise it waits outside the queue, and its thread out of rotation. The thread's report list takes the command's number. -/
def Pushes (i : Instr) (s s2 : State) (t : Thread) (k : Engine) (bits : BitVec 256) : Prop :=
  let u := (s2.core s.cur.core).unit k
  let c := pushedCmd s2 s.cur t k bits
  ∃ s3, ((u.queue.length < 2 ∧ u.outside = []) → exec i s = .next (goOn s3 s.cur t)
      ∧ (s3.core s.cur.core).unit k = { u with queue := u.queue ++ [c], pushed := u.pushed + 1 })
    ∧ (¬ (u.queue.length < 2 ∧ u.outside = []) → exec i s = .next (waits s3 s.cur (.queue k) s.cycle)
      ∧ (s3.core s.cur.core).unit k = { u with outside := u.outside ++ [c], pushed := u.pushed + 1 })
    ∧ (∀ x, s2.thread s.cur = some x → ∃ x', s3.thread s.cur = some x'
        ∧ x'.reports k = x.reports k ++ [{ seq := u.pushed, done := none, lines := [] }] ∧ (t.openMode = true → x'.wcb = []))

/-- Type codes of R82 that R167 admits, for an integer slot and for a floating-point one. -/
def tileTypes (int : Bool) : List Nat := if int then [0, 4, 13, 14] else [8, 9, 11, 12]

/-- A tile configuration that R167 admits. -/
def tileCfgOk (v : Dword) : Prop :=
  v.toNat < 2 ^ 20 ∧ v.toNat / 2 ^ 10 % 16 ∈ tileTypes (decide (v.toNat / 2 ^ 18 % 2 = 1))
  ∧ v.toNat / 2 ^ 14 % 16 ∈ tileTypes (decide (v.toNat / 2 ^ 18 % 2 = 1))

/-- Fields of a destination word (R334). -/
structure DestWord where
  dst : Nat
  cls : Nat
  count : Nat
  dev : Nat
  far : Bool

/-- The fields of R334 from a register. -/
def destOf (v : Dword) : DestWord :=
  { dst := v.toNat % 2 ^ 11, cls := v.toNat / 2 ^ 16 % 2 ^ 4, count := v.toNat / 2 ^ 20 % 4 + 1, dev := v.toNat / 2 ^ 32 % 2 ^ 21,
    far := decide (v.toNat / 2 ^ 63 = 1) }

/-- A reserved bit of a destination word is set, or a device number without the far bit (R334). -/
def destBad (v : Dword) : Prop :=
  v.toNat / 2 ^ 11 % 2 ^ 5 ≠ 0 ∨ v.toNat / 2 ^ 22 % 2 ^ 10 ≠ 0 ∨ v.toNat / 2 ^ 53 % 2 ^ 10 ≠ 0
  ∨ (v.toNat / 2 ^ 63 = 0 ∧ v.toNat / 2 ^ 32 % 2 ^ 21 ≠ 0)

/-- The message that `msg.send` and `msg.sendw` send (R335). -/
def sentMsg (w : Who) (x : DestWord) (words : List Dword) (report : Bool) : Msg :=
  { src := w, origin := if x.far then 2 else 0, dst := x.dst, cls := x.cls, words, report, copy := none }

/-- The two sending forms: destination word, first register, and whether the sender waits for the report. -/
def sendOf : Instr → Option (Nat × Nat × Bool)
  | .msgSend a b => some (a.toNat, b.toNat, false)
  | .msgSendw a b => some (a.toNat, b.toNat, true)
  | _ => none

/-- The deposit of a message's words in the bound registers (R60, R336), of a class that it makes ready or of a thread in `det.wait`. -/
def depositWrite (s : State) (slot : Nat) (cls : Option Nat) (k : MsgClass) (m : Msg) : RegWrite :=
  { due := s.cycle, slot, kind := .deposit cls, regs := (List.range k.n).map fun i => (.reg (k.reg + i), (m.words.getD i 0).zeroExtend 512) }

/-- A barrier operand above 15 (R347). -/
def barBad (v : Dword) : Prop := 16 ≤ v.toNat

/-- A copy of a record that has been read (R75, R338). -/
def copyOf (va : Dword) (l : List Byte) : RecCopy := { addr := va, bits := BitVec.ofNat 512 (leNat l), faulted := false, again := false }

/-- A field of a record, by its lowest bit and its width (R75, R76). -/
def fieldOf (r : RecCopy) (lo n : Nat) : Nat := r.bits.toNat / 2 ^ lo % 2 ^ n

/-- A record without its footprint, whose fields a successor that inherits one ignores (R301): bit 56 and the range. -/
def unpinned (r : RecCopy) : RecCopy := { r with bits := r.bits &&& ~~~(BitVec.ofNat 512 (2 ^ 56 + (2 ^ 128 - 1) * 2 ^ 256)) }

/-- The det flag of a record (R76). -/
def detFlag (r : RecCopy) : Prop := r.bits.toNat / 2 ^ 35 % 2 = 1

/-- The core of the fixed list that a record with det flag goes to (R203), where no record of its logical index stands yet. -/
def FixedAt (s : State) (core : Nat) (r : RecCopy) (c : Nat) : Prop :=
  let cs := s.detCores ((s.partOf core).getD 0)
  cs[(r.bits.toNat / 2 ^ 128 % 2 ^ 64) % cs.length]? = some c
    ∧ ∀ x ∈ (s.core c).fixed, x.bits.toNat / 2 ^ 128 % 2 ^ 64 ≠ r.bits.toNat / 2 ^ 128 % 2 ^ 64

/-- The state of an open-mode thread's release that begins a request (R309, R313). -/
def drained (s : State) (w : Who) (t : Thread) : State := if t.openMode then s.drainAll w else s

/-- The edits of opcode 0x2F (R313): kind, request, destination, context word, and the token register where there is one. -/
def editOf : Instr → Option (EditKind × SeqOp × Nat × Nat × Option Nat)
  | .editIns d a b => some (.ins, .ins, d.toNat, a.toNat, some b.toNat)
  | .editChg d a b => some (.chg, .chg, d.toNat, a.toNat, some b.toNat)
  | .editDel d a => some (.del, .del, d.toNat, a.toNat, none)
  | _ => none

/-- A handle word's upper half (R327). -/
def handleIn (v : Dword) : Nat := v.toNat / 2 ^ 32
/-- Its lower half. -/
def lowIn (v : Dword) : Nat := v.toNat % 2 ^ 32

/-- An edit as it stands in the effects of a task, or at the sequencer, with the cycle of its issue. -/
def editMsg (w : Option Who) (me : Who) (t : Thread) (k : EditKind) (opnd : Dword) (tok : Nat) (fs : List Word) (now : Nat) : EditReq :=
  { kind := k, w, core := me.core, space := t.spc, part := t.part, opnd, tok := BitVec.ofNat 32 tok, factors := fs, issued := now }

/-- A PTB entry that serves a position of a context at a stamp (R322). -/
def Serves (e : PtbEntry) (handle pos stamp : Nat) : Prop :=
  e.handle.toNat = handle ∧ e.first ≤ pos ∧ pos < e.first + e.fill ∧ e.vlo ≤ stamp ∧ stamp ≤ e.vhi

/-! Commands of the engines (R158 to R193, R280 to R287). -/

/-- The work of each command, its engine, and whether it ends with another device's reply. -/
def workOf : Instr → Option (Engine × Bool × EM Nat)
  | .mxMma _ _ bsgn asgn rows tile lso stride k wbo bstride ascl => some (.mx, false, workMma bsgn asgn rows.toNat tile.toNat lso.toNat
      stride.toNat k.toNat wbo.toNat bstride.toNat ascl.toNat)
  | .mxLdb _ addr wbo len => some (.mx, false, workLdb addr wbo.toNat len.toNat)
  | .mxLdt _ _ type rows tile lso stride => some (.mx, false, workLdt type.toNat rows.toNat tile.toNat lso.toNat stride.toNat)
  | .mxStt _ _ gf cf type rows tile cmp dst stride thr => some (.mx, false, workStt gf cf type.toNat rows.toNat tile.toNat cmp dst
      stride.toNat thr.toNat)
  | .mxZero _ tiles => some (.mx, false, workZero tiles)
  | .mxQk _ _ desc => some (.mx, false, workQk desc.toNat)
  | .mxPv _ _ tile desc => some (.mx, false, workPv tile.toNat desc.toNat)
  | .vxMap _ _ v => some (.vx, false, workMap v)
  | .vxFma _ _ v => some (.vx, false, workFma v)
  | .vxRed _ _ v => some (.vx, false, workRed v)
  | .vxExpsum _ _ v => some (.vx, false, workExpsum v)
  | .vxNorm _ _ v => some (.vx, false, workNorm v)
  | .vxRequant _ _ v => some (.vx, false, workRequant v)
  | .vxCmpst _ _ n a thr cmp dst => some (.vx, false, workCmpst n.toNat a.toNat thr.toNat cmp dst)
  | .vxTopk _ _ v => some (.vx, false, workTopk v)
  | .vxKsum _ _ v => some (.vx, false, workKsum v)
  | .vxCvt _ _ v => some (.vx, false, workCvt v)
  | .cpCopy _ _ ff tf src dst len shape => some (.cp, false, workCopy ff tf src dst len.toNat shape.toNat)
  | .cpGather _ _ ff tf src dst idx n esz => some (.cp, false, workIndexed false ff tf src dst idx.toNat n.toNat esz.toNat)
  | .cpScatter _ _ ff tf src dst idx n esz => some (.cp, false, workIndexed true ff tf src dst idx.toNat n.toNat esz.toNat)
  | .cpFill _ tf ef dst len pat => some (.cp, false, workFill tf ef dst len.toNat pat.toNat)
  | .cpPut _ _ ff dev raddr laddr len => some (.cp, true, workPut ff dev.toNat raddr laddr len.toNat)
  | .cpGet _ _ ff dev raddr laddr len => some (.cp, true, workGet ff dev.toNat raddr laddr len.toNat)
  | .cpAmo _ _ dev raddr op lso => some (.cp, true, workAmo dev.toNat raddr op.toNat lso.toNat)
  | .cpIst _ core src iso len => some (.cp, false, workIst core.toNat src iso.toNat len.toNat)
  | .cpFrame _ slot layer part pos cnt stamp mode dst st => some (.cp, false, workFrame slot.toNat layer.toNat part.toNat pos.toNat
      cnt.toNat stamp.toNat mode.toNat dst.toNat st.toNat)
  | _ => none

/-- A command that has come to an execution position and reaches `pace` words in a cycle, or all that it has left. -/
def waitingCmd (c : Cmd) (since next : Nat) (pace : Option Nat) : Running :=
  { cmd := c, started := false, begun := false, since, next, pace, err := none, moved := false, flags := 0, hold := .free, log := [],
    acts := 0, out := [], lat := none, lines := [], remote := false, reach := [], areas := [] }

/-- A command stands in the execution position of its engine and has not begun (R158). It does all its work in the cycle in which it
begins: over how many cycles the work spreads is free (R254, R255), and `CommandOutcomes` says how a command goes on that does less in a
cycle. -/
structure Begins (s : State) (k : Engine) (r : Running) : Prop where
  held : ((s.core s.cur.core).unit k).exec = some r
  fresh : ∃ since next, r = waitingCmd r.cmd since next none
  here : r.cmd.w.core = s.cur.core

/-- No word of the local store makes the command wait or fail (R162, R397). -/
def Calm (s : State) (r : Running) : Prop :=
  (s.core s.cur.core).poison = [] ∧ (r.cmd.waitsFull = true → ∀ i, (s.core s.cur.core).isFull i = true)

/-- An engine as a command begins. -/
def start (s : State) (r : Running) : Eng :=
  { s, c := r.cmd, core := r.cmd.w.core, past := [], skip := 0, log := [], acts := 0, left := none, start := s.cycle, out := [], lat := none,
    flags := 0, moved := false, reach := [], areas := [] }

/-- What a command comes to from the engine as it begins. -/
def runsTo {α : Type} (m : EM α) (e : Eng) : Except Stop α × Eng := StateT.run (ExceptT.run m) e

/-- A command whose work is done (R159), with the parts of the local store that it reached and named (R300). -/
def begunCmd (s : State) (r : Running) (moved : Bool) (flags : FlagSet) (err : Option Nat) (x : Running) : Running :=
  { r with started := true, begun := true, since := s.cycle, err, moved, flags, hold := .free, log := [], acts := 0, out := [], lat := none,
           lines := [], reach := x.reach, areas := x.areas }

/-- The execution position once the work is done, and the completion on the way (R159, R165): s1 is the machine with the effects. -/
def Begun (s s1 s' : State) (k : Engine) (r : Running) (moved : Bool) (flags : FlagSet) (err : Option Nat) (time : Nat) : Prop :=
  ∃ x, s' = (s1.modUnit r.cmd.w.core k fun u => { u with exec := some (begunCmd s r moved flags err x) }).after (Nat.max 1 time)
    (.commandCompletion r.cmd.w.core k)

/-- The command begins, and leaves its core as c. -/
def Works (i : Instr) (s : State) (k : Engine) (r : Running) (c : Core) (moved : Bool) (flags : FlagSet) (time : Nat) : Prop :=
  ∃ s1 s', exec i s = .next s' ∧ Begun s s1 s' k r moved flags none time ∧ s1.core s.cur.core = c
    ∧ (∀ x, x ≠ s.cur.core → s1.core x = s.core x) ∧ s1.mem = s.mem ∧ s1.agenda = s.agenda

/-- The command fails its checks as it begins, without an effect (R160). -/
def Refused (i : Instr) (s : State) (k : Engine) (r : Running) (causes : List Nat) : Prop :=
  ∃ cause ∈ causes, ∃ s', exec i s = .next s' ∧ Begun s s s' k r false 0 (some cause) 0

/-- Bytes of global memory that the command can read now (R163): they translate, and nothing holds the line back (R202, R224, R227). -/
def Readable (s : State) (r : Running) (va : Dword) (n : Nat) (a : Access) : Prop :=
  va.toNat < 0xFFFFFFFFF0000000 ∧ s.xlateNow s.cur.core r.cmd.part r.cmd.space va n false (r.cmd.level == .u) r.cmd.pol = .ok a
    ∧ smGet s.poison a.line = none ∧ s.readHeld (dieOf s.cur.core) a (some (s.cur.core, r.cmd.gid)) = false

/-- What the command reads there (R253), as a number. -/
def bytesSeen (s : State) (r : Running) (a : Access) (n : Nat) : Nat := lineNat ((start s r).line a) (a.pa % 128) n

/-- A run of global bytes that the command can read now, and what it reads. -/
def RunSeen (s : State) (r : Running) (va n : Nat) (l : List Byte) : Prop :=
  ∃ acc : Nat → Access, (∀ x ∈ pieces va n n, Readable s r (nat64 x.1) x.2 (acc x.1))
    ∧ l = (pieces va n n).flatMap fun x => leBytes x.2 (bytesSeen s r (acc x.1) x.2)

/-- A local operand of n elements of a size: aligned, and within the local store (R160, R183). -/
def Area (off n size : Nat) : Prop := off % size = 0 ∧ off + n * size ≤ 393216

/-- Elements processed in ascending order over the core as it stands (R183), with the flags of all. -/
def eachOf (n : Nat) (f : Core → Nat → Core × FlagSet) (c : Core) : Core × FlagSet :=
  (List.range n).foldl (fun p j => ((f p.1 j).1, p.2 ||| (f p.1 j).2)) (c, 0)

/-- Words of a local operand. -/
def wordsAt (c : Core) (off n : Nat) : List Nat := (List.range n).map fun j => c.lread (off + 4 * j) 4

/-- A running value with flags, over a list. -/
def folded (op : Nat → Nat → Nat × FlagSet) (x : Nat × FlagSet) (l : List Nat) : Nat × FlagSet :=
  l.foldl (fun p y => ((op p.1 y).1, p.2 ||| (op p.1 y).2)) x

/-- A fold of R186: from element 0, which only a NaN changes. -/
def foldFirst (f : Fmt) (op : Nat → Nat → Nat × FlagSet) : List Nat → Nat × FlagSet
  | [] => (0, 0)
  | x :: l => folded op (if (f.decode x).isNan then f.pack 0 (f.decode x) else (x, 0)) l

/-- LongAdd of R105 over a list, from an accumulator and its marker. -/
def longAdds (l : Nat) (e : Bool) (xs : List Nat) : Nat × Bool × FlagSet :=
  xs.foldl (fun p x => ((longAdd p.1 p.2.1 x).1, (longAdd p.1 p.2.1 x).2.1, p.2.2 ||| (longAdd p.1 p.2.1 x).2.2)) (l, e, 0)

/-- A value times a power of two. -/
def timesPow (v : FVal) (k : Int) : FVal :=
  match v with
  | .fin n m e => .fin n m (e + k)
  | x => x

/-- The common limits of the vector commands (R183). -/
def vecOk (v : VecOps) (b x : Bool) : Prop := 1 ≤ v.n.toNat ∧ v.n.toNat ≤ 98304 ∧ (b = false → v.b = 0) ∧ (x = false → v.x = 0) ∧ v.y = 0

/-- X at i ranks above Y at j (R191). -/
def Above (x : Nat) (i : Nat) (y : Nat) (j : Nat) : Prop :=
  let a := fmt32.decode x
  let b := fmt32.decode y
  if a.isNan = true then b.isNan = true ∧ i < j
  else b.isNan = true ∨ 0 < cmpVal a b ∨ (cmpVal a b = 0 ∧ i < j)

/-- Bits of element k of a row of A (R175): two elements of 4 bits to a byte, the even one low. -/
def rowElem (c : Core) (t : LaneT) (off k : Nat) : Nat :=
  if t.width = 4 then c.lread (off + k / 2) 1 / 2 ^ (4 * (k % 2)) % 16 else c.lread (off + k * (t.width / 8)) (t.width / 8)

/-- An element of a tile after `mx.mma`, from its value before (R103, R175): the chunks in ascending order, each with one rounding, or, in an
integer configuration, one saturation. -/
def mmaElem (c : Core) (fw : Word) (cfg : Dword) (lso stride kk wbo bstride ascl r n acc : Nat) : Nat :=
  let at' := cfgLane (cfgA cfg)
  let bt := cfgLane (cfgB cfg)
  let nch := (kk + 31) / 32
  (List.range nch).foldl (fun acc ch =>
    let ks := List.range (min 32 (kk - 32 * ch))
    let x := fun i => rowElem c at' (lso + r * stride) (32 * ch + i)
    let o := wbo + ch * bstride
    let sc := if ascl = 0xFFFFFFFF then 127 else c.lread (ascl + r * nch + ch) 1
    let v := if cfgInt cfg then
        (accumulateInt acc (ks.map fun i => (.ofInt (laneInt at'.width at'.signed (x i)) 0 false, c.blockInt o bt i n))).1
      else (accumulate acc (ks.map fun i => ((c.laneValue fw at' (x i)).scale sc, c.blockVal o bt (btab fw) i n))).1
    v % 2 ^ 32) acc

/-- A field of the attention descriptor at an offset (R178). -/
def attField (c : Core) (desc i : Nat) : Nat := c.lread (desc + 4 * i) 4
/-- The rows, the head dimension and the key tiles that it gives (R178). -/
def attRows (c : Core) (desc : Nat) : Nat := attField c desc 9 % 32 + 1
def attDim (c : Core) (desc : Nat) : Nat := 32 * (attField c desc 9 / 2 ^ 8 % 8 + 1)
def attTiles (c : Core) (desc : Nat) : Nat := (attField c desc 8 + 31) / 32

/-- FP32 bits of a number that is finite and not negative. -/
def finiteNonNeg (x : Nat) : Prop := x % 2 ^ 31 < 0x7F800000 ∧ (x < 2 ^ 31 ∨ x = 2 ^ 31)

/-- The limits of an attention descriptor (R178). -/
def attOk (c : Core) (cfg : Dword) (desc : Nat) : Prop :=
  let f := attField c desc
  let m := attRows c desc
  let d := attDim c desc
  let n := f 8
  Area desc 1 64 ∧ 1 ≤ n ∧ n ≤ 65536 ∧ f 9 % 32 + f 9 / 2 ^ 8 % 8 * 2 ^ 8 = f 9 ∧ finiteNonNeg (f 10) ∧ finiteNonNeg (f 11) ∧ f 15 = 0
    ∧ m ≤ cfgRows cfg ∧ Area (f 0) (d * m) 2 ∧ Area (f 1) (d * n) 2 ∧ Area (f 2) n 4 ∧ Area (f 3) (2 * d * attTiles c desc) 2 ∧ Area (f 4) 1 4
    ∧ Area (f 5) (n * m) 4 ∧ Area (f 6) ((attTiles c desc + 31) / 32) 4 ∧ Area (f 7) (d * n) 2 ∧ Area (f 12) m 4 ∧ f 13 + n * m ≤ 393216
    ∧ (f 14 = 0xFFFFFFFF ∨ Area (f 14) m 4)

/-- The first position of a segment of the rope list that a descriptor names (R179). -/
def ropeFirst (c : Core) (desc i : Nat) : Nat := c.lread (attField c desc 4 + 4 + 2 * attDim c desc + 68 * i) 4

/-- The limits of the rope list that a descriptor names (R179). -/
def ropeOk (c : Core) (desc : Nat) : Prop :=
  let k := c.lread (attField c desc 4) 4
  1 ≤ k ∧ k ≤ 4 ∧ attField c desc 4 + 4 + 2 * attDim c desc + 68 * k ≤ 393216
    ∧ ∀ i, i + 1 < k → ropeFirst c desc i < ropeFirst c desc (i + 1)

/-- No key lies below the first segment (R179): that segment begins at 0, or the positions, which the command leaves alone, are all at
least its first. -/
def keysPlaced (c : Core) (desc : Nat) : Prop :=
  let f := attField c desc
  let apart := fun o n : Nat => f 2 + 4 * f 8 ≤ o ∨ o + n ≤ f 2
  ropeFirst c desc 0 = 0 ∨ (apart (f 5) (4 * f 8 * attRows c desc) ∧ apart (f 6) (4 * ((attTiles c desc + 31) / 32))
    ∧ ∀ j, j < f 8 → ropeFirst c desc 0 ≤ c.lread (f 2 + 4 * j) 4)

/-- The elements of tile j below m rows and k columns are f; every other element of the tiles stays. -/
def TileSet (c c' : Core) (j m k : Nat) (f : Nat → Nat → Nat) : Prop :=
  (∀ r n, r < m → n < k → c'.tile j r n = f r n)
  ∧ (∀ key, (∀ r n, r < m → n < k → key ≠ 1024 * j + 32 * r + n) → smGet c'.tiles key = smGet c.tiles key)
  ∧ c' = { c with tiles := c'.tiles }

/-- A copy shape (R281): counts and strides, from the eight words at an offset, or one run. -/
def shapeAt (c : Core) (off : Nat) : CopyShape :=
  let f := fun i => c.lread (off + 4 * i) 4
  let g := fun i => laneInt 32 true (f i)
  if off = 0xFFFFFFFF then { c1 := 1, c2 := 1, s1 := 0, s2 := 0, d1 := 0, d2 := 0 }
  else { c1 := f 0, c2 := f 1, s1 := g 2, s2 := g 3, d1 := g 4, d2 := g 5 }

/-- The limits of a copy shape (R281). -/
def shapeOk (c : Core) (off : Nat) : Prop :=
  let f := fun i => c.lread (off + 4 * i) 4
  off = 0xFFFFFFFF ∨ (Area off 1 32 ∧ 1 ≤ f 0 ∧ f 0 ≤ 65536 ∧ 1 ≤ f 1 ∧ f 1 ≤ 65536 ∧ f 6 = 0 ∧ f 7 = 0)

/-- Every run of a local side lies in the local store, and is aligned (R280, R281). -/
def runsIn (base len c1 c2 : Nat) (t1 t2 : Int) : Prop :=
  t1 % 4 = 0 ∧ t2 % 4 = 0 ∧ ∀ i1 i2 : Nat, i1 < c1 → i2 < c2 →
    0 ≤ (base : Int) + (i1 * t1 + i2 * t2) ∧ (base : Int) + (i1 * t1 + i2 * t2) + len ≤ 393216

/-- What `cp.frame` reads of a position (R287), where it need not wait: the bytes of its row and the stamp of its version; a position that
has no version the mode allows has a row of zeros. One PTB entry serves the position. -/
def RowSeen (s : State) (r : Running) (x : Ctx) (layer part pos stamp mode : Nat) (v : List Byte × Option Nat) : Prop :=
  let n := (x.rowPlace part 0).2
  let none' := v = (List.replicate n 0, none)
  match x.imageFor stamp with
  | none => none'
  | some i => pos < chainTotal i.chain ∧ ∃ e ∈ (s.core s.cur.core).ptb, Serves e x.handle.toNat pos stamp
      ∧ (∀ e' ∈ (s.core s.cur.core).ptb, Serves e' x.handle.toNat pos stamp → e' = e)
      ∧ match (x.frame layer e.phys).select mode stamp with
        | none => none'
        | some (copy, ver) => v.2 = some ver.stamp
            ∧ RunSeen s r ((x.frameAddr layer e.phys copy).toNat + (x.rowPlace part (pos - e.first)).1) n v.1

/-- A local offset that a copy command takes (R280). -/
def LocalOff (va : Dword) : Prop := va.toNat < 2 ^ 32 ∧ va.toNat % 4 = 0

/-- An operation goes over the link to another device, or to this device itself (R251, R284). -/
def SentTo (s s' : State) (dev : Nat) (op : RemoteOp) : Prop :=
  (dev ≠ s.host.prov.device.toNat → s'.beacon = s.beacon ++ [(dev, op)]) ∧ (dev = s.host.prov.device.toNat → OnWay s' (.remoteAccess op))

/-- A remote command has begun (R251): nothing completes it but the reply. -/
def BegunFar (i : Instr) (s : State) (r : Running) (dev : Nat) (op : RemoteOp) : Prop :=
  ∃ s', exec i s = .next s' ∧ SentTo s s' dev op
    ∧ (∃ x, (s'.core s.cur.core).cp.exec = some { begunCmd s r false 0 none x with remote := true }) ∧ s'.mem = s.mem

/-! Records, hand-overs and the device (R76, R77, R224 to R260, R290 to R303, R360 to R406). -/

/-- A record without a second range is valid (R76). -/
def ValidOne (r : RecCopy) : Prop :=
  r.addr.toNat % 64 = 0 ∧ fieldOf r 0 32 < 32768 ∧ fieldOf r 57 7 = 0 ∧ 8 ≤ fieldOf r 40 8 ∧ fieldOf r 40 8 ≤ 128 ∧ fieldOf r 48 4 ≤ 4
    ∧ fieldOf r 256 64 % 4 = 0 ∧ fieldOf r 320 24 % 4 = 0 ∧ fieldOf r 344 24 % 4 = 0 ∧ fieldOf r 368 16 = 0
    ∧ (fieldOf r 320 24 ≠ 0 → fieldOf r 344 24 + fieldOf r 320 24 ≤ 393216 ∧ fieldOf r 320 24 ≤ 262144)

/-- A thread in its state at the start of a task (R77). -/
def StartsAs (r : RecCopy) (gid j : Nat) (t : Thread) : Prop :=
  t.pc.toNat = 2 * fieldOf r 0 32 ∧ t.gid = gid ∧ t.num = j ∧ t.glim - t.gbase = fieldOf r 40 8 ∧ t.wcount = 4 * fieldOf r 48 4
    ∧ t.tstamp.toNat = fieldOf r 64 64 ∧ t.lidx.toNat = fieldOf r 128 64 ∧ t.detidx.toNat = fieldOf r 128 64
    ∧ t.prio.toNat = fieldOf r 32 2 ∧ t.fmtp.toNat = fieldOf r 384 64 ∧ t.sclp.toNat = fieldOf r 448 64
    ∧ t.inh = 0 ∧ t.frm = 0 ∧ t.fen = 0 ∧ t.fflags = 0 ∧ t.lvec = 0 ∧ t.gret = 0 ∧ t.cause = 0 ∧ t.tpc = 0 ∧ t.tval = 0
    ∧ t.ix0 = 0 ∧ t.ix1 = 0 ∧ t.ix2 = 0 ∧ t.mpol.toNat = 0xFF00 ∧ t.kregs = [] ∧ t.handler = false ∧ t.level = .u

/-- The one record of a deque, for a core that has nothing else to dispatch. -/
def OnlyRecord (s : State) (core : Nat) (r : RecCopy) : Prop :=
  (s.core core).granted = none ∧ (s.core core).fixed = [] ∧ (s.core core).deque = [r] ∧ r.faulted = false

/-- Core b comes after core a and its slot, in the order of R307. -/
def laterPlace (a b : Who) : Prop := a.core < b.core ∨ (a.core = b.core ∧ a.slot < b.slot)

/-- A thread's results have reached the register files (R60): they wait for a slot there, and the thread, its pc behind the instruction, for
them. -/
def Reached (s3 : State) (w : Who) (t : Thread) (regs : List (RegDest × Wide)) : Prop :=
  (∃ t', s3.thread w = some t' ∧ t'.pc = t.pc + BitVec.ofNat 16 t.ilen ∧ t'.run = .waiting .landing s3.cycle)
    ∧ returnWrite s3 w regs ∈ (s3.core w.core).writes

/-- A thread's wait has ended (R60, R72): its pc is behind the instruction; with nothing to write it is in rotation, and otherwise its
results have reached the register files, where they wait for a slot, and the thread for them. -/
def Finished (s3 : State) (w : Who) (t : Thread) (ws : List (Nat × Dword)) : Prop :=
  ∃ t', s3.thread w = some t' ∧ t'.pc = t.pc + BitVec.ofNat 16 t.ilen
    ∧ (ws = [] → t'.run = .ready)
    ∧ (ws ≠ [] → t'.run = .waiting .landing s3.cycle
        ∧ returnWrite s3 w (ws.map fun p => (.reg p.1, p.2.zeroExtend 512)) ∈ (s3.core w.core).writes)

/-- Bytes of a line are written in storage, and no other byte is (R226). -/
def Written (s s3 : State) (lw : LineWrite) : Prop :=
  (∀ i, i < 128 → memGet s3.mem (128 * lw.line + i) = if lw.mask.getLsbD i then lineByte lw.data i else memGet s.mem (128 * lw.line + i))
    ∧ ∀ a, a / 128 ≠ lw.line → memGet s3.mem a = memGet s.mem a

/-- What a thread reads of a line: the line as given, the core's own lines on their way over it, and its own bytes over both (R209). -/
def seenBy (s : State) (w : Who) (t : Thread) (line : Nat) (base : LineData) : LineData :=
  overlay (s.overFlights w.core line base) (s.ownBytes w t line).data (s.ownBytes w t line).mask

/-- A request waits in the queue of its line, and nothing is written (R242). -/
def StandsIn (s s3 : State) (home line : Nat) (ev : Ev) : Prop := ev ∈ (s3.dirEntry home line).queue ∧ s3.mem = s.mem

/-- A line has no copy, no request and no transaction at its home. -/
def Lone (s : State) (home line : Nat) : Prop := smGet (s.die home).dir line = none

/-- No write-back of a line is on its way from a die. -/
def NoWriteBack (s : State) (die line : Nat) : Prop := ∀ x ∈ s.agenda, ∀ lw, x.ev = .writeBack die lw → lw.line ≠ line

/-- The state of a holder after it has answered another die's read (R240). -/
def shared : Moesi → Moesi
  | .m | .o => .o
  | .e | .s => .s

/-- The step of a replication degree (R246): 0, 1, 2, 4, 7. -/
def stepUp : Nat → Nat
  | 0 => 1 | 1 => 2 | 2 => 4 | _ => 7
def stepDown : Nat → Nat
  | 7 => 4 | 4 => 2 | 2 => 1 | _ => 0

/-- An access through a cached translation, in HBM through the window of its own die and homed at a named slice (R237, R264, R368). -/
def throughTlb (e : TlbEntry) (va : Dword) (size : Nat) (store user : Bool) (pol : Word) : Xlate :=
  let off := va.toNat % 2 ^ e.bits
  if user = true ∧ e.user = false then .fault (if store then 0x11 else 0x10) va
  else if store = true ∧ e.writable1 = false then .fault 0x11 va
  else if store = true ∧ e.writable = false then .fault 0x63 (nat64 (e.gframe * 2 ^ e.bits + off))
  else .ok { va, pa := e.frame * 2 ^ e.bits + off, size, pol, repl := e.repl, dpage := e.dpage, home := e.home, harg := e.harg, tdie := e.tdie }

/-- Two halfwords of an instruction, the first one first (R78). -/
def word32 (v : Nat) : List Half := [BitVec.ofNat 16 (v / 65536), BitVec.ofNat 16 v]

end Sys2Proof.Claims

open Sys2Proof Sys2Proof.Machine Sys2Proof.Claims


/-- One step of a machine whose turn is an issue of a device-core thread that fetches for itself: the instruction that the
halfwords at its pc encode (R78) runs by `exec`, in the machine in which the slot is current. Readings and choices of the model
in it: log 99. -/
def Obligations.StepRunsDecoded : Prop :=
  ∀ s w t i rest, s.duty = none → s.issuer = some (w, t) → t.next = [] → ¬ isFollower t → isLantern w.core = false → t.ahead = [] →
    decode (halvesAt s w.core t.pc) = .ok (i, rest) →
    step s = exec i (s.atIssue w { t with ilen := if (smGetD (s.core w.core).ist (t.pc.toNat / 2) 0).getLsbD 15 then 4 else 2 })

/-- A step that is due in the agenda is the step of its row of the opcode table, taken out of the agenda: before the issues of its cycle, or,
for an access through a cluster window and a write of an instruction store, after them (R219, R259); at a die in retention it waits and
wakes the die (R399). What an engine runs from a command's 256 bits is the meaning of the command that the bits
encode (R87, R88), and bits that encode none have no meaning (R160). Readings and choices of the model in it: logs 94, 99. -/
def Obligations.StepsDue : Prop :=
  (∀ s e s1, s.takeDue = some (e, s1) →
     (s1.sleeping e = none → step s = exec e.row s1) ∧ (∀ d, s1.sleeping e = some d → step s = .next (s1.wakeFor d e)))
  ∧ (∀ s e s1, s.duty = none → s.issuer = none → s.takeLate = some (e, s1) → step s = exec e.row s1)
  ∧ ((∀ c i, decodeCmd c = some i → ∃ m, runCmd c = some m ∧ ∀ s, m s = exec i s) ∧ (∀ c, decodeCmd c = none → runCmd c = none))

/-- An instruction none of whose registers is bound to a stream comes to its effect as soon as it passes the checks, with its
source registers as they stand. A thread outside gangs in which no register is mirrored (R58, R74): exactly when a bank gives
three of its sources, its results come one cycle later and, in free rotation, it holds the port for one more cycle; nothing else
changes before its effect. -/
def Obligations.SourceReads : Prop :=
  (∀ i u s t, useOf i = some u → s.thread s.cur = some t → LanternOk u s.cur → LevelOk u t → WideOk u t → RegsOk u t →
     (∀ n ∈ u.src ++ u.dst, Unbound s s.cur t n) →
     Issues i s t (ahead u s t) (ahead u s t) (regValue s s.cur t))
  ∧ (∀ u s t, s.thread s.cur = some t → t.gang = none → t.mirmask = 0 →
     ((∃ b, b < 4 ∧ 3 ≤ bankReads t u.src b) →
       ((s.core s.cur.core).rot = 0 → ahead u s t = s.modCore s.cur.core fun c => { c with late := 1, portBusy := s.cycle + 2 })
       ∧ ((s.core s.cur.core).rot ≠ 0 → ahead u s t = s.modCore s.cur.core fun c => { c with late := 1 }))
     ∧ ((¬ ∃ b, b < 4 ∧ 3 ≤ bankReads t u.src b) → ahead u s t = s))

/-- The checks at issue in their order (R86 checks 3 to 5, R359): each raises its cause before any effect, with the bits as
`tval` and the pc as `tpc`. Halfwords that encode no instruction raise ILLEGAL_OPCODE or RESERVED_FIELD (R86 checks 1 and 2):
`tpc` is the pc, `tval` the bits. -/
def Obligations.IssueChecks : Prop :=
  (∀ i u s t, useOf i = some u → s.thread s.cur = some t →
     (¬ LanternOk u s.cur → exec i s = .next (s.takeTrap s.cur cIllegalOpcode (bitsOf i) t.pc))
     ∧ (LanternOk u s.cur → ¬ LevelOk u t → exec i s = .next (s.takeTrap s.cur cPrivileged (bitsOf i) t.pc))
     ∧ (LanternOk u s.cur → LevelOk u t → ¬ WideOk u t → exec i s = .next (s.takeTrap s.cur cNoWideState (bitsOf i) t.pc))
     ∧ (LanternOk u s.cur → LevelOk u t → WideOk u t → ¬ RegsOk u t →
         exec i s = .next (s.takeTrap s.cur cRegLimit (bitsOf i) t.pc)))
  ∧ (∀ s w t e, s.duty = none → s.issuer = some (w, t) → t.next = [] → ¬ isFollower t → isLantern w.core = false → t.ahead = [] →
     decode (halvesAt s w.core t.pc) = .error e →
     ∃ len, step s = .next ((s.atIssue w { t with ilen := len }).takeTrap w
       (if e = .illegal then cIllegalOpcode else cReservedField) (bitsAt (halvesAt s w.core t.pc)) t.pc))

/-- Writing a general register that no stream is bound to (R56, R57, R60, R63): g0 discards; any other write is on its way with the
instruction's latency, and changes no register before its cycle. In that cycle the register takes the value, and every other
register of the thread holds what it held (R60). A return that has reached the file is written as soon as a slot is free, and its
thread is in rotation again (R60, R72). The frame of the integer instructions that write a register (R113): with no stream named and
outside gangs, nothing but the pc, the port's hold and the writes on their way changes, and of those only gD's joins. -/
def Obligations.Registers : Prop :=
  (∀ s w t n v, s.thread w = some t → Unbound s w t n →
     (n = 0 → s.writeG w n v = s) ∧ (n ≠ 0 → s.writeG w n v = sent s w (homeOf t n) (v.zeroExtend 512)))
  ∧ (∀ (s : State) w t n (v : Dword) due, s.thread w = some t → n ≠ 0 →
     (s.core w.core).writes = [fixedWrite due w.slot [(homeOf t n, v.zeroExtend 512)]] →
     (s.cycle < due → (s.land w.core).core w.core = s.core w.core ∧ OnlyCore s (s.land w.core) w.core)
     ∧ (due ≤ s.cycle → ∃ t', (s.land w.core).thread w = some t' ∧ t' = { t with hregs := t'.hregs }
         ∧ regValue (s.land w.core) w t' n = v ∧ (∀ m, m ≠ n → regValue (s.land w.core) w t' m = regValue s w t m)
         ∧ ((s.land w.core).core w.core).writes = [] ∧ OnlyCore s (s.land w.core) w.core))
  ∧ (∀ (s : State) w t n (v : Dword) due since, s.thread w = some t → t.run = .waiting .landing since → n ≠ 0 → Unbound s w t n →
     (s.core w.core).writes = [{ due, slot := w.slot, kind := .ret, regs := [(.reg n, v.zeroExtend 512)] }] →
     ∃ t', (s.land w.core).thread w = some t' ∧ t'.run = .ready ∧ regValue (s.land w.core) w t' n = v
       ∧ (∀ m, m ≠ n → regValue (s.land w.core) w t' m = regValue s w t m)
       ∧ ((s.land w.core).core w.core).writes = [] ∧ OnlyCore s (s.land w.core) w.core)
  ∧ (∀ i u s t s1 s2 rd d f s', (registerResult i = some (d, f) ∨ immediateResult t.pc i = some (d, f)) → useOf i = some u →
     Issues i s t s1 s2 rd → (∀ n ∈ u.src ++ u.dst, Unbound s s.cur t n) → t.gang = none → exec i s = .next s' →
     OnlyCore s s' s.cur.core ∧ s'.mem = s.mem
     ∧ (∀ c, (s'.core c).lstore = (s.core c).lstore ∧ (s'.core c).fe = (s.core c).fe)
     ∧ (let c := s.core s.cur.core; let c' := s'.core s.cur.core
        c' = { c with threads := c'.threads, portBusy := c'.portBusy, late := c'.late, writes := c'.writes }
        ∧ (d = 0 → c'.writes = c.writes)
        ∧ (d ≠ 0 → c'.writes = c.writes ++ [fixedWrite (s.cycle + 7 + c'.late) s.cur.slot [(homeOf t d, (f rd).zeroExtend 512)]]))
     ∧ (∀ w, w ≠ s.cur → s'.thread w = s.thread w)
     ∧ ∃ t', s'.thread s.cur = some t' ∧ t' = { t with pc := t'.pc })

/-- A source register that a stream is bound to (R279): `in` gives the element at the head of what has been read ahead and steps
the generator once, `arrive` gives the local words and empties them, or waits to take the first of them where one is empty or lies
in another core's store, an `out` binding gives zero; an exhausted stream raises STREAM_UNDERFLOW with the generator's number. A
destination register that a stream is bound to (R279): an exhausted `out` stream raises STREAM_OVERFLOW before any effect; an
element in the core's own local store is stored at the generator's address in the element's size, and the generator steps once; one
in another core's store goes through the cluster window, with its thread out of rotation (R265); `in` and `arrive` bindings
discard. -/
def Obligations.Streams : Prop :=
  (∀ (s : State) (w : Who) (t : Thread) (n i : Nat) (g : Gen), ¬ isShadow t n → (s.core w.core).boundGen w.slot n = some (i, g) →
     (∀ r, g.bound = some (r, .input) ∨ g.bound = some (r, .arrive) → g.exhausted = true →
       s.pop w t n = .stop (.trap cStreamUnderflow (nat64 i)))
     ∧ (∀ r x rest v, g.bound = some (r, .input) → g.exhausted = false → g.ahead = x :: rest → x.fault = none → x.val = some v →
         s.pop w t n = .ok ((s.modCore w.core fun c =>
           { c with gens := smSet c.gens i { g.step with ahead := rest } }).readAhead w.core i 16) v)
     ∧ (∀ r x rest cause, g.bound = some (r, .input) → g.exhausted = false → g.ahead = x :: rest → x.fault = some cause →
         s.pop w t n = .stop (.trap cause (x.val.getD x.addr)))
     ∧ (∀ r off, g.bound = some (r, .arrive) → g.exhausted = false → g.taken = [] → 4 ≤ g.bytes → g.addr.toNat % g.bytes = 0 →
         placeOf w.core g.addr = .own off → CleanSpan s w.core off g.bytes →
         ((∀ k, k < g.bytes / 4 → full s w.core (off / 4 + k) = true) →
           ∃ s2, s.pop w t n = .ok s2 (g.extend (localNum s w.core off g.bytes))
             ∧ (∀ k, k < g.bytes / 4 → full s2 w.core (off / 4 + k) = false)
             ∧ (s2.core w.core).lstore = (s.core w.core).lstore ∧ smGet (s2.core w.core).gens i = some g.step)
         ∧ ((∃ k, k < g.bytes / 4 ∧ full s w.core (off / 4 + k) = false) →
             s.pop w t n = .stop (.piece (.sync .ldTake w.core off (128 + i) 0))))
     ∧ (∀ r c off, g.bound = some (r, .arrive) → g.exhausted = false → g.taken = [] → 4 ≤ g.bytes → g.addr.toNat % g.bytes = 0 →
         placeOf w.core g.addr = .window c off → c ≠ w.core → CleanSpan s c off g.bytes →
         s.pop w t n = .stop (.piece (.sync .ldTake c off (128 + i) 0)))
     ∧ (∀ r, g.bound = some (r, .output) → s.pop w t n = .ok s 0))
  ∧ (∀ (s : State) (w : Who) (t : Thread) (n i : Nat) (g : Gen) (v : Dword), s.thread w = some t → ¬ isShadow t n → (s.core w.core).boundGen w.slot n = some (i, g) →
     (∀ r, g.bound = some (r, .output) → g.exhausted = true → s.outStop w t n = some (.trap cStreamOverflow (nat64 i)))
     ∧ (∀ r s', g.bound = some (r, .output) → g.exhausted = false →
         s.store w t g.addr g.bytes (v.toNat % 2 ^ (8 * g.bytes)) t.mpol = .ok s' →
         s.writeG w n v = s'.modCore w.core fun c => { c with gens := smSet c.gens i g.step })
     ∧ (∀ r core off, g.bound = some (r, .output) → g.exhausted = false →
         s.store w t g.addr g.bytes (v.toNat % 2 ^ (8 * g.bytes)) t.mpol = .window core off →
         s.writeG w n v = (waits (s.modCore w.core fun c => { c with gens := smSet c.gens i g.step }) w
           (.outStore core off g.bytes v) s.cycle).after 16 (.windowAccess w))
     ∧ (∀ r, g.bound = some (r, .input) ∨ g.bound = some (r, .arrive) → s.writeG w n v = s))

/-- Register operations (R114 to R116): the result of the table goes to gD, and the thread goes on behind the instruction.
Immediates and constants (R117, R118). -/
def Obligations.IntegerResults : Prop :=
  (∀ i d f, registerResult i = some (d, f) → ∀ s t s1 s2 rd, Issues i s t s1 s2 rd →
     exec i s = .next (wrote s2 s.cur t d (f rd)))
  ∧ (∀ i s t s1 s2 rd d f, immediateResult t.pc i = some (d, f) → Issues i s t s1 s2 rd →
     exec i s = .next (wrote s2 s.cur t d (f rd)))

/-- Branches (R121; R154 for gang followers). `jal` and `jalr` (R119, R120; R154 for gang followers): the link pc + 4 goes to
gD; an odd target of `jalr` traps and changes nothing. `c.j` and `c.ret` write no link. Readings and choices of the model in it:
log 109. -/
def Obligations.BranchesAndJumps : Prop :=
  (∀ i c off, branchCond i = some (c, off) → ∀ s t s1 s2 rd, Issues i s t s1 s2 rd →
     (¬ isFollower t → c rd → exec i s = .next (goTo s2 s.cur (pcMod (t.pc.toNat + off * 2))))
       ∧ (isFollower t ∨ ¬ c rd → exec i s = .next (goOn s2 s.cur t)))
  ∧ (∀ s t s1 s2 rd,
     (∀ d x, Issues (.jal d x) s t s1 s2 rd →
       (¬ isFollower t → exec (.jal d x) s =
         .next (goTo (s2.writeG s.cur d.toNat (nat64 ((t.pc.toNat + 4) % 2 ^ 16))) s.cur (pcMod (t.pc.toNat + x.toInt * 2))))
       ∧ (isFollower t → exec (.jal d x) s = .next (wrote s2 s.cur t d.toNat (nat64 ((t.pc.toNat + 4) % 2 ^ 16)))))
     ∧ (∀ x, Issues (.cJ x) s t s1 s2 rd →
       (¬ isFollower t → exec (.cJ x) s =
         .next (goTo (s2.writeG s.cur 0 (nat64 ((t.pc.toNat + 4) % 2 ^ 16))) s.cur (pcMod (t.pc.toNat + x.toInt * 2))))
       ∧ (isFollower t → exec (.cJ x) s = .next (wrote s2 s.cur t 0 (nat64 ((t.pc.toNat + 4) % 2 ^ 16)))))
     ∧ (∀ d a x, Issues (.jalr d a x) s t s1 s2 rd →
       let target := ((rd a.toNat).toNat + x.toInt) % 2 ^ 16
       (¬ isFollower t → target % 2 = 0 → exec (.jalr d a x) s =
         .next (goTo (s2.writeG s.cur d.toNat (nat64 ((t.pc.toNat + 4) % 2 ^ 16))) s.cur (pcMod target)))
       ∧ (¬ isFollower t → target % 2 = 1 → exec (.jalr d a x) s =
         .next (s1.takeTrap s.cur cMisaligned (int64 target) t.pc))
       ∧ (isFollower t → exec (.jalr d a x) s = .next (wrote s2 s.cur t d.toNat (nat64 ((t.pc.toNat + 4) % 2 ^ 16)))))
     ∧ (∀ a, Issues (.cRet a) s t s1 s2 rd →
       let target := ((rd a.toNat).toNat : Int) % 2 ^ 16
       (¬ isFollower t → target % 2 = 0 → exec (.cRet a) s =
         .next (goTo (s2.writeG s.cur 0 (nat64 ((t.pc.toNat + 4) % 2 ^ 16))) s.cur (pcMod target)))
       ∧ (¬ isFollower t → target % 2 = 1 → exec (.cRet a) s =
         .next (s1.takeTrap s.cur cMisaligned (int64 target) t.pc))
       ∧ (isFollower t → exec (.cRet a) s = .next (wrote s2 s.cur t 0 (nat64 ((t.pc.toNat + 4) % 2 ^ 16))))))

/-- FP32 arithmetic (R122, R126, R110, R112): the rounded result goes to gD, zero-extended, and its flags accrue. -/
def Obligations.FpArithmetic : Prop :=
  ∀ i s t s1 s2 rd d f, fpResult t.frm i = some (d, f) → Issues i s t s1 s2 rd →
    exec i s = .next (accrued (s2.writeG s.cur d (nat64 (f rd).1)) s.cur t (f rd).2)

/-- The compares, `fmin`, `fmax` and the sign operations (R122, R123, R125), with their flags. `fclass` (R124): the class word,
and no flag. A NaN operand gives the default NaN, with NV for a signalling one (R93, R97, R122, R126). -/
def Obligations.FpComparesAndNans : Prop :=
  (∀ i d f, fpExact i = some (d, f) → ∀ s t s1 s2 rd, Issues i s t s1 s2 rd →
     exec i s = .next (accrued (s2.writeG s.cur d (nat64 (f rd).1)) s.cur t (f rd).2))
  ∧ (∀ d a s t s1 s2 rd, Issues (.fclass d a) s t s1 s2 rd →
     ∃ w, IsClass (low32 (rd a.toNat)) w ∧ exec (.fclass d a) s = .next (wrote s2 s.cur t d.toNat (nat64 w)))
  ∧ (∀ rm x y z, x < 2 ^ 32 → y < 2 ^ 32 → z < 2 ^ 32 → isNaN fmt32 x = true ∨ isNaN fmt32 y = true →
     fmt32.add rm x y = (0x7FC00000, nvIf (isSNaN fmt32 x || isSNaN fmt32 y)) ∧ fmt32.sub rm x y = (0x7FC00000, nvIf (isSNaN fmt32 x || isSNaN fmt32 y))
     ∧ fmt32.mul rm x y = (0x7FC00000, nvIf (isSNaN fmt32 x || isSNaN fmt32 y)) ∧ fmt32.div rm x y = (0x7FC00000, nvIf (isSNaN fmt32 x || isSNaN fmt32 y))
     ∧ (isNaN fmt32 x = true → fmt32.sqrt rm x = (0x7FC00000, nvIf (isSNaN fmt32 x)))
     ∧ ∀ p q, (fmt32.fma rm p q x y z).1 = 0x7FC00000 ∧ (fmt32.fma rm p q z x y).1 = 0x7FC00000)

/-- One rounding (R96, R122): on finite operands, sums, differences, products, quotients and fused forms are the exact rational
result rounded once, and NX is set exactly when the result differs from it (R97). -/
def Obligations.ExactRounding : Prop :=
  ∀ f ∈ formats, ∀ rm x y z vx vy vz, x < 2 * f.signW → y < 2 * f.signW → z < 2 * f.signW →
    finiteVal f x = some vx → finiteVal f y = some vy → finiteVal f z = some vz →
    (Rounds f rm (vx + vy) (f.add rm x y).1 ∧ ((f.add rm x y).2.getLsbD 0 = true ↔ finiteVal f (f.add rm x y).1 ≠ some (vx + vy)))
    ∧ (Rounds f rm (vx - vy) (f.sub rm x y).1 ∧ ((f.sub rm x y).2.getLsbD 0 = true ↔ finiteVal f (f.sub rm x y).1 ≠ some (vx - vy)))
    ∧ (Rounds f rm (vx * vy) (f.mul rm x y).1 ∧ ((f.mul rm x y).2.getLsbD 0 = true ↔ finiteVal f (f.mul rm x y).1 ≠ some (vx * vy)))
    ∧ (vy ≠ 0 → Rounds f rm (vx / vy) (f.div rm x y).1
        ∧ ((f.div rm x y).2.getLsbD 0 = true ↔ finiteVal f (f.div rm x y).1 ≠ some (vx / vy)))
    ∧ Rounds f rm (vx * vy + vz) (f.fma rm false false x y z).1 ∧ Rounds f rm (vx * vy - vz) (f.fma rm false true x y z).1
    ∧ Rounds f rm (-(vx * vy) - vz) (f.fma rm true true x y z).1 ∧ Rounds f rm (-(vx * vy) + vz) (f.fma rm true false x y z).1

/-- `cvt` (R127, R128, R130): the source bits of the type are converted under the named rounding, or `fmode.rm`, and the result
is extended as its type says; with c8 a format descriptor that has a reserved bit traps with its word 0 and changes nothing. -/
def Obligations.Conversions : Prop :=
  ∀ d a rm dt st s t s1 s2 rd, Issues (.cvt d a rm dt st) s t s1 s2 rd →
    let r := (s2.core s.cur.core).convert t.fmtWord
      (match rm with | .rne => 0 | .rtz => 1 | .rdn => 2 | .rup => 3 | .dyn => t.frm) dt st ((rd a.toNat).toNat % 2 ^ st.width)
    ((dt = .c8 ∨ st = .c8) → FmtReserved t →
      exec (.cvt d a rm dt st) s = .next (s1.takeTrap s.cur cReservedField (nat64 t.fmtWord.toNat) t.pc))
    ∧ (((dt ≠ .c8 ∧ st ≠ .c8) ∨ ¬ FmtReserved t) →
      exec (.cvt d a rm dt st) s =
        .next (accrued (s2.writeG s.cur d.toNat (if dt = .i32 then (BitVec.ofNat 32 r.1).signExtend 64 else nat64 r.1)) s.cur t r.2))

/-- The special functions (R131, R135): with fewer than sixteen requests waiting, one more joins the queue's tail and the thread
waits for it; with sixteen the thread is not eligible, and nothing is issued. SFU_RESULT (R135, R136, R112): the request of the
thread leaves the unit, its result and its flags reach the register files, the pc goes on, and an enabled flag traps behind the
instruction; SFU_DISCARD_BLOCK_END ends the block of starts once its last cycle has passed. Readings and choices of the model in it:
log 8. -/
def Obligations.SpecialFunctions : Prop :=
  (∀ i f d a, sfuOf i = some (f, d, a) → ∀ s t s1 s2 rd, Issues i s t s1 s2 rd →
     let q := (s.core s.cur.core).sfu
     ((q.filter fun r => decide (s.cycle < r.start)).length < 16 →
       ∃ start, exec i s = .next (waits ((s2.modCore s.cur.core fun c =>
           { c with sfu := c.sfu ++ [{ w := s.cur, f, d, x := BitVec.ofNat 32 (low32 (rd a)), start }] }).after
             (start + 6 - s.cycle) (.sfuResult s.cur)) s.cur (.sfu f d (BitVec.ofNat 32 (low32 (rd a)))) s.cycle)
         ∧ s.cycle < start)
     ∧ (16 ≤ (q.filter fun r => decide (s.cycle < r.start)).length → exec i s = .next s))
  ∧ (∀ (s : State) w t h g i rest f d a, sfuOf i = some (f, d, a) → t.next = [] → ¬ isFollower t → isLantern w.core = false →
     t.ahead = [] → halvesAt s w.core t.pc = [h, g] → decode [h, g] = .ok (i, rest) →
     16 ≤ ((s.core w.core).sfu.filter fun r => decide (s.cycle < r.start)).length → s.eligible w t = false)
  ∧ ((∀ s w r t, (s.core w.core).sfu.find? (fun r => r.w == w) = some r → s.thread w = some t →
     let v := sfuFn r.f r.x.toNat
     let s2 := (s.modCore w.core fun c => { c with sfu := c.sfu.filter fun r => r.w != w }).completeWith w
       [(.reg r.d, BitVec.ofNat 512 v.1), (.orFlags, v.2.zeroExtend 512)]
     exec (.sfuResult w) s = .next (match enabledCause v.2 t.fen with
       | some cause => s2.takeTrap w cause 0 (t.pc + BitVec.ofNat 16 t.ilen)
       | none => s2))
   ∧ (∀ (s : State) w regs, regs ≠ [] →
       s.completeWith w regs = (s.modCore w.core fun c =>
           { c with writes := insertReturn (returnWrite s w regs) c.writes }).modThread w fun t =>
         { t with pc := t.pc + BitVec.ofNat 16 t.ilen, run := .waiting .landing s.cycle })
   ∧ ∀ s core, exec (.sfuDiscardBlockEnd core) s = .next (s.modCore core fun c =>
       { c with sfuBlocked := if c.sfuBlocked < s.cycle then 0 else c.sfuBlocked }))

/-- The integer lanes (R137, R141): active lanes get their results, the others keep what they held, and only `wadds` sets a
flag. -/
def Obligations.WideIntegerLanes : Prop :=
  ∀ i w a b k ty f, wideInteger i = some (w, a, b, k, ty, f) → ∀ s t s1 s2 rd, Issues i s t s1 s2 rd →
    let r := fun j => f (laneOf ty (wideReg s2 s.cur t a.toNat) j) (laneOf ty (wideReg s2 s.cur t b.toNat) j)
    ∃ v, Merged ty (active t k ty) (wideReg s2 s.cur t w.toNat) (fun j => (r j).1) v
      ∧ exec i s = .next (accrued (s2.writeW s.cur w.toNat v) s.cur t (together ty (active t k ty) fun j => (r j).2))

/-- The floating-point lanes (R137, R140, R142): each active lane is rounded once under the thread's mode, and the flags of the
active lanes accrue. -/
def Obligations.WideFloatLanes : Prop :=
  ∀ i s t s1 s2 rd w a b k ty f, i.wf = true → wideFloat t.frm i = some (w, a, b, k, ty, f) → Issues i s t s1 s2 rd →
    let r := fun j => f (laneOf ty (wideReg s2 s.cur t a.toNat) j) (laneOf ty (wideReg s2 s.cur t b.toNat) j)
      (laneOf ty (wideReg s2 s.cur t w.toNat) j)
    ∃ v, Merged ty (active t k ty) (wideReg s2 s.cur t w.toNat) (fun j => (r j).1) v
      ∧ exec i s = .next (accrued (s2.writeW s.cur w.toNat v) s.cur t (together ty (active t k ty) fun j => (r j).2))

/-- The compares (R143): bit i of kD is 1 exactly when lane i is active and the test holds, bits above the last lane are zero,
and the flags of the active lanes accrue; a write to k0 is discarded. The mask operations and `kpop` (R143), and k0, which
discards (R62). -/
def Obligations.WideComparesAndMasks : Prop :=
  (∀ i d a b k ty f, i.wf = true → wideCompare i = some (d, a, b, k, ty, f) → ∀ s t s1 s2 rd, Issues i s t s1 s2 rd →
     let r := fun j => f (laneOf ty (wideReg s2 s.cur t a.toNat) j) (laneOf ty (wideReg s2 s.cur t b.toNat) j)
     ∃ v : Dword, (∀ j, j < 64 → v.getLsbD j = (decide (j < lanes ty) && active t k ty j && (r j).1))
       ∧ exec i s = .next (accrued (s2.writeK s.cur d.toNat v) s.cur t (together ty (active t k ty) fun j => (r j).2)))
  ∧ ((∀ i d f, maskOp i = some (d, f) → ∀ s t s1 s2 rd, Issues i s t s1 s2 rd →
     exec i s = .next (goOn (s2.writeK s.cur d.toNat (f t)) s.cur t))
   ∧ (∀ d a s t s1 s2 rd, Issues (.kpop d a) s t s1 s2 rd →
     exec (.kpop d a) s =
       .next (wrote s2 s.cur t d.toNat (nat64 ((List.range 64).filter fun i => (maskReg t a.toNat).getLsbD i).length)))
   ∧ ∀ (s : State) w v, s.writeK w 0 v = s)

/-- Moving lanes (R144): `wbcast`, `wshuf`, `wrot`, `wzip`, `wunzip`, and `wsel`, which writes every lane. `wins` and `wext`
(R144): one lane, whose number is taken modulo the lane count. -/
def Obligations.LaneMoves : Prop :=
  ((∀ i w ty on f, laneMove i = some (w, ty, on, f) → ∀ s t s1 s2 rd, Issues i s t s1 s2 rd →
     ∃ v, Merged ty (on t) (wideReg s2 s.cur t w.toNat) (f (wideReg s2 s.cur t) rd) v
       ∧ exec i s = .next (goOn (s2.writeW s.cur w.toNat v) s.cur t))
   ∧ ∀ w a b k ty s t s1 s2 rd, Issues (.wsel w a b k ty) s t s1 s2 rd →
     ∃ v, Merged ty (fun _ => true) 0 (fun i =>
         laneOf ty (wideReg s2 s.cur t (if active t k ty i then a.toNat else b.toNat)) i) v
       ∧ exec (.wsel w a b k ty) s = .next (goOn (s2.writeW s.cur w.toNat v) s.cur t))
  ∧ ((∀ w a b ty s t s1 s2 rd, Issues (.wins w a b ty) s t s1 s2 rd →
     ∃ v, Merged ty (fun i => i == (rd a.toNat).toNat % lanes ty) (wideReg s2 s.cur t w.toNat)
         (fun _ => if ty = .e8m10 then (rd b.toNat).toNat % 2 ^ 19 else (rd b.toNat).toNat % 2 ^ ty.width) v
       ∧ exec (.wins w a b ty) s = .next (goOn (s2.writeW s.cur w.toNat v) s.cur t))
   ∧ ∀ d a b ty s t s1 s2 rd, Issues (.wext d a b ty) s t s1 s2 rd →
     exec (.wext d a b ty) s = .next (wrote s2 s.cur t d.toNat
       (int64 (laneNum ty (laneOf ty (wideReg s2 s.cur t a.toNat) ((rd b.toNat).toNat % lanes ty))))))

/-- The reductions (R93, R104, R140, R145): integers exactly, modulo 2^64; floating-point lanes widened to FP32, a NaN to the default
NaN, and combined in the pairwise tree, with every flag of the widening and the tree; and the stated results when no lane is
active. -/
def Obligations.Reductions : Prop :=
  (∀ i d a k ty f, i.wf = true → reduction i = some (d, a, k, ty, f) → ∀ s t s1 s2 rd, Issues i s t s1 s2 rd →
    exec i s = .next (wrote s2 s.cur t d.toNat (int64 (f ((activeOf t k ty (wideReg s2 s.cur t a.toNat)).map (laneNum ty))))))
  ∧ ∀ i s t s1 s2 rd d a k ty f e, i.wf = true → floatReduction t.frm i = some (d, a, k, ty, f, e) → Issues i s t s1 s2 rd →
    let l := (activeOf t k ty (wideReg s2 s.cur t a.toNat)).map fun x => fmt32.pack 0 (ty.fmt.decode (x % (2 * ty.fmt.signW)))
    let r := if l.isEmpty then (e, 0) else tree f 8 (l.map (·.1))
    exec i s = .next (accrued (s2.writeG s.cur d.toNat (nat64 r.1)) s.cur t (l.foldl (fun g p => g ||| p.2) r.2))

/-- The lane conversions (R129, R146): `wcvt`, `wnarrow` and `wwiden` convert lane by lane under the thread's mode, with the
flags of the active lanes of the destination. `wenc` and `wdec` (R100, R101, R146, R147): through the slots that the latched
format word names; a reserved bit of its descriptor traps with the word before any effect; the bytes above the last code of `wenc`
are zero. -/
def Obligations.LaneConversions : Prop :=
  (∀ s t s1 s2 rd,
     (∀ w a st k ty, Issues (.wcvt w a st k ty) s t s1 s2 rd →
       let r := fun j => (s2.core s.cur.core).convert t.fmtWord t.frm ty st (laneOf st (wideReg s2 s.cur t a.toNat) j)
       ∃ v, Merged ty (active t k ty) (wideReg s2 s.cur t w.toNat) (fun j => (r j).1) v
         ∧ exec (.wcvt w a st k ty) s =
           .next (accrued (s2.writeW s.cur w.toNat v) s.cur t (together ty (active t k ty) fun j => (r j).2)))
     ∧ (∀ w a b k ty, Issues (.wnarrow w a b k ty) s t s1 s2 rd →
       let n := lanes (partner ty)
       let r := fun j => (s2.core s.cur.core).convert t.fmtWord t.frm ty (partner ty)
         (if j < n then laneOf (partner ty) (wideReg s2 s.cur t a.toNat) j
          else laneOf (partner ty) (wideReg s2 s.cur t b.toNat) (j - n))
       ∃ v, Merged ty (active t k ty) (wideReg s2 s.cur t w.toNat) (fun j => (r j).1) v
         ∧ exec (.wnarrow w a b k ty) s =
           .next (accrued (s2.writeW s.cur w.toNat v) s.cur t (together ty (active t k ty) fun j => (r j).2)))
     ∧ ∀ w a h k ty, Issues (.wwiden w a h k ty) s t s1 s2 rd →
       let p := partner ty
       let r := fun j => (s2.core s.cur.core).convert t.fmtWord t.frm p ty
         (laneOf ty (wideReg s2 s.cur t a.toNat) (h.toNat * lanes p + j))
       ∃ v, Merged p (active t k p) (wideReg s2 s.cur t w.toNat) (fun j => (r j).1) v
         ∧ exec (.wwiden w a h k ty) s =
           .next (accrued (s2.writeW s.cur w.toNat v) s.cur t (together p (active t k p) fun j => (r j).2)))
  ∧ (∀ s t s1 s2 rd,
     (∀ w a ty, Issues (.wenc w a ty) s t s1 s2 rd →
       let r := fun j => (s2.core s.cur.core).encodeC8 (t.fmtWord.toNat / 16 % 4) (ty.fmt.decode (laneOf ty (wideReg s2 s.cur t a.toNat) j % (2 * ty.fmt.signW)))
       (FmtReserved t →
         exec (.wenc w a ty) s = .next (s1.takeTrap s.cur cReservedField (nat64 t.fmtWord.toNat) t.pc))
       ∧ (¬ FmtReserved t → ∃ v : Wide,
         (∀ j, j < 64 → rawOf .z8 v j = if j < lanes ty then (r j).1 % 2 ^ 8 else 0)
         ∧ exec (.wenc w a ty) s =
           .next (accrued (s2.writeW s.cur w.toNat v) s.cur t (together ty (fun _ => true) fun j => (r j).2))))
     ∧ ∀ w a g ty, Issues (.wdec w a g ty) s t s1 s2 rd →
       let r := fun j => ty.fmt.pack t.frm ((s2.core s.cur.core).decodeC8 (t.fmtWord.toNat % 4)
         (rawOf .z8 (wideReg s2 s.cur t a.toNat) (g.toNat * lanes ty + j)))
       (FmtReserved t →
         exec (.wdec w a g ty) s = .next (s1.takeTrap s.cur cReservedField (nat64 t.fmtWord.toNat) t.pc))
       ∧ (¬ FmtReserved t → ∃ v, Merged ty (fun _ => true) 0 (fun j => (r j).1) v
         ∧ exec (.wdec w a g ty) s =
           .next (accrued (s2.writeW s.cur w.toNat v) s.cur t (together ty (fun _ => true) fun j => (r j).2))))

/-- Loads from the core's own local store (R264 to R266, R213, R73): the bytes, extended as the form says, go to gD, whatever
the full/empty bits are. `ldp` and `ld.c` read a doubleword (R268). -/
def Obligations.LocalLoads : Prop :=
  (∀ i d n e z sg, loadOf i = some (d, n, e, z, sg) → ∀ s t s1 s2 rd off, Issues i s t s1 s2 rd →
    OwnLocal s.cur.core (effective (rd n) e z) off → off % z = 0 → CleanSpan s2 s.cur.core off z →
    exec i s = .next (wrote s2 s.cur t d (extended z sg (localNum s2 s.cur.core off z))))
  ∧ (∀ d n p s t s1 s2 rd off, Issues (.ldp d n p) s t s1 s2 rd → (rd p.toNat).toNat % 2 ^ 32 / 2 ^ 18 = 0 →
    OwnLocal s.cur.core (rd n.toNat) off → off % 8 = 0 → CleanSpan s2 s.cur.core off 8 →
    exec (.ldp d n p) s = .next (wrote s2 s.cur t d.toNat (nat64 (localNum s2 s.cur.core off 8))))
  ∧ ∀ d n m s t s1 s2 rd off, Issues (.ldC d n m) s t s1 s2 rd →
    OwnLocal s.cur.core (nat64 ((rd n.toNat).toNat + (rd m.toNat).toNat)) off → off % 8 = 0 → CleanSpan s2 s.cur.core off 8 →
    exec (.ldC d n m) s = .next (wrote s2 s.cur t d.toNat (nat64 (localNum s2 s.cur.core off 8)))

/-- Stores to the core's own local store (R264 to R266, R213): the bytes of gD stand at the address, every other byte of every
local store, every full/empty bit and all memory stay, and the thread goes on. -/
def Obligations.LocalStores : Prop :=
  (∀ i d n e z, storeOf i = some (d, n, e, z) → ∀ s t s1 s2 rd off, Issues i s t s1 s2 rd →
    OwnLocal s.cur.core (effective (rd n) e z) off → off % z = 0 →
    ∃ s3, exec i s = .next (goOn s3 s.cur t) ∧ localNum s3 s.cur.core off z = (rd d).toNat % 2 ^ (8 * z)
      ∧ LocalFrame s2 s3 s.cur.core off z ∧ OnlyCore s2 s3 s.cur.core ∧ s3.thread s.cur = s2.thread s.cur)
  ∧ ∀ d n p s t s1 s2 rd off, Issues (.stp d n p) s t s1 s2 rd → (rd p.toNat).toNat % 2 ^ 32 / 2 ^ 18 = 0 →
    OwnLocal s.cur.core (rd n.toNat) off → off % 8 = 0 →
    ∃ s3, exec (.stp d n p) s = .next (goOn s3 s.cur t) ∧ localNum s3 s.cur.core off 8 = (rd d.toNat).toNat
      ∧ LocalFrame s2 s3 s.cur.core off 8 ∧ OnlyCore s2 s3 s.cur.core ∧ s3.thread s.cur = s2.thread s.cur

/-- The checks of an access in their order (R265, R267): a reserved bit of a policy operand, then MISALIGNED with the address,
then LOCAL_BOUND for an address of the local region that belongs to no store; each before any effect. Which addresses lead where
(R264, R265, R359): below the local region memory; there the core's own store, the stores of its cluster through the window, and
nothing else; a lantern core has no local region. Translation (R264, R367, R368, R370). An address that no entry of the core's
TLB covers is a miss; through one that does, a page that is not open to U, or not writable at stage 1, is a page fault, one not
writable at stage 2 a guest fault with the guest-physical address; at H an address is device-physical. What a table entry is:
invalid, a table, or a leaf of its level's size. -/
def Obligations.Addresses : Prop :=
  (∀ i s t s1 s2 rd va z, Issues i s t s1 s2 rd → accessOf rd i = some (va, z) →
     (badPolicy rd i → exec i s = .next (s1.takeTrap s.cur cReservedField (bitsOf i) t.pc))
     ∧ (¬ badPolicy rd i → va.toNat % z ≠ 0 → exec i s = .next (s1.takeTrap s.cur cMisaligned va t.pc))
     ∧ (¬ badPolicy rd i → va.toNat % z = 0 → placeOf s.cur.core va = .bad →
         exec i s = .next (s1.takeTrap s.cur cLocalBound va t.pc)))
  ∧ (∀ core va,
     (va.toNat < 0xFFFFFFFFF0000000 → placeOf core va = .memory)
     ∧ (isLantern core = true → 0xFFFFFFFFF0000000 ≤ va.toNat → placeOf core va = .bad)
     ∧ (isLantern core = false → ∀ off, va.toNat = 0xFFFFFFFFF0000000 + off → off < 393216 → placeOf core va = .own off)
     ∧ (isLantern core = false → ∀ k off, k < 16 → off < 393216 → va.toNat = 0xFFFFFFFFF0000000 + 0x1000000 + k * 0x100000 + off →
         placeOf core va = if core / 16 * 16 + k = core then .own off else .window (core / 16 * 16 + k) off)
     ∧ (isLantern core = false → ∀ o, va.toNat = 0xFFFFFFFFF0000000 + o → 393216 ≤ o →
         (∀ k off, k < 16 → off < 393216 → o ≠ 0x1000000 + k * 0x100000 + off) → placeOf core va = .bad))
  ∧ ((∀ (s : State) w t va size store pol, t.level ≠ .h →
     (tlbFind (s.core w.core).tlb t.part t.spc va = none → s.xlate w t va size store pol = .miss)
     ∧ ∀ e, tlbFind (s.core w.core).tlb t.part t.spc va = some e → e.home = 1 → e.repl ≠ 3 →
       e.frame * 2 ^ e.bits + va.toNat % 2 ^ e.bits < 2 ^ 39 → (e.frame * 2 ^ e.bits + va.toNat % 2 ^ e.bits) % 2 ^ 36 < 64000000000 →
       s.xlate w t va size store pol = throughTlb e va size store (decide (t.level = .u)) pol)
   ∧ (∀ (s : State) w t (va : Dword) size store pol, t.level = .h → va.toNat < 2 ^ 39 → va.toNat % 2 ^ 36 < 64000000000 →
     ∃ a, s.xlate w t va size store pol = .ok a ∧ a.pa = va.toNat ∧ a.va = va ∧ a.size = size)
   ∧ ∀ (e : Dword) l s2, l ≤ 3 → let v := e.toNat; let size := v / 2 ^ 52 % 16
     (v % 2 = 0 → pteKind e l s2 = .bad)
     ∧ (v % 2 = 1 → size = 15 → 1 ≤ l → v / 2 ^ 56 = 0 → v % 4096 = 1 → pteKind e l s2 = .table (v / 4096 % 2 ^ 40 * 4096))
     ∧ (v % 2 = 1 → size = l → l ≤ 2 → v / 2 ^ 59 = 0 → v / 2 ^ 16 % 2 ^ 36 % 2 ^ ([0, 5, 14].getD l 0) = 0 → (s2 = true → v / 4 % 2 ^ 14 = 0) →
       pteKind e l s2 = .leaf (v / 2 ^ 16 % 2 ^ 36 * 2 ^ 16))
     ∧ (v % 2 = 1 → size ≠ 15 → size ≠ l ∨ 2 < size → pteKind e l s2 = .bad))

/-- Loads from memory (R266, R72, R211): the data that the core holds goes to gD at once; a load that misses leaves rotation
with its access and a read on its way; the line joins the read signature of a task (R223). Stores to memory (R266, R211, R216,
R218): an open-mode store stands in the thread's write-combining buffer, a task-mode one in a speculative line of its group,
over what was there; storage and the local stores stay. Readings and choices of the model in it: log 32. -/
def Obligations.LoadsAndStores : Prop :=
  (∀ i d n e z sg, loadOf i = some (d, n, e, z, sg) → ∀ s t s1 s2 rd, Issues i s t s1 s2 rd →
     let va := effective (rd n) e z
     (∀ s3 v, s2.load s.cur t va z t.mpol = .hit s3 v → exec i s = .next (wrote s3 s.cur t d (extended z sg v)))
     ∧ (∀ a, let b := s2.coreBytes s.cur t a.line
         va.toNat % z = 0 → placeOf s.cur.core va = .memory → s2.xlate s.cur t va z false t.mpol = .ok a → smGet s2.poison a.line = none →
         b.mask &&& maskOf (a.pa % 128) z = maskOf (a.pa % 128) z → ∃ s3, s3.mem = s2.mem
           ∧ exec i s = .next (wrote s3 s.cur t d (extended z sg (lineNat b.data (a.pa % 128) z)))
           ∧ (∀ g, t.openMode = false → s2.group s.cur.core t.gid = some g →
               ∃ g', s3.group s.cur.core t.gid = some g' ∧ g'.rsig = sigAdd g.rsig a.line))
     ∧ (∀ a cause, va.toNat % z = 0 → placeOf s.cur.core va = .memory → s2.xlate s.cur t va z false t.mpol = .ok a →
         smGet s2.poison a.line = some cause → exec i s = .next (s1.takeTrap s.cur cause va t.pc))
     ∧ (∀ cause tval, va.toNat % z = 0 → placeOf s.cur.core va = .memory → s2.xlate s.cur t va z false t.mpol = .fault cause tval →
         exec i s = .next (s1.takeTrap s.cur cause tval t.pc))
     ∧ (va.toNat % z = 0 → placeOf s.cur.core va = .memory → s2.xlate s.cur t va z false t.mpol = .miss → t.gang = none → t.fwd = false →
         exec i s = .next (waits s1 s.cur (.retry (.walk t.spc va false)) s.cycle))
     ∧ (∀ s3 a, s2.load s.cur t va z t.mpol = .miss s3 a →
         exec i s = .next (waits (s3.sendRead s.cur a) s.cur (.load a (.g d z sg)) s.cycle))
     ∧ (∀ core off, s2.load s.cur t va z t.mpol = .window core off →
         exec i s = .next (waits (s2.after 16 (.windowAccess s.cur)) s.cur (.winLoad core off z (.g d z sg)) s.cycle)))
  ∧ (∀ i d n e z, storeOf i = some (d, n, e, z) → ∀ s t s1 s2 rd a, Issues i s t s1 s2 rd →
     let va := effective (rd n) e z
     va.toNat % z = 0 → placeOf s.cur.core va = .memory → s2.xlate s.cur t va z true t.mpol = .ok a → a.pa % z = 0 →
     (t.openMode = true → s2.thread s.cur = some t → t.wcb.length < 4 ∨ t.wcb.any (fun x => x.lw.line == a.line) = true →
       ∃ s3 x t', exec i s = .next (goOn s3 s.cur t) ∧ s3.thread s.cur = some t' ∧ x ∈ t'.wcb ∧ x.lw.line = a.line
         ∧ x.lw.mask &&& maskOf (a.pa % 128) z = maskOf (a.pa % 128) z
         ∧ lineNat x.lw.data (a.pa % 128) z = (rd d).toNat % 2 ^ (8 * z)
         ∧ s3.mem = s2.mem ∧ ∀ c, (s3.core c).lstore = (s2.core c).lstore)
     ∧ (∀ g, t.openMode = false → s2.group s.cur.core t.gid = some g → g.unbounded = false →
       (s2.core s.cur.core).spec.any (fun x => x.gid == t.gid && x.lw.line == a.line) = true →
       ∃ s3 x, exec i s = .next (goOn s3 s.cur t) ∧ x ∈ (s3.core s.cur.core).spec ∧ x.gid = t.gid ∧ x.lw.line = a.line
         ∧ lineNat x.lw.data (a.pa % 128) z = (rd d).toNat % 2 ^ (8 * z)
         ∧ s3.mem = s2.mem ∧ ∀ c, (s3.core c).lstore = (s2.core c).lstore))

/-- The full/empty forms on a word of the core's own local store (R269): a form whose condition holds changes the word and its
bit as the table says in one stage and gives the word; one whose condition fails leaves rotation with nothing changed but the
list of signallers. A misaligned address and a memory address trap. Wide access to the core's own local store (R148 to R150):
`wld` and `wst` move 64 bytes, `wld.sync` waits until sixteen words are full and reads them, and `wst.fill` stores sixteen words
and sets them full. -/
def Obligations.LocalFullEmpty : Prop :=
  (∀ i op d n src, syncOf i = some (op, d, n, src) → ∀ s t s1 s2 rd, Issues i s t s1 s2 rd →
     let va := rd n
     (va.toNat % 4 ≠ 0 → exec i s = .next (s1.takeTrap s.cur cMisaligned va t.pc))
     ∧ (va.toNat % 4 = 0 → placeOf s.cur.core va = .memory ∨ placeOf s.cur.core va = .bad →
         exec i s = .next (s1.takeTrap s.cur cLocalBound va t.pc))
     ∧ ∀ off, OwnLocal s.cur.core va off → off % 4 = 0 → CleanSpan s2 s.cur.core off 4 →
       (needs op = none ∨ needs op = some (full s2 s.cur.core (off / 4)) →
         ∃ s3, exec i s = .next (if readsWord op then wrote s3 s.cur t d (nat64 (localNum s2 s.cur.core off 4)) else goOn s3 s.cur t)
           ∧ full s3 s.cur.core (off / 4) = fillsTo op (full s2 s.cur.core (off / 4))
           ∧ localNum s3 s.cur.core off 4 = wordTo op (localNum s2 s.cur.core off 4) (low32 (rd src))
           ∧ (∀ k, k ≠ off / 4 → full s3 s.cur.core k = full s2 s.cur.core k)
           ∧ (∀ a, a < off ∨ off + 4 ≤ a → localByte s3 s.cur.core a = localByte s2 s.cur.core a) ∧ OnlyCore s2 s3 s.cur.core)
       ∧ (needs op = some (!full s2 s.cur.core (off / 4)) →
         ∃ s3, exec i s = .next (waits s3 s.cur (.sync op s.cur.core off d (BitVec.ofNat 32 (low32 (if readsWord op then 0 else rd src))))
             s.cycle)
           ∧ (s3.core s.cur.core).lstore = (s2.core s.cur.core).lstore ∧ (s3.core s.cur.core).fe = (s2.core s.cur.core).fe))
  ∧ (∀ (w : Reg4) (n : GReg) (e : BitVec 8) s t s1 s2 rd off, OwnLocal s.cur.core (effective (rd n.toNat) e.toInt 64) off → off % 64 = 0 →
     CleanSpan s2 s.cur.core off 64 →
     (Issues (.wld w n e) s t s1 s2 rd →
       exec (.wld w n e) s = .next (goOn (s2.writeW s.cur w.toNat (BitVec.ofNat 512 (localNum s2 s.cur.core off 64))) s.cur t))
     ∧ (Issues (.wst w n e) s t s1 s2 rd → ∃ s3, exec (.wst w n e) s = .next (goOn s3 s.cur t)
         ∧ localNum s3 s.cur.core off 64 = (wideReg s2 s.cur t w.toNat).toNat ∧ LocalFrame s2 s3 s.cur.core off 64)
     ∧ (Issues (.wldSync w n e) s t s1 s2 rd →
       ((∀ k, k < 16 → full s2 s.cur.core (off / 4 + k) = true) → exec (.wldSync w n e) s =
         .next (goOn (s2.writeW s.cur w.toNat (BitVec.ofNat 512 (localNum s2 s.cur.core off 64))) s.cur t))
       ∧ ((∃ k, k < 16 ∧ full s2 s.cur.core (off / 4 + k) = false) →
         exec (.wldSync w n e) s = .next (waits s2 s.cur (.wideSync w.toNat off) s.cycle)))
     ∧ (Issues (.wstFill w n e) s t s1 s2 rd → ∃ s3, exec (.wstFill w n e) s = .next (goOn s3 s.cur t)
         ∧ localNum s3 s.cur.core off 64 = (wideReg s2 s.cur t w.toNat).toNat
         ∧ (∀ k, k < 16 → full s3 s.cur.core (off / 4 + k) = true)
         ∧ (∀ k, k < off / 4 ∨ off / 4 + 16 ≤ k → full s3 s.cur.core k = full s2 s.cur.core k)
         ∧ (∀ a, a < off ∨ off + 64 ≤ a → localByte s3 s.cur.core a = localByte s2 s.cur.core a) ∧ s3.mem = s2.mem))

/-- `mfs` writes the register's used bits, zero-extended, to gD (R67, R374). `mts` (R66, R374, R375): a register that is
read-only at every level raises PRIVILEGED at S, as one that only S writes does below S; otherwise the used bits are written,
even pc fields drop bit 0, and a value that R375 does not admit raises RESERVED_FIELD. `fflags` is written with the latency of the
instruction, and flags that accrue in the cycle of the write are set in what it leaves (R112). -/
def Obligations.SpecialRegisters : Prop :=
  (∀ d sel s t s1 s2 rd, Issues (.mfs d sel) s t s1 s2 rd →
     exec (.mfs d sel) s = .next (wrote s2 s.cur t d.toNat (nat64 (sprHolds s2 s.cur t sel))))
  ∧ (∀ d sel s t s1 s2 rd, Issues (.mts d sel) s t s1 s2 rd →
     (ReadOnly sel → exec (.mts d sel) s = .next (s1.takeTrap s.cur cPrivileged (bitsOf (.mts d sel)) t.pc))
     ∧ (¬ ReadOnly sel → sel ≠ .fflags → sprTakesIt sel (rd d.toNat) t →
         exec (.mts d sel) s = .next (goOn (s2.modThread s.cur (sprTakes sel (rd d.toNat))) s.cur t))
     ∧ (sel = .fflags →
         exec (.mts d sel) s = .next (goOn (sent s2 s.cur .flags (BitVec.ofNat 512 ((rd d.toNat).toNat % 2 ^ 9))) s.cur t))
     ∧ (¬ ReadOnly sel → ¬ sprTakesIt sel (rd d.toNat) t →
         exec (.mts d sel) s = .next (s1.takeTrap s.cur cReservedField (bitsOf (.mts d sel)) t.pc)))
  ∧ ∀ (s : State) w t (v g : BitVec 9) d1 d2, s.thread w = some t → d1 ≤ s.cycle → d2 ≤ s.cycle →
     (s.core w.core).writes = [fixedWrite d1 w.slot [(.flags, v.zeroExtend 512)], fixedWrite d2 w.slot [(.orFlags, g.zeroExtend 512)]] →
     (s.land w.core).thread w = some { t with fflags := v ||| g } ∧ ((s.land w.core).core w.core).writes = []

/-- Taking a cause outside gangs (R63, R216, R383, R384, R386). The local handler takes what R63 gives it, with the pc at `lvec`, the
write-combining buffer drained, and nothing else changed. Any other cause at U goes to S in the thread: `cause`, `tpc`, `tval`, h0 to h2, level S, handler state, pc
at `strap`, and causes 0x70, 0x71, 0x73 and 0x74 send an event to the lantern cores as well (R387); a task that is not secure is
aborted, its record is back on its core marked fault-pending where its fixed list or its deque has room, and h2 is all ones. At S, and
for GUEST_FAULT and LINK_LASTING, the thread stops trapped and an event of four doublewords goes to the lantern cores. Readings and choices of the model in it: log 33. -/
def Obligations.TrapDelivery : Prop :=
  ∀ (s : State) (w : Who) (t : Thread) (cause : Nat) (tval : Dword) (tpc : Half), s.thread w = some t → t.gang = none → cause < 128 →
    ∃ t', (s.takeTrap w cause tval tpc).thread w = some t' ∧ t'.gbase = t.gbase ∧ t'.glim = t.glim
    ∧ ((s.takeTrap w cause tval tpc).core w.core).gfile = (s.core w.core).gfile ∧
    (TakenLocally t cause →
      TrapRegs t t' cause tval (tpc.zeroExtend 64)
      ∧ t' = { t with pc := t.lvec, handler := true, run := .ready, hregs := t'.hregs, wcb := [], pieces := [], parts := t'.parts }
      ∧ (t.run = .ready → t'.parts = t.parts))
    ∧ (¬ TakenLocally t cause → ¬ TakenAtH t cause →
      t'.cause.toNat = cause ∧ t'.tpc = tpc ∧ t'.tval = tval ∧ t'.level = .s ∧ t'.handler = true ∧ t'.run = .ready
      ∧ t'.pc.toNat = (s.part t.part).strap.toNat / 2 * 2
      ∧ (cause ∈ [0x70, 0x71, 0x73, 0x74] → ∃ x ∈ (s.takeTrap w cause tval tpc).agenda, x.ev = .hypervisorEvent
          { cause, tval, tpc := tpc.zeroExtend 64, word := nat64 (t.part * 2 ^ 24 + w.core * 2 ^ 8 + w.slot), d := 0, n := 0, args := [] })
      ∧ ((∀ g, s.taskOf w t = some g → g.secure = true) →
          TrapRegs t t' cause tval (tpc.zeroExtend 64) ∧ t'.openMode = t.openMode ∧ (s.taskOf w t = none → t'.wcb = []))
      ∧ ∀ g, s.taskOf w t = some g → g.secure = false →
          TrapRegs t t' cause tval (BitVec.allOnes 64) ∧ (s.takeTrap w cause tval tpc).group w.core t.gid = none
          ∧ (detFlag g.task ∨ (s.core w.core).deque.length < 256 → { g.task with faulted := true, again := true } ∈
            ((s.takeTrap w cause tval tpc).core w.core).deque ++ ((s.takeTrap w cause tval tpc).core w.core).fixed))
    ∧ (TakenAtH t cause →
      t'.run = .trapped ∧ t'.pc = tpc ∧ t'.level = t.level ∧ t'.hregs = t.hregs ∧ t'.cause = t.cause
      ∧ ∃ x ∈ (s.takeTrap w cause tval tpc).agenda, x.ev = .hypervisorEvent
          { cause, tval, tpc := tpc.zeroExtend 64, word := nat64 (t.part * 2 ^ 24 + w.core * 2 ^ 8 + w.slot), d := 0, n := 0, args := [] })

/-- `trap` raises SOFTWARE_TRAP with its code behind itself (R389); `hret` resumes at h2 in handler state and raises
RESERVED_FIELD outside it (R390); `tret` resumes at `tpc` at U, or, in a handler of an aborted task or a detached cause whose h2
is all ones, clears the record's mark and ends the thread (R391). -/
def Obligations.TrapsAndReturns : Prop :=
  ∀ s t s1 s2 rd,
    (∀ e, Issues (.trap e) s t s1 s2 rd →
      exec (.trap e) s = .next ((goOn s2 s.cur t).takeTrap s.cur cSoftwareTrap (nat64 e.toNat) (t.pc + BitVec.ofNat 16 t.ilen)))
    ∧ (Issues .hret s t s1 s2 rd → t.handler = true →
      exec .hret s = .next (s2.modThread s.cur fun x => { x with pc := evenBits (smGetD x.hregs 2 0), handler := false }))
    ∧ (Issues .hret s t s1 s2 rd → t.handler = false → exec .hret s = .next (s1.takeTrap s.cur cReservedField (bitsOf .hret) t.pc))
    ∧ (Issues .tret s t s1 s2 rd → t.ended = false ∨ smGetD t.hregs 2 0 ≠ BitVec.allOnes 64 →
      exec .tret s = .next (s2.modThread s.cur fun x => { x with pc := x.tpc, level := .u, handler := false }))
    ∧ (Issues .tret s t s1 s2 rd → t.ended = true → smGetD t.hregs 2 0 = BitVec.allOnes 64 →
      exec .tret s = .next ((match t.record with
        | some a => s2.clearMark t.recCore a
        | none => s2).endThread s.cur { t with record := none } true))

/-- The plain system forms (R393, R379, R392, R81): `nop` and `c.nop` only go on; `wfe` clears the event bit or waits for it;
`klog` puts one entry at the head of the die's log, which has 4,096 places; `hcall` sends the number and four registers and
waits for the reply, which writes gD and g(D + 1). Readings and choices of the model in it: logs 69, 110. -/
def Obligations.SystemForms : Prop :=
  ∀ s t s1 s2 rd,
    (Issues .nop s t s1 s2 rd → exec .nop s = .next (goOn s2 s.cur t))
    ∧ (Issues .cNop s t s1 s2 rd → exec .cNop s = .next (goOn s2 s.cur t))
    ∧ (Issues .wfe s t s1 s2 rd →
      exec .wfe s = .next (if t.event then goOn (s2.modThread s.cur fun x => { x with event := false }) s.cur t
        else waits s2 s.cur .wfe s.cycle))
    ∧ (∀ a c, Issues (.klog a c) s t s1 s2 rd → ∃ s3, exec (.klog a c) s = .next (goOn s3 s.cur t)
        ∧ (s3 = s2.modDie (dieOf s.cur.core) fun d => { d with
             klog     := smSet d.klog d.klogHead
               (klogEntry s2.cycle kSoftware c.toNat t.part s.cur.slot s.cur.core (rd a.toNat) (s2.core s.cur.core).cyc)
             klogHead := (d.klogHead + 1) % 4096 }))
    ∧ (∀ d n, Issues (.hcall d n) s t s1 s2 rd →
      (d = 0 → exec (.hcall d n) s = .next (s1.takeTrap s.cur cReservedField (bitsOf (.hcall d n)) t.pc))
      ∧ (d ≠ 0 → ¬ RunHeld t d.toNat 4 → exec (.hcall d n) s = .next (s1.takeTrap s.cur cRegLimit (bitsOf (.hcall d n)) t.pc))
      ∧ (d ≠ 0 → RunHeld t d.toNat 4 → (∀ k, k < 4 → Unbound s2 s.cur t (d.toNat + k)) →
        ∃ s3, exec (.hcall d n) s = .next (waits s3 s.cur (.hcall d.toNat) s.cycle) ∧ s3 = { s2 with agenda := s3.agenda, fresh := s3.fresh }
          ∧ ∃ x ∈ s3.agenda, x.ev = .hypervisorEvent
            { cause := cHcall, tval := nat64 n.toNat, tpc := t.pc.zeroExtend 64, d := d.toNat, n := n.toNat,
              word := nat64 (t.part * 2 ^ 24 + s.cur.core * 2 ^ 8 + s.cur.slot),
              args := (List.range 4).map fun k => regValue s2 s.cur t (d.toNat + k) }))
    ∧ ∀ w d status result since x, s.thread w = some x → x.run = .waiting (.hcall d) since →
      exec (.hcallReply w status result) s = .next (s.complete w [(d, status), (d + 1, result)])

/-- The removals of R377 and R378: a space number above 4,095 and a core register with a bit above 10 raise RESERVED_FIELD, a
core outside the partition raises PARTITION_VIOLATION; otherwise the thread leaves rotation, and a removal is on its way to
every core, cluster and die of the partition, or the ordering message to the core. Readings and choices of the model in it: log
68. -/
def Obligations.Removals : Prop :=
  ∀ s t s1 s2 rd,
    (∀ d a, Issues (.tlbInv d a) s t s1 s2 rd →
      (4096 ≤ (rd d.toNat).toNat → exec (.tlbInv d a) s = .next (s1.takeTrap s.cur cReservedField (bitsOf (.tlbInv d a)) t.pc))
      ∧ ((rd d.toNat).toNat < 4096 → ∃ s3 l, exec (.tlbInv d a) s
          = .next (waits s3 s.cur (.tlbInv (removalTargets (s2.part t.part).spec.clusters) l) s.cycle)
          ∧ s3 = { s2 with agenda := s3.agenda, fresh := s3.fresh }
          ∧ ∀ c, c < 2048 → (s2.part t.part).spec.clusters.getLsbD (c / 16) = true → ∃ x ∈ s3.agenda, ∃ m, x.ev = .tlbInvArrival m
              ∧ m.level = 0 ∧ m.target = c ∧ m.part = t.part ∧ m.space = some (rd d.toNat).toNat ∧ m.va = some (rd a.toNat) ∧ m.w = s.cur))
    ∧ (∀ a, Issues (.tlbAll a) s t s1 s2 rd →
      (4096 ≤ (rd a.toNat).toNat → exec (.tlbAll a) s = .next (s1.takeTrap s.cur cReservedField (bitsOf (.tlbAll a)) t.pc))
      ∧ ((rd a.toNat).toNat < 4096 → ∃ s3 l, exec (.tlbAll a) s
          = .next (waits s3 s.cur (.tlbInv (removalTargets (s2.part t.part).spec.clusters) l) s.cycle)
          ∧ s3 = { s2 with agenda := s3.agenda, fresh := s3.fresh }))
    ∧ (Issues .tlbAllPart s t s1 s2 rd → ∃ s3 l, exec .tlbAllPart s
          = .next (waits s3 s.cur (.tlbInv (removalTargets (s2.part t.part).spec.clusters) l) s.cycle)
          ∧ s3 = { s2 with agenda := s3.agenda, fresh := s3.fresh })
    ∧ ∀ a, Issues (.istInv a) s t s1 s2 rd → let v := (rd a.toNat).toNat
      (2 ^ 11 ≤ v → exec (.istInv a) s = .next (s1.takeTrap s.cur cReservedField (bitsOf (.istInv a)) t.pc))
      ∧ (v < 2 ^ 11 → (s2.part t.part).spec.clusters.getLsbD (v / 16) = false →
        exec (.istInv a) s = .next (s1.takeTrap s.cur cPartitionViolation (rd a.toNat) t.pc))
      ∧ (v < 2 ^ 11 → (s2.part t.part).spec.clusters.getLsbD (v / 16) = true →
        ∃ s3, exec (.istInv a) s = .next (waits s3 s.cur .istInv s.cycle) ∧ s3 = { s2 with agenda := s3.agenda, fresh := s3.fresh }
          ∧ ∃ x ∈ s3.agenda, x.ev = .istInvArrival v s.cur)

/-- Saving a thread and restoring one (R380, R381): a misaligned area raises MISALIGNED; `tsave` of a free slot, of the issuing
slot, of a task-mode thread or of another partition's raises RESERVED_FIELD with the slot; an accepted one stops the thread and
waits. `trest` writes the slot it restores into, or all ones with nothing taken. Readings and choices of the model in it: logs
70, 71. -/
def Obligations.SaveAndRestore : Prop :=
  ∀ s t s1 s2 rd,
    (∀ a n, Issues (.tsave a n) s t s1 s2 rd → let va := rd a.toNat; let v : Who := { s.cur with slot := n.toNat }
      (va.toNat % 64 ≠ 0 → exec (.tsave a n) s = .next (s1.takeTrap s.cur cMisaligned va t.pc))
      ∧ (va.toNat % 64 = 0 → (s2.thread v = none ∨ v = s.cur ∨ ∃ x, s2.thread v = some x ∧ (x.openMode = false ∨ x.part ≠ t.part)) →
        exec (.tsave a n) s = .next (s1.takeTrap s.cur cReservedField (nat64 n.toNat) t.pc))
      ∧ ∀ x s3, va.toNat % 64 = 0 → s2.thread v = some x → v ≠ s.cur → x.savable t.part = true →
        s2.areaPut s.cur t va (areaPieces (s2.areaOf v x s2.nextTag)) = .ok s3 →
        exec (.tsave a n) s = .next (waits (s2.stopForSave v) s.cur (.tsave n.toNat va) s.cycle)
        ∧ ∃ y, (s2.stopForSave v).thread v = some y ∧ y.run = .waiting .saved s2.cycle ∧ y.wcb = [])
    ∧ ∀ d a, Issues (.trest d a) s t s1 s2 rd → let va := rd a.toNat
      (va.toNat % 64 ≠ 0 → exec (.trest d a) s = .next (s1.takeTrap s.cur cMisaligned va t.pc))
      ∧ ∀ s3 s4 h l, va.toNat % 64 = 0 → s2.gather s.cur t va 64 8 = .ok (s3, h) → 8 ≤ natBits (areaDw h 0) 48 16 →
        s2.gather s.cur t va 64 (natBits (areaDw h 0) 48 16) = .ok (s4, l) →
        let p := areaPlan l; let rs := areaRanges l p.nranges p.oRange
        let gs := (List.range p.gens.length).filterMap fun i => areaGen l (p.oGen + 64 * i) 0
        areaOk l p rs = true → gs.map (·.1) = p.gens →
        ((s4.core s.cur.core).areaRoom p (BitVec.ofNat 64 (areaDw l 8)) rs = none →
          exec (.trest d a) s = .next (wrote s4 s.cur t d.toNat (BitVec.allOnes 64)))
        ∧ ∀ slot gb wb, (s4.core s.cur.core).areaRoom p (BitVec.ofNat 64 (areaDw l 8)) rs = some (slot, gb, wb) →
          exec (.trest d a) s = .next (wrote (s4.bringIn s.cur.core l p rs slot gb wb
            (gs.map fun y => (y.1, { y.2 with owner := some slot }))) s.cur t d.toNat (nat64 slot))

/-- Queued reservations and fused atomics (R230, R235, R270, R271). Before its task is secure a form waits for that. A form then
stands in the queue of its word and its thread waits; the bank serves the head of a queue when it may and the line's turn has come:
an atomic answers the old word and writes the new one, `lrw` answers the word and reserves it, `scq` of the holder writes and answers
0, and `rsv.drop` of the holder frees the word. `scq` and `rsv.drop` without the reservation are answered at once, `scq` with 1.
Readings and choices of the model in it: logs 27, 28. -/
def Obligations.Atomics : Prop :=
  (∀ i op d a b f, atomicOf i = some (op, d, a, b, f) → ∀ s t s1 s2 rd, Issues i s t s1 s2 rd →
    (NotSecure s2 s.cur t → exec i s = .next (finish s1 s.cur t (.retry .secure false)))
    ∧ (∀ x, ¬ NotSecure s2 s.cur t → BankAddr s2 s.cur t (rd a) 8 true x →
      ∃ s3 r, exec i s = .next (waits s3 s.cur (.rsv (x.pa / 8 * 8) op d (rd b) (rd d)) s.cycle) ∧ Queued s3 x r
        ∧ r.w = s.cur ∧ r.op = op ∧ r.d = d ∧ r.b = rd b ∧ r.x = rd d ∧ s3.mem = s2.mem))
  ∧ (∀ d a s t s1 s2 rd x, Issues (.lrw d a) s t s1 s2 rd → ¬ NotSecure s2 s.cur t → BankAddr s2 s.cur t (rd a.toNat) 8 true x →
      ∃ s3 r, exec (.lrw d a) s = .next (waits s3 s.cur (.rsv (x.pa / 8 * 8) .lrw d.toNat 0 0) s.cycle) ∧ Queued s3 x r
        ∧ r.w = s.cur ∧ r.op = .lrw ∧ r.d = d.toNat)
  ∧ (∀ d a b s t s1 s2 rd x, Issues (.scq d a b) s t s1 s2 rd → ¬ NotSecure s2 s.cur t → BankAddr s2 s.cur t (rd a.toNat) 8 true x →
      (t.rsv = some (x.pa / 8 * 8) →
        ∃ s3 r, exec (.scq d a b) s = .next (waits s3 s.cur (.rsv (x.pa / 8 * 8) .scq d.toNat (rd b.toNat) 0) s.cycle) ∧ Queued s3 x r
          ∧ r.w = s.cur ∧ r.op = .scq ∧ r.d = d.toNat ∧ r.b = rd b.toNat)
      ∧ (t.rsv ≠ some (x.pa / 8 * 8) → ∃ s3, exec (.scq d a b) s = .next (waits s3 s.cur (.answer [(d.toNat, 1)]) s.cycle)
          ∧ OnWay s3 (.agentAnswer s.cur) ∧ s3.mem = s2.mem))
  ∧ (∀ a s t s1 s2 rd x, Issues (.rsvDrop a) s t s1 s2 rd → ¬ NotSecure s2 s.cur t → BankAddr s2 s.cur t (rd a.toNat) 8 true x →
      (t.rsv = some (x.pa / 8 * 8) →
        ∃ s3 r, exec (.rsvDrop a) s = .next (waits s3 s.cur (.rsv (x.pa / 8 * 8) .drop 0 0 0) s.cycle) ∧ Queued s3 x r
          ∧ r.w = s.cur ∧ r.op = .drop)
      ∧ (t.rsv ≠ some (x.pa / 8 * 8) → ∃ s3, exec (.rsvDrop a) s = .next (waits s3 s.cur (.answer []) s.cycle)
          ∧ OnWay s3 (.agentAnswer s.cur) ∧ s3.mem = s2.mem))
  ∧ (∀ d a b s t s1 s2 rd x, Issues (.amoFadd d a b) s t s1 s2 rd → ¬ NotSecure s2 s.cur t → BankAddr s2 s.cur t (rd a.toNat) 4 true x →
      x.dpage = false → ∃ s3 r, exec (.amoFadd d a b) s = .next (waits s3 s.cur (.rsv (x.pa / 8 * 8) .fadd d.toNat (rd b.toNat) 0) s.cycle)
        ∧ Queued s3 x r ∧ r.w = s.cur ∧ r.op = .fadd ∧ r.b = rd b.toNat)
  ∧ ∀ s word home r rest t, s.rsvHome word = some home →
      (smGetD (s.die home).rsv word RsvQueue.empty).queue = r :: rest → s.rsvReady home word = true → s.thread r.w = some t → r.far = none →
      ItsTurn s home r.acc.line (.reservationGrant word) → Unheld s r.acc.line →
      let m := homeWord s word
      let put := fun pa n v => memPutLine s.mem (lineWriteOf pa n v)
      (∀ i d a b f, atomicOf i = some (r.op, d, a, b, f) →
        ∃ s3, exec (.reservationGrant word) s = .next s3 ∧ Answered s3 r.w [(r.d, m)]
          ∧ s3.mem = if r.op = .cas ∧ m ≠ r.x then s.mem else put word 8 (f m r.b r.x).toNat)
      ∧ (r.op = .fadd → let x := leNat (memBytes s.mem r.acc.pa 4)
          ∃ s3, exec (.reservationGrant word) s = .next s3 ∧ Answered s3 r.w [(r.d, nat64 x)]
            ∧ s3.mem = put r.acc.pa 4 (fp32AddNE x (low32 r.b)))
      ∧ (r.op = .lrw → ∃ s3 t', exec (.reservationGrant word) s = .next s3 ∧ Answered s3 r.w [(r.d, m)]
          ∧ (smGetD (s3.die home).rsv word RsvQueue.empty).holder = some r.w
          ∧ s3.thread r.w = some t' ∧ t'.rsv = some word ∧ t'.rsvVa = r.acc.va)
      ∧ ((smGetD (s.die home).rsv word RsvQueue.empty).holder = some r.w →
          (r.op = .scq → ∃ s3, exec (.reservationGrant word) s = .next s3 ∧ Answered s3 r.w [(r.d, 0)] ∧ s3.mem = put word 8 r.b.toNat
            ∧ (smGetD (s3.die home).rsv word RsvQueue.empty).holder = none)
          ∧ (r.op = .drop → (∃ since, t.run = .waiting (.rsv word .drop 0 0 0) since) →
            ∃ s3, exec (.reservationGrant word) s = .next s3 ∧ Answered s3 r.w [] ∧ s3.mem = s.mem
              ∧ (smGetD (s3.die home).rsv word RsvQueue.empty).holder = none))

/-- Ordered rounds (R196 to R200, R202, R272, R273). At issue: an update of a D page and `det.done` need the thread's open round, with
`det.done` not yet issued, and `det.open` a D page, 1 ≤ n ≤ 64 and `detidx` below n, or DET_ROUND is raised; an update takes the
next sequence number, writes +0 and does not wait. A `det.open` or `det.done` whose wait was abandoned after the bank had recorded it
issues again without DET_ROUND. A task holds all three until it commits. At the bank: the first open creates the round, an update of
the expected issuer in its turn is applied at once, another is held while one of sixteen entries is free and else comes again 64
cycles later, and a `det.done` records its count. -/
def Obligations.OrderedRounds : Prop :=
  (∀ d a b s t s1 s2 rd x, Issues (.amoFadd d a b) s t s1 s2 rd → BankAddr s2 s.cur t (rd a.toNat) 4 true x → x.dpage = true →
    let i := Instr.amoFadd d a b
    ((t.partOn x.line = none ∨ ∃ p, t.partOn x.line = some p ∧ p.done = true) →
      exec i s = .next (s1.takeTrap s.cur cDetRound (rd a.toNat) t.pc))
    ∧ ∀ p, t.partOn x.line = some p → p.done = false →
      let m := roundMsg s2 s.cur t x (x.pa % 128) 0 p.next p.tok (BitVec.ofNat 32 (rd b.toNat).toNat)
      (t.openMode = true → ∃ s3, exec i s = .next (goOn s3 s.cur t) ∧ OnWay s3 (.roundUpdateArrival m)
        ∧ (Unbound s2 s.cur t d.toNat → PartIs s3 s.cur x.line { p with next := p.next + 1 }))
      ∧ (t.openMode = false → ∃ s3, exec i s = .next (goOn s3 s.cur t)
        ∧ (Unbound s2 s.cur t d.toNat → HeldBy s2 s3 s.cur t (.detAdd m) ∧ PartIs s3 s.cur x.line { p with next := p.next + 1 })))
  ∧ (∀ a b s t s1 s2 rd x, Issues (.detOpen a b) s t s1 s2 rd → BankAddr s2 s.cur t (lineVa (rd a.toNat)) 128 true x →
    let i := Instr.detOpen a b; let n := (rd b.toNat).toNat; let m := roundMsg s2 s.cur t x 0 n 0 (s2.newTok s.cur) 0
    (x.dpage = false ∨ n < 1 ∨ 64 < n ∨ n ≤ t.detidx.toNat → exec i s = .next (s1.takeTrap s.cur cDetRound (lineVa (rd a.toNat)) t.pc))
    ∧ (x.dpage = true → 1 ≤ n → n ≤ 64 → t.detidx.toNat < n →
      ((∀ p, t.partOn x.line = some p → p.again = false ∨ p.done = true) →
        (t.openMode = true → ∃ s3, exec i s = .next (waits s3 s.cur (.roundOpen x.line) s.cycle) ∧ OnWay s3 (.roundOpenArrival m))
        ∧ (t.openMode = false → ∃ s3, exec i s = .next (goOn s3 s.cur t) ∧ HeldBy s2 s3 s.cur t (.detOpen m)
          ∧ PartIs s3 s.cur x.line { line := x.line, next := 0, done := false, tok := m.tok, again := false }))
      ∧ ∀ p, t.partOn x.line = some p → p.again = true → p.done = false →
        ∃ s3, exec i s = .next (goOn s3 s.cur t) ∧ PartIs s3 s.cur x.line { p with again := false }))
  ∧ (∀ a s t s1 s2 rd x, Issues (.detDone a) s t s1 s2 rd → BankAddr s2 s.cur t (lineVa (rd a.toNat)) 128 true x →
    let i := Instr.detDone a
    ((t.partOn x.line = none ∨ ∃ p, t.partOn x.line = some p ∧ p.done = true ∧ p.again = false) →
      exec i s = .next (s1.takeTrap s.cur cDetRound (lineVa (rd a.toNat)) t.pc))
    ∧ ∀ p, t.partOn x.line = some p → p.done = false ∨ p.again = true → let m := roundMsg s2 s.cur t x 0 0 p.next p.tok 0
      (t.openMode = true → ∃ s3, exec i s = .next (waits s3 s.cur (.roundDone x.line) s.cycle) ∧ OnWay s3 (.roundDoneArrival m))
      ∧ (t.openMode = false → ∃ s3, exec i s = .next (goOn s3 s.cur t) ∧ HeldBy s2 s3 s.cur t (.detDone m)
        ∧ PartIs s3 s.cur x.line { p with done := true, again := false }))
  ∧ ∀ (s : State) (r : RoundMsg), let die := r.bank / 256
    (r.dpage = true → 1 ≤ r.n → r.n ≤ 64 → r.idx < r.n → smGet (s.die die).rounds r.line = none →
      ((s.die die).rounds.filter fun p => p.2.bank == r.bank).length < 4 →
      ∃ s3 x, exec (.roundOpenArrival r) s = .next s3 ∧ smGet (s3.die die).rounds r.line = some x ∧ x.n = r.n ∧ x.expected = 0
        ∧ x.bank = r.bank ∧ smGet x.opened r.idx = some r.w ∧ smGet x.toks r.idx = some r.tok)
    ∧ ∀ x, smGet (s.die die).rounds r.line = some x → smGet x.toks r.idx = some r.tok →
      (r.idx = x.expected → r.seq = x.applied → ItsTurn s die r.line (.roundUpdateArrival r) → s.writeBlocked die r.line none = false →
        ∃ s3, exec (.roundUpdateArrival r) s = .next s3 ∧ exec (.roundUpdateResend r) s = .next s3
          ∧ s3.mem = memPutLine s.mem (lineWriteOf (r.line * 128 + r.off) 4
              (fp32AddNE (leNat (memBytes s.mem (r.line * 128 + r.off) 4)) r.val.toNat)))
      ∧ (¬ (r.idx = x.expected ∧ r.seq = x.applied) → ((s.die die).updates.filter fun u => u.bank == r.bank).length < 16 →
        ∃ s3, exec (.roundUpdateArrival r) s = .next s3 ∧ exec (.roundUpdateResend r) s = .next s3 ∧ s3.mem = s.mem
          ∧ (s3.die die).updates = (s.die die).updates ++ [{ bank := r.bank, msg := r }])
      ∧ (¬ (r.idx = x.expected ∧ r.seq = x.applied) → 16 ≤ ((s.die die).updates.filter fun u => u.bank == r.bank).length →
        exec (.roundUpdateArrival r) s = .next (s.after 64 (.roundUpdateResend r))
        ∧ exec (.roundUpdateResend r) s = .next (s.after 64 (.roundUpdateResend r)))
      ∧ (r.idx ≠ x.expected → (∀ k, smGet x.dones x.expected ≠ some k ∨ k ≠ x.applied) → x.expected < x.n →
        ∃ s3 x', exec (.roundDoneArrival r) s = .next s3 ∧ smGet (s3.die die).rounds r.line = some x' ∧ smGet x'.dones r.idx = some r.seq
          ∧ x'.expected = x.expected ∧ s3.mem = s.mem)
      ∧ ∀ u, s.roundHome r.line = some die → ItsTurn s die r.line (.heldUpdateApply r.line) → s.writeBlocked die r.line none = false →
        (s.die die).updates.find? (fun u => u.msg.line == r.line && u.msg.idx == x.expected && u.msg.seq == x.applied) = some u →
        ∃ s3, exec (.heldUpdateApply r.line) s = .next s3
          ∧ s3.mem = memPutLine s.mem (lineWriteOf (u.msg.line * 128 + u.msg.off) 4
              (fp32AddNE (leNat (memBytes s.mem (u.msg.line * 128 + u.msg.off) 4)) u.msg.val.toNat))

/-- Release, acquire and fences (R216, R231 to R233, R258, R274) and pins (R275, R276). A form with a release of scope `core` or
wider, or `fence.c`, first drains the open-mode thread's write-combining buffer; one that has nothing to wait for goes on at
once, and any other leaves rotation. `lock.l` pins a line that its space may pin and answers 0, or 1 with nothing pinned;
`unlock.l` takes the space's pin back. Readings and choices of the model in it: logs 11, 105. -/
def Obligations.FencesAndPins : Prop :=
  (∀ i c rel acq cc, fenceOf i = some (c, rel, acq, cc) → ∀ s t s1 s2 rd, Issues i s t s1 s2 rd →
    let drains := t.openMode = true ∧ ((rel = true ∧ c ≠ .th) ∨ cc = true)
    let waitsFor := (scopeWide c = true ∧ (acq = true ∨ t.openMode = true)) ∨ (cc = true ∧ t.openMode = true)
    ∃ s3, s3.mem = s2.mem ∧ (¬ drains → s3 = s2) ∧ (drains → ∀ t', s3.thread s.cur = some t' → t'.wcb = [])
      ∧ (waitsFor → exec i s = .next (waits s3 s.cur (.release c rel acq cc) s.cycle))
      ∧ (¬ waitsFor → exec i s = .next (goOn (if cc then s3.modCore s.cur.core fun k => { k with cc := [] }
          else if rel && acq then s3.rereadStreams s.cur else s3) s.cur t)))
  ∧ (∀ d a s t s1 s2 rd x, Issues (.lockL d a) s t s1 s2 rd → BankAddr s2 s.cur t (lineVa (rd a.toNat)) 128 false x →
    let home := x.homeDie; let key := 4096 * t.part + t.spc
    let fresh : L2Line := { slice := s2.sliceFor s.cur.core home x, cls := lineClass x.pol x.line, use := 0, pins := [] }
    let old := smGetD (s2.die home).l2 x.line fresh
    let p := s2.part t.part
    let full := 64 * (smGetD p.spaces t.spc { quota := 0, root := 0, valid := false }).quota ≤ p.pinned t.spc
      ∨ (old.pins = [] ∧ Config.l2HalfWays ≤ ((s2.die home).l2.filter fun e =>
          e.2.slice == old.slice && !e.2.pins.isEmpty && Config.l2Set e.1 == Config.l2Set x.line).length)
    let kept := fun (s3 : State) => (smGetD (s3.die home).l2 x.line fresh).pins = old.pins ∧ (s3.part t.part).pinned t.spc = p.pinned t.spc
    (full → ∃ s3, exec (.lockL d a) s = .next (waits s3 s.cur (.answer [(d.toNat, 1)]) s.cycle) ∧ OnWay s3 (.agentAnswer s.cur) ∧ kept s3)
    ∧ (key ∈ old.pins → ¬ full → ∃ s3, exec (.lockL d a) s = .next (waits s3 s.cur (.answer [(d.toNat, 0)]) s.cycle)
      ∧ OnWay s3 (.agentAnswer s.cur) ∧ kept s3)
    ∧ (key ∉ old.pins → ¬ full → ∃ s3 l, exec (.lockL d a) s = .next (waits s3 s.cur (.answer [(d.toNat, 0)]) s.cycle)
      ∧ OnWay s3 (.agentAnswer s.cur) ∧ smGet (s3.die home).l2 x.line = some l ∧ key ∈ l.pins
      ∧ (s3.part t.part).pinned t.spc = p.pinned t.spc + 1))
  ∧ ∀ a s t s1 s2 rd x, Issues (.unlockL a) s t s1 s2 rd → BankAddr s2 s.cur t (lineVa (rd a.toNat)) 128 false x →
    let key := 4096 * t.part + t.spc
    ((∀ l, smGet (s2.die x.homeDie).l2 x.line = some l → key ∉ l.pins) → exec (.unlockL a) s = .next (goOn s2 s.cur t))
    ∧ ∀ l, smGet (s2.die x.homeDie).l2 x.line = some l → key ∈ l.pins → ∃ s3 l', exec (.unlockL a) s = .next (goOn s3 s.cur t)
      ∧ smGet (s3.die x.homeDie).l2 x.line = some l' ∧ key ∉ l'.pins ∧ (s3.part t.part).pinned t.spc = (s2.part t.part).pinned t.spc - 1

/-- Address generators (R277, R278) and the read-ahead (R214). `bind` refuses g0, a bound register, another thread's generator,
and an `arrive` stream outside the local region or of a size other than 2 and 3, with RESERVED_FIELD; else the generator is the
thread's and the register bound. `unbind` frees it. `ag.set` reads 64 aligned bytes and takes the descriptor they give, and
`ag.get` reads a field. An arrival gives the oldest awaited element its value. Readings and choices of the model in it: log 31. -/
def Obligations.GeneratorForms : Prop :=
  ∀ s t s1 s2 rd, let c := s2.core s.cur.core
    (∀ d a dir, Issues (.bind d a dir) s t s1 s2 rd →
      let g := c.gen a.toNat
      let refused := d = 0 ∨ (c.boundGen s.cur.slot d.toNat).isSome = true ∨ c.genTaken s.cur.slot a.toNat = true
        ∨ (dir = .arrive ∧ (g.base.toNat < 0xFFFFFFFFF0000000 ∨ (g.size ≠ 2 ∧ g.size ≠ 3)))
      (refused → exec (.bind d a dir) s = .next (s1.takeTrap s.cur cReservedField (bitsOf (.bind d a dir)) t.pc))
      ∧ (¬ refused → ∃ s3 g', exec (.bind d a dir) s = .next (goOn s3 s.cur t) ∧ smGet (s3.core s.cur.core).gens a.toNat = some g'
          ∧ g' = { g with owner := some s.cur.slot, bound := some (d.toNat, dir), pol := t.mpol, ahead := g'.ahead, taken := [] }
          ∧ (dir ≠ .input → g'.ahead = []) ∧ (s3.core s.cur.core).gfile = c.gfile))
    ∧ (∀ a, Issues (.unbind a) s t s1 s2 rd →
      (c.genTaken s.cur.slot a.toNat = true → exec (.unbind a) s = .next (s1.takeTrap s.cur cReservedField (bitsOf (.unbind a)) t.pc))
      ∧ (c.genTaken s.cur.slot a.toNat = false → ∃ s3, exec (.unbind a) s = .next (goOn s3 s.cur t)
          ∧ (s3.core s.cur.core).gen a.toNat = Gen.free ∧ ¬ OnWay s3 (.streamElementArrival s.cur.core a.toNat)))
    ∧ (∀ d a, Issues (.agSet d a) s t s1 s2 rd → c.genTaken s.cur.slot d.toNat = false →
      ((rd a.toNat).toNat % 64 ≠ 0 → exec (.agSet d a) s = .next (s1.takeTrap s.cur cMisaligned (rd a.toNat) t.pc))
      ∧ ∀ s3 l, (rd a.toNat).toNat % 64 = 0 → s2.gather s.cur t (rd a.toNat) 64 1 = .ok (s3, l) →
        (((s3.core s.cur.core).gen d.toNat).ofBytes s.cur.slot l = none →
          exec (.agSet d a) s = .next (s1.takeTrap s.cur cReservedField (bitsOf (.agSet d a)) t.pc))
        ∧ ∀ g, ((s3.core s.cur.core).gen d.toNat).ofBytes s.cur.slot l = some g →
          ∃ s4 g', exec (.agSet d a) s = .next (goOn s4 s.cur t) ∧ smGet (s4.core s.cur.core).gens d.toNat = some g'
            ∧ g' = { g with ahead := g'.ahead, taken := [] })
    ∧ (∀ d a f, Issues (.agGet d a f) s t s1 s2 rd →
      (10 < f.toNat ∨ c.genTaken s.cur.slot a.toNat = true →
        exec (.agGet d a f) s = .next (s1.takeTrap s.cur cReservedField (bitsOf (.agGet d a f)) t.pc))
      ∧ (f.toNat ≤ 10 → c.genTaken s.cur.slot a.toNat = false →
        exec (.agGet d a f) s = .next (wrote s2 s.cur t d.toNat ((c.gen a.toNat).field f.toNat))))
    ∧ ∀ core i slot g x th, smGet (s.core core).gens i = some g → g.owner = some slot → s.thread { core, slot } = some th →
      g.ahead.find? (fun x => x.val.isNone && x.fault.isNone) = some x →
      (∀ off, OwnLocal core x.addr off → off % g.bytes = 0 → g.size.toNat < 4 → CleanSpan s core off g.bytes →
        exec (.streamElementArrival core i) s = .next (s.modCore core fun c => { c with
          gens := smSet c.gens i { g with ahead := fillAhead (.ok (extended g.bytes g.sext (localNum s core off g.bytes))) g.ahead } }))
      ∧ (x.addr.toNat % g.bytes ≠ 0 → exec (.streamElementArrival core i) s = .next (s.modCore core fun c => { c with
          gens := smSet c.gens i { g with ahead := fillAhead (.error (cMisaligned, x.addr)) g.ahead } }))

/-- Gangs (R151 to R157). `gang.form` of a thread in no gang sets `gret` and waits at the rendezvous; the rendezvous of an
aligned group that is complete forms the gang, its members numbered from the leader, and the leader goes on. A follower's queue
takes what is forwarded to it. `gang.bar` holds the leader alone. `gang.end` ends a member's part, a follower at `gret`. A trap
notice ends the gang, and the leader takes GANG_DISBANDED before its next instruction. Readings and choices of the model in it:
logs 25, 122. -/
def Obligations.Gangs : Prop :=
  ∀ s t s1 s2 rd,
    (∀ a n, Issues (.gangForm a n) s t s1 s2 rd →
      (t.gang.isSome = true → exec (.gangForm a n) s = .next (s1.takeTrap s.cur cReservedField (bitsOf (.gangForm a n)) t.pc))
      ∧ (t.gang = none → exec (.gangForm a n) s
          = .next (waits (s2.modThread s.cur fun x => { x with gret := evenBits (rd a.toNat) }) s.cur (.gangForm (2 ^ n.toNat)) s.cycle)))
    ∧ (Issues .gangEnd s t s1 s2 rd → let s3 := s2.modThread s.cur fun x => { x with gang := none, gidx := 0, fq := [] }
      (isFollower t → exec .gangEnd s = .next (goTo s3 s.cur t.gret)) ∧ (¬ isFollower t → exec .gangEnd s = .next (goOn s3 s.cur t)))
    ∧ (Issues .gangBar s t s1 s2 rd →
      ((∃ g, t.gang = some g ∧ g.member = 0) → exec .gangBar s = .next (waits s2 s.cur .gangBar s.cycle))
      ∧ (¬ (∃ g, t.gang = some g ∧ g.member = 0) → exec .gangBar s = .next (goOn s2 s.cur t)))
    ∧ (∀ leader n, s.gangReady leader = some n → ∃ s3, exec (.gangFormation leader) s = .next s3
        ∧ ∀ j, j < n → ∃ x, s3.thread { leader with core := leader.core + j } = some x ∧ x.gang = some { n, member := j, ended := false }
          ∧ x.gidx = BitVec.ofNat 3 j ∧ x.fq = [] ∧ x.run = .ready)
    ∧ (∀ w f x, s.thread w = some x → isFollower x → exec (.forwardedInstructionArrival w f) s
        = .next (s.modThread w fun y => { y with fq := y.fq ++ [(s.cycle, f)] }))
    ∧ ∀ leader member cause x g, s.thread leader = some x → x.gang = some g → g.member = 0 → x.run = .ready →
      ∃ s3 x', exec (.gangTrapNotice leader member cause) s = .next s3 ∧ s3.thread leader = some x' ∧ x'.gang = none ∧ x'.gidx = 0
        ∧ x'.next = x.next ++ [(cGangDisbanded, nat64 (member % 8 + cause % 128 * 256))]

/-- The instructions of the engines (R89, R98, R158, R166 to R169, R328 to R333). A push of a malformed word 0 raises
CMD_MALFORMED with it, and a control thread's push of a command that names a tile NO_WIDE_STATE (R55, R86); an accepted one stands in the
queue, or outside it with its thread waiting. `eng.wait` and `eng.poll`
take the oldest report, or answer that there is none; `eng.poll` answers at once and `eng.wait` waits. `tcfg.set` refuses what
R167 refuses and another group's active slot, and `acc.load` refuses a table that fails R98. Readings and choices of the model
in it: logs 10, 17. -/
def Obligations.EngineForms : Prop :=
  ∀ s t s1 s2 rd, let core := s.cur.core
    (∀ w h e, Issues (.push w h e) s t s1 s2 rd →
      let bits := BitVec.ofNat 256 ((wideReg s2 s.cur t w.toNat).toNat / if h then 2 ^ 256 else 1)
      (word0Bad e bits → exec (.push w h e) s = .next (s1.takeTrap s.cur cCmdMalformed (nat64 (bits.toNat % 2 ^ 32)) t.pc))
      ∧ (¬ word0Bad e bits → Pushes (.push w h e) s s2 t e bits))
    ∧ (∀ e a n, Issues (.pushm e a n) s t s1 s2 rd → let va := effective (rd a.toNat) n.toInt 32
      (va.toNat % 32 ≠ 0 → exec (.pushm e a n) s = .next (s1.takeTrap s.cur cMisaligned va t.pc))
      ∧ ∀ s3 l, va.toNat % 32 = 0 → s2.gather s.cur t va 32 1 = .ok (s3, l) → let bits := BitVec.ofNat 256 (leNat l)
        (word0Bad e bits → exec (.pushm e a n) s = .next (s1.takeTrap s.cur cCmdMalformed (nat64 (bits.toNat % 2 ^ 32)) t.pc))
        ∧ (¬ word0Bad e bits → tileNamed bits → t.compute = false →
          exec (.pushm e a n) s = .next (s1.takeTrap s.cur cNoWideState (bitsOf (.pushm e a n)) t.pc))
        ∧ (¬ word0Bad e bits → ¬ (tileNamed bits ∧ t.compute = false) → Pushes (.pushm e a n) s s3 t e bits))
    ∧ (∀ e d, Issues (.engWait e d) s t s1 s2 rd →
      (t.reports e = [] → exec (.engWait e d) s = .next (wrote s2 s.cur t d.toNat noReport))
      ∧ (∀ r rest v, t.reports e = r :: rest → r.done = some v →
        exec (.engWait e d) s = .next (wrote (s2.takeReport s.cur e r) s.cur t d.toNat (nat64 v.toNat)))
      ∧ (∀ r rest, t.reports e = r :: rest → r.done = none →
        exec (.engWait e d) s = .next (waits s2 s.cur (.engine e d.toNat) s.cycle)))
    ∧ (∀ e d, Issues (.engPoll e d) s t s1 s2 rd →
      (t.reports e = [] → exec (.engPoll e d) s = .next (wrote s2 s.cur t d.toNat noReport))
      ∧ (∀ r rest v, t.reports e = r :: rest → r.done = some v →
        exec (.engPoll e d) s = .next (wrote (s2.takeReport s.cur e r) s.cur t d.toNat (nat64 v.toNat)))
      ∧ (∀ r rest, t.reports e = r :: rest → r.done = none → exec (.engPoll e d) s = .next (wrote s2 s.cur t d.toNat notYet)))
    ∧ (∀ a n, Issues (.tcfgSet a n) s t s1 s2 rd → let v := rd a.toNat
      (¬ tileCfgOk v → exec (.tcfgSet a n) s = .next (s1.takeTrap s.cur cTileCfg v t.pc))
      ∧ (tileCfgOk v → (∀ p, (s2.core core).claimer = some p → p.2 ≠ n.toNat) →
        exec (.tcfgSet a n) s = .next (goOn (s2.modCore core fun c => c.setCfg n.toNat v false) s.cur t))
      ∧ ∀ gid, tileCfgOk v → (s2.core core).claimer = some (gid, n.toNat) →
        (t.gid ≠ gid → exec (.tcfgSet a n) s = .next (s1.takeTrap s.cur cTileCfg (nat64 n.toNat) t.pc))
        ∧ (t.gid = gid → (s2.core core).mx.all = [] →
          ∃ s3, exec (.tcfgSet a n) s = .next (goOn s3 s.cur t) ∧ (s3.core core).tileCfg n.toNat = v ∧ (s3.core core).tiles = []))
    ∧ (∀ d n, Issues (.tcfgGet d n) s t s1 s2 rd →
      exec (.tcfgGet d n) s = .next (wrote s2 s.cur t d.toNat ((s2.core core).tileCfg n.toNat)))
    ∧ (∀ a k, Issues (.accLoad a k) s t s1 s2 rd →
      ((rd a.toNat).toNat % 64 ≠ 0 → exec (.accLoad a k) s = .next (s1.takeTrap s.cur cMisaligned (rd a.toNat) t.pc))
      ∧ ∀ s3 l, (rd a.toNat).toNat % 64 = 0 → s2.gather s.cur t (rd a.toNat) 64 16 = .ok (s3, l) →
        (∀ i, (s3.core core).mx.all = [] → (s3.core core).vx.all = [] → accordBad (accordOf l) = some i →
          exec (.accLoad a k) s = .next (s1.takeTrap s.cur cAccordOrder (nat64 i) t.pc))
        ∧ ((s3.core core).mx.all = [] → (s3.core core).vx.all = [] → accordBad (accordOf l) = none →
          ∃ s4, exec (.accLoad a k) s = .next (goOn s4 s.cur t) ∧ ∀ c, c < 256 →
            smGetD (s4.core core).accord (256 * k.toNat + c) 0 = BitVec.ofNat 32 ((accordOf l).getD c 0)))
    ∧ (∀ core e c rest, ((s.core core).unit e).outside = c :: rest → ((s.core core).unit e).queue.length < 2 →
      (∀ x, s.waitOf c.w ≠ some (.queue x)) → ∃ s3, exec (.queueEntry core e) s = .next s3 ∧ (s3.core core).unit e
        = { (s.core core).unit e with queue := ((s.core core).unit e).queue ++ [c], outside := rest })
    ∧ ∀ core e r th x, ((s.core core).unit e).exec = some r → r.begun = true → r.remote = false → r.err = none → r.flags = 0 →
      (s.core core).flights = [] → r.cmd.w.core = core → s.thread r.cmd.w = some th → th.run = .ready → x ∈ th.reports e →
      x.seq = r.cmd.seq → ∃ s3 th', exec (.commandCompletion core e) s = .next s3 ∧ ((s3.core core).unit e).exec = none
        ∧ s3.thread r.cmd.w = some th' ∧ th'.event = true
        ∧ { seq := x.seq, done := some (completionWord r.cmd.tag 0 r.moved), lines := r.lines } ∈ th'.reports e

/-- Messages (R205, R229, R295, R334 to R336, R343). A send with a reserved bit, with registers beyond the holding, or to a core
or device that the partition may not reach, traps in that order; otherwise the message is on its way, or held by the task until
commit. `msg.bind` binds, unbinds or refuses; `msg.wait` and `det.wait` take what has come or wait. An arrival at a bound and
armed class goes to the bound registers as one deposit, and is held where nobody is bound; when the deposit's words are written, the class
is ready and the thread's event bit set (R60, R393). Readings and choices of the model in it: logs 36, 37, 67. -/
def Obligations.Messages : Prop :=
  (∀ i a b report, sendOf i = some (a, b, report) → ∀ s t s1 s2 rd, Issues i s t s1 s2 rd →
    let x := destOf (rd a)
    let reach := if x.far then s2.mayReach t.part x.dev = true else (s2.part t.part).spec.clusters.getLsbD (x.dst / 16) = true
    (destBad (rd a) → exec i s = .next (s1.takeTrap s.cur cReservedField (bitsOf i) t.pc))
    ∧ (¬ destBad (rd a) → ¬ RunHeld t b x.count → exec i s = .next (s1.takeTrap s.cur cRegLimit (bitsOf i) t.pc))
    ∧ (¬ destBad (rd a) → RunHeld t b x.count → ¬ reach → exec i s = .next (s1.takeTrap s.cur cPartitionViolation (rd a) t.pc))
    ∧ (¬ destBad (rd a) → RunHeld t b x.count → reach → (∀ k, k < x.count → Unbound s2 s.cur t (b + k)) →
      let words := (List.range x.count).map fun k => regValue s2 s.cur t (b + k)
      (∀ g, s2.taskOf s.cur t = some g → ∃ s3, exec i s = .next (goOn s3 s.cur t)
        ∧ HeldBy s2 s3 s.cur t (if x.far then .far x.dev (sentMsg s.cur x words false) else .msg (sentMsg s.cur x words false)))
      ∧ (s2.taskOf s.cur t = none → x.far = false → (s2.msgClass x.dst x.cls).lane = [] →
        ∃ s3, exec i s = .next (if report then waits s3 s.cur .report s.cycle else goOn s3 s.cur t)
          ∧ OnWay s3 (.messageArrival (sentMsg s.cur x words report)) ∧ s3.mem = s2.mem ∧ s3.thread s.cur = s2.thread s.cur)
      ∧ (s2.taskOf s.cur t = none → x.far = true →
        ∃ s3, exec i s = .next (if report then waits s3 s.cur .report s.cycle else goOn s3 s.cur t)
          ∧ (x.dev ≠ s2.host.prov.device.toNat → s3.beaconMsgs = s2.beaconMsgs ++ [(x.dev, sentMsg s.cur x words report)])
          ∧ (x.dev = s2.host.prov.device.toNat → OnWay s3 (.messageArrival (sentMsg s.cur x words report))))))
  ∧ (∀ d m n c s t s1 s2 rd, Issues (.msgBind d m n c) s t s1 s2 rd →
    let i := Instr.msgBind d m n c; let core := s.cur.core; let k := s2.msgClass core c.toNat
    let refused := c = 15 ∨ (k.slot.isSome = true ∧ k.slot ≠ some s.cur.slot) ∨ t.glim - t.gbase ≤ d.toNat + n.toNat
    (d ≠ 0 → refused → exec i s = .next (s1.takeTrap s.cur cReservedField (nat64 c.toNat) t.pc))
    ∧ (d ≠ 0 → ¬ refused → ∃ s3 k', exec i s = .next (goOn s3 s.cur t) ∧ k' = s3.msgClass core c.toNat ∧ k'.slot = some s.cur.slot
        ∧ k'.reg = d.toNat ∧ k'.n = n.toNat + 1 ∧ k'.named = m ∧ k'.armed = true ∧ k'.ready = false
        ∧ k'.held.map (·.msg) = k.held.map (·.msg))
    ∧ (d = 0 → k.slot = some s.cur.slot → ∃ s3, exec i s = .next (goOn s3 s.cur t) ∧ (s3.msgClass core c.toNat).slot = none
        ∧ (s3.msgClass core c.toNat).held = k.held)
    ∧ (d = 0 → k.slot ≠ some s.cur.slot → exec i s = .next (goOn s2 s.cur t)))
  ∧ (∀ c s t s1 s2 rd, Issues (.msgWait c) s t s1 s2 rd → let k := s2.msgClass s.cur.core c.toNat
    (k.slot ≠ some s.cur.slot → exec (.msgWait c) s = .next (s1.takeTrap s.cur cMsgUnbound (nat64 c.toNat) t.pc))
    ∧ (k.slot = some s.cur.slot → k.named = true → exec (.msgWait c) s = .next (s1.takeTrap s.cur cReservedField (nat64 c.toNat) t.pc))
    ∧ (k.slot = some s.cur.slot → k.named = false → k.ready = true → ∃ s3, exec (.msgWait c) s = .next (goOn s3 s.cur t)
        ∧ (s3.msgClass s.cur.core c.toNat).armed = true ∧ (s3.msgClass s.cur.core c.toNat).ready = false)
    ∧ (k.slot = some s.cur.slot → k.named = false → k.ready = false →
        exec (.msgWait c) s = .next (waits s2 s.cur (.msg c.toNat) s.cycle)))
  ∧ (∀ a b s t s1 s2 rd, Issues (.detWait a b) s t s1 s2 rd →
    let v := (rd a.toNat).toNat; let q := (rd b.toNat).toNat; let cls := v / 2 ^ 24 % 16
    let sender : Who := { core := v % 2 ^ 11, slot := v / 2 ^ 16 % 2 ^ 6 }
    let key := sender.core * 64 + sender.slot; let k := s2.msgClass s.cur.core cls
    let bad := 2 ^ 28 ≤ v ∨ v / 2 ^ 22 % 4 ≠ 0 ∨ v / 2 ^ 11 % 2 ^ 5 ≠ 0
    let hit := fun h : Held => senderKey h.msg == key && h.num == q
    (bad → exec (.detWait a b) s = .next (s1.takeTrap s.cur cReservedField (rd a.toNat) t.pc))
    ∧ (¬ bad → (2 ^ 32 ≤ q ∨ (key, q) ∈ k.taken) → exec (.detWait a b) s = .next (s1.takeTrap s.cur cReservedField (rd b.toNat) t.pc))
    ∧ (¬ bad → q < 2 ^ 32 → (key, q) ∉ k.taken →
      (¬ (k.slot = some s.cur.slot ∧ k.named = true) → exec (.detWait a b) s = .next (s1.takeTrap s.cur cMsgUnbound (nat64 cls) t.pc))
      ∧ (k.slot = some s.cur.slot → k.named = true → k.held.find? hit = none →
        exec (.detWait a b) s = .next (waits s2 s.cur (.named cls sender q) s.cycle))
      ∧ ∀ h, k.slot = some s.cur.slot → k.named = true → k.held.find? hit = some h →
        ∃ s3, exec (.detWait a b) s = .next (goOn s3 s.cur t)
          ∧ depositWrite s s.cur.slot none k h.msg ∈ (s3.core s.cur.core).writes ∧ (k.lane = [] → (key, q) ∈ (s3.msgClass s.cur.core cls).taken
          ∧ (s3.msgClass s.cur.core cls).held = k.held.filter fun x => !hit x)))
  ∧ (∀ s m, (s.core m.dst).gated = false → m.cls ≠ 15 → let k := s.msgClass m.dst m.cls
    k.lane = [] → k.held.length < 4 → m.report = false →
    (k.slot = none → ∃ s3 h, exec (.messageArrival m) s = .next s3 ∧ (s3.msgClass m.dst m.cls).held = k.held ++ [h] ∧ h.msg = m
      ∧ h.num = smGetD k.counts (senderKey m) 0)
    ∧ ∀ slot, k.slot = some slot → k.named = false → k.armed = true → k.held = [] →
      ∃ s3, exec (.messageArrival m) s = .next s3 ∧ depositWrite s slot (some m.cls) k m ∈ (s3.core m.dst).writes
        ∧ (s3.msgClass m.dst m.cls).armed = false ∧ (s3.msgClass m.dst m.cls).ready = k.ready)
  ∧ (∀ s core cls slot h rest, let k := s.msgClass core cls
    k.slot = some slot → k.held = h :: rest → k.armed = true → k.named = false → k.lane = [] →
    ∃ s3, exec (.heldMessageDeposit core cls) s = .next s3 ∧ depositWrite s slot (some cls) k h.msg ∈ (s3.core core).writes
      ∧ (s3.msgClass core cls).held = rest ∧ (s3.msgClass core cls).armed = false ∧ (s3.msgClass core cls).ready = k.ready)
  ∧ ∀ s core cls slot m k t, let w : Who := { core, slot }
    s.thread w = some t → t.run = .ready → k.reg ≠ 0 → (∀ i, i < k.n → Unbound s w t (k.reg + i)) →
    (s.core core).writes = [depositWrite s slot (some cls) k m] →
    ∃ t', (s.land core).thread w = some t' ∧ (∀ i, i < k.n → regValue (s.land core) w t' (k.reg + i) = m.words.getD i 0)
      ∧ (∀ n, (n < k.reg ∨ k.reg + k.n ≤ n) → regValue (s.land core) w t' n = regValue s w t n)
      ∧ ((s.land core).msgClass core cls).ready = true ∧ t'.event = true ∧ ((s.land core).core core).writes = []

/-- Threads (R344 to R346) and the iteration fetcher (R296, R350, R351). `thr.spawn` starts one compute thread where a slot, a
window and a wide group are free and answers its slot, or all ones; `thr.park` and `thr.wake` use the wake-pending bit;
`thr.exit` ends the thread. `nest.next` counts the kept length down; `nest.set` and `nest.end` write the counter as direct
writes, and `nest.claim` queues at it. -/
def Obligations.ThreadForms : Prop :=
  ∀ s t s1 s2 rd, let me := s.cur; let c := s2.core me.core
    (∀ d a, Issues (.thrSpawn d a) s t s1 s2 rd →
      let v := (rd a.toNat).toNat; let wide := v / 2 ^ 24 % 16; let regs := v / 2 ^ 16 % 256
      let ok := v / 2 ^ 28 % 16 = 0 ∧ 1 ≤ wide ∧ wide ≤ 4 ∧ 8 ≤ regs ∧ regs ≤ 128 ∧ v % 2 = 0
      (t.compute = true → exec (.thrSpawn d a) s = .next (s1.takeTrap me cReservedField (bitsOf (.thrSpawn d a)) t.pc))
      ∧ (t.compute = false → ¬ ok → exec (.thrSpawn d a) s = .next (s1.takeTrap me cReservedField (rd a.toNat) t.pc))
      ∧ (t.compute = false → ok → (c.freeSlots = [] ∨ roomFor c.windows ((regs + 7) / 8 * 8) 8 2048 = none ∨ roomFor c.wgroups (4 * wide) 1 256 = none) →
        exec (.thrSpawn d a) s = .next (wrote s2 me t d.toNat (BitVec.allOnes 64)))
      ∧ ∀ slot rest gb wb g, t.compute = false → ok → c.freeSlots = slot :: rest → roomFor c.windows ((regs + 7) / 8 * 8) 8 2048 = some gb →
        roomFor c.wgroups (4 * wide) 1 256 = some wb → s2.group me.core t.gid = some g → slot ≠ me.slot →
        ∃ s3 x, exec (.thrSpawn d a) s = .next (wrote s3 me t d.toNat (nat64 slot)) ∧ s3.thread { me with slot } = some x
          ∧ x.pc.toNat = v % 2 ^ 16 ∧ x.compute = true ∧ x.openMode = true ∧ x.level = t.level ∧ x.gbase = gb ∧ x.glim = gb + regs ∧ x.wbase = wb
          ∧ x.wcount = 4 * wide ∧ x.tstamp = t.tstamp ∧ x.lidx = t.lidx ∧ x.detidx = t.detidx ∧ x.mpol = t.mpol ∧ x.mirmask = 0 ∧ x.run = .ready
          ∧ regValue s3 { me with slot } x 1 = nat64 g.threads ∧ regValue s3 { me with slot } x 2 = rd a.toNat)
    ∧ (Issues .thrExit s t s1 s2 rd → exec .thrExit s = .next (s2.endThread me t true))
    ∧ (Issues .thrPark s t s1 s2 rd →
      (t.wakePending = true → exec .thrPark s = .next (goOn (s2.modThread me fun x => { x with wakePending := false }) me t))
      ∧ (t.wakePending = false →
        exec .thrPark s = .next (s2.modThread me fun x => { x with pc := t.pc + BitVec.ofNat 16 t.ilen, run := .parked s.cycle })))
    ∧ (∀ a, Issues (.thrWake a) s t s1 s2 rd → let v := (rd a.toNat).toNat
      (64 ≤ v → exec (.thrWake a) s = .next (s1.takeTrap me cReservedField (bitsOf (.thrWake a)) t.pc))
      ∧ (v < 64 → ∃ s3, exec (.thrWake a) s = .next (goOn s3 me t)
        ∧ (s2.thread { me with slot := v } = none → s3 = s2)
        ∧ ∀ x, s2.thread { me with slot := v } = some x →
          ((∃ n, x.run = .parked n) → ∃ y, s3.thread { me with slot := v } = some y ∧ y.run = .ready)
          ∧ (x.run = .ready → ∃ y, s3.thread { me with slot := v } = some y ∧ y.wakePending = true ∧ y.event = true)))
    ∧ (∀ d, Issues (.nestNext d) s t s1 s2 rd →
      (t.nestL = 0 → exec (.nestNext d) s = .next (wrote s2 me t d.toNat 0))
      ∧ (t.nestL ≠ 0 → ∃ s3, exec (.nestNext d) s = .next (wrote s3 me t d.toNat (t.nestL - 1))
        ∧ ∀ x, s2.thread me = some x → x.nestL = t.nestL → ∃ y, s3.thread me = some y ∧ y.nestL = t.nestL - 1
          ∧ (x.ix0.toNat + 1 < 2 ^ 64 → x.ix0.toNat + 1 ≠ x.nestC0.toNat → y.ix0.toNat = x.ix0.toNat + 1 ∧ y.ix1 = x.ix1 ∧ y.ix2 = x.ix2)
          ∧ (x.ix0.toNat + 1 = x.nestC0.toNat → x.ix1.toNat + 1 < 2 ^ 64 → x.ix1.toNat + 1 ≠ x.nestC1.toNat →
            y.ix0 = 0 ∧ y.ix1.toNat = x.ix1.toNat + 1 ∧ y.ix2 = x.ix2)
          ∧ (x.ix0.toNat + 1 = x.nestC0.toNat → x.ix1.toNat + 1 = x.nestC1.toNat → y.ix0 = 0 ∧ y.ix1 = 0 ∧ y.ix2 = x.ix2 + 1)))
    ∧ (∀ d a x, Issues (.nestClaim d a) s t s1 s2 rd → ¬ NotSecure s2 me t → BankAddr s2 me t (rd a.toNat) 128 true x →
      ∃ s3 r, exec (.nestClaim d a) s = .next (waits s3 me (.rsv (x.pa / 8 * 8) .nest d.toNat 0 0) s.cycle) ∧ Queued s3 x r
        ∧ r.w = me ∧ r.op = .nest ∧ r.d = d.toNat)
    ∧ (∀ a x, Issues (.nestEnd a) s t s1 s2 rd → ¬ NotSecure s2 me t → BankAddr s2 me t (rd a.toNat) 128 true x →
      ∃ s3, exec (.nestEnd a) s = .next (goOn s3 me t) ∧ ∃ f ∈ (s3.core me.core).flights, f.w = me ∧ f.lw = lineWriteOf (x.line * 128) 8 0)
    ∧ ∀ a b x s3 l, Issues (.nestSet a b) s t s1 s2 rd → ¬ NotSecure s2 me t → BankAddr s2 me t (rd a.toNat) 128 true x →
      s2.gather me t (rd b.toNat) 1 20 = .ok (s3, l) →
      let f := fun i => leNat ((l.drop (4 * i)).take 4)
      let ok := 1 ≤ f 0 ∧ 1 ≤ f 1 ∧ 1 ≤ f 2 ∧ 1 ≤ f 3 ∧ f 3 ≤ 65536 ∧ 1 ≤ f 4 ∧ f 0 * f 1 * f 2 ≤ 2 ^ 63
      (¬ ok → exec (.nestSet a b) s = .next (s1.takeTrap me cReservedField (rd b.toNat) t.pc))
      ∧ (ok → ∃ s4, exec (.nestSet a b) s = .next (waits s4 me .ack s.cycle) ∧ ∃ w ∈ (s4.core me.core).flights, w.w = me
        ∧ w.lw = lineWriteOf (x.line * 128) 128
          (f 0 * f 1 * f 2 + f 0 * 2 ^ 64 + f 1 * 2 ^ 96 + f 2 * 2 ^ 128 + f 3 * 2 ^ 160 + f 4 * 2 ^ 192))

/-- Barriers (R297, R347, R348) and the reduction tree (R298, R349). An operand above 15 raises RESERVED_FIELD, and so does a
count outside 1 to 4,096; an arrival is on its way to the unit, and a wait for a phase that is over goes on. The unit counts an
arrival in the phase in progress, and the last one ends the phase and wakes its waiters. A participant's `red.send` stands in
the tree, and the root's `red.recv` takes the total. Readings and choices of the model in it: logs 59, 60, 61. -/
def Obligations.BarriersAndReductions : Prop :=
  ∀ s t s1 s2 rd, let me := s.cur; let k := me.core / 16
    (∀ a b, Issues (.barInit a b) s t s1 s2 rd → let n := (rd a.toNat).toNat; let x := (rd b.toNat).toNat
      (barBad (rd a.toNat) → exec (.barInit a b) s = .next (s1.takeTrap me cReservedField (bitsOf (.barInit a b)) t.pc))
      ∧ (¬ barBad (rd a.toNat) → x = 0 ∨ 4096 < x → exec (.barInit a b) s = .next (s1.takeTrap me cReservedField (nat64 n) t.pc))
      ∧ (¬ barBad (rd a.toNat) → 1 ≤ x → x ≤ 4096 → exec (.barInit a b) s = .next (waits s2 me (.barInit n x) s.cycle)))
    ∧ (∀ a, Issues (.barArr a) s t s1 s2 rd →
      (barBad (rd a.toNat) → exec (.barArr a) s = .next (s1.takeTrap me cReservedField (bitsOf (.barArr a)) t.pc))
      ∧ (¬ barBad (rd a.toNat) → exec (.barArr a) s
          = .next (goOn { s2 with agenda := s2.agenda ++ [{ due := s2.cycle + 20, ev := .barrierArrival k (rd a.toNat).toNat me }] } me t)))
    ∧ (∀ a, Issues (.barWait a) s t s1 s2 rd → let n := (rd a.toNat).toNat; let b := s2.barrier k n
      (barBad (rd a.toNat) → exec (.barWait a) s = .next (s1.takeTrap me cReservedField (bitsOf (.barWait a)) t.pc))
      ∧ (¬ barBad (rd a.toNat) →
        (s2.arriving me n = true ∨ smGet b.arrived (64 * me.core + me.slot) = none →
          ∃ s3, exec (.barWait a) s = .next (waits s3 me (.barrier n none false) s.cycle) ∧ OnWay s3 (.barrierWaitArrival k n me))
        ∧ ∀ p, s2.arriving me n = false → smGet b.arrived (64 * me.core + me.slot) = some p →
          (p < b.phase → exec (.barWait a) s = .next (goOn s2 me t))
          ∧ (b.phase ≤ p → exec (.barWait a) s = .next (waits s2 me (.barrier n (some p) false) s.cycle))))
    ∧ (∀ a, Issues (.barAw a) s t s1 s2 rd →
      (barBad (rd a.toNat) → exec (.barAw a) s = .next (s1.takeTrap me cReservedField (bitsOf (.barAw a)) t.pc))
      ∧ (¬ barBad (rd a.toNat) → ∃ s3, exec (.barAw a) s = .next (waits s3 me (.barrier (rd a.toNat).toNat none true) s.cycle)
          ∧ OnWay s3 (.barrierArrival k (rd a.toNat).toNat me) ∧ OnWay s3 (.barrierWaitArrival k (rd a.toNat).toNat me)))
    ∧ (∀ a f32 p, Issues (.redSend a f32 p) s t s1 s2 rd → let die := dieOf me.core
      let valid := p ≠ 3 ∧ s2.redTreeOk die t.part = true ∧ ((s2.part t.part).redEnt me.core).part = true
      (¬ valid → exec (.redSend a f32 p) s = .next (s1.takeTrap me cReservedField (bitsOf (.redSend a f32 p)) t.pc))
      ∧ (valid → smGet (s2.redTree die t.part).sent (me.core % 256) = none →
        ∃ s3, exec (.redSend a f32 p) s = .next (goOn s3 me t) ∧ OnWay s3 (.reductionRoundComplete die)
          ∧ smGet (s3.redTree die t.part).sent (me.core % 256) = some { v := wideReg s2 me t a.toNat, op := p.toNat, f32 := f32 }))
    ∧ (∀ w, Issues (.redRecv w) s t s1 s2 rd → let die := dieOf me.core
      let valid := s2.redTreeOk die t.part = true ∧ ((s2.part t.part).redEnt me.core).root = true
      (¬ valid → exec (.redRecv w) s = .next (s1.takeTrap me cReservedField (bitsOf (.redRecv w)) t.pc))
      ∧ ∀ v, valid → (s2.redTree die t.part).total = some (v, false) → s2.thread me = some t →
        ∃ s3, exec (.redRecv w) s = .next (goOn (sent s3 me (.wide (t.wbase + w.toNat)) v) me t) ∧ (s3.redTree die t.part).total = none)
    ∧ (∀ cluster bar w, let b := s.barrier cluster bar
      w.slot < 64 → (∀ x ∈ s.agenda, ∀ v, x.ev ≠ .barrierArrival cluster bar v) → b.carried = 0 → b.cur < b.x →
      ∃ s3, exec (.barrierArrival cluster bar w) s = .next s3
        ∧ (let b' := s3.barrier cluster bar
           smGet b'.arrived (64 * w.core + w.slot) = some b.phase ∧ b'.x = b.x
            ∧ (b.cur + 1 < b.x → b'.cur = b.cur + 1 ∧ b'.phase = b.phase)
            ∧ (b.cur + 1 = b.x → b'.cur = 0 ∧ b'.phase = b.phase + 1 ∧ OnWay s3 (.barrierWake cluster bar b.phase))))
    ∧ (∀ cluster bar w aw, s.barWaitOf w bar = some (none, aw) →
      smGet (s.barrier cluster bar).arrived (64 * w.core + w.slot) = none →
      exec (.barrierWaitArrival cluster bar w) s
        = .next (s.modThread w fun x => { x with run := .waiting (.barrier bar (some (s.barrier cluster bar).phase) aw) s.cycle }))
    ∧ (∀ cluster bar phase w x aw since, s.barWaiters cluster bar = [w] → s.thread w = some x →
      x.run = .waiting (.barrier bar (some phase) aw) since → exec (.barrierWake cluster bar phase) s = .next (s.complete w []))
    ∧ ∀ die part p, (s.parts.filter fun x => s.redDone die x.1) = [(part, p)] →
      ∃ s3 v, exec (.reductionRoundComplete die) s = .next s3 ∧ s3.redTree die part = { sent := [], total := some v }
        ∧ (∀ x y, x ∈ (s.redTree die part).sent → y ∈ (s.redTree die part).sent → (x.2.op, x.2.f32) ≠ (y.2.op, y.2.f32) →
          v = (BitVec.allOnes 512, true))

/-- Tasks (R203, R224, R299, R337 to R342). `task.push` and `task.send` read a record of 64 bytes at a multiple of 64 and place
the copy, which a task holds until it commits; `retire` and `retire.s` end the thread, and `retire.s` of thread 0 names a
successor; `task.abort` takes the whole group away, and is RESERVED_FIELD in open mode; `tstamp` answers the oldest timestamp of
the die's uncommitted tasks, or all ones; `det.list` places records on fixed lists and is answered. Readings and choices of the
model in it: logs 17, 43, 45, 51, 58. -/
def Obligations.TaskForms : Prop :=
  ∀ s t s1 s2 rd, let me := s.cur
    (∀ a, Issues (.taskPush a) s t s1 s2 rd → let i := Instr.taskPush a; let va := rd a.toNat
      (va.toNat % 64 ≠ 0 → exec i s = .next (s1.takeTrap me cMisaligned va t.pc))
      ∧ ∀ s3 l, va.toNat % 64 = 0 → s2.gather me t va 64 1 = .ok (s3, l) → let r := copyOf va l
        (¬ detFlag r → s3.isDetCore me.core = true → exec i s = .next (s1.takeTrap me cReservedField (bitsOf i) t.pc))
        ∧ (∀ g, detFlag r ∨ s3.isDetCore me.core = false → s3.taskOf me t = some g →
          ∃ s4, exec i s = .next (goOn s4 me t) ∧ HeldBy s3 s4 me t (.push r))
        ∧ (¬ detFlag r → s3.isDetCore me.core = false → s3.taskOf me t = none → (s3.core me.core).deque.length < 256 →
          exec i s = .next (goOn (s3.modCore me.core fun c => { c with deque := c.deque ++ [r] }) me t))
        ∧ (∀ c, detFlag r → s3.taskOf me t = none → FixedAt s3 me.core r c →
          ∃ s4, exec i s = .next (goOn s4 me t) ∧ r ∈ (s4.core c).fixed ∧ (s4.core c).fixed.length = (s3.core c).fixed.length + 1))
    ∧ (∀ a b, Issues (.taskSend a b) s t s1 s2 rd → let i := Instr.taskSend a b; let v := (rd a.toNat).toNat; let va := rd b.toNat
      (2 ^ 11 ≤ v → exec i s = .next (s1.takeTrap me cReservedField (bitsOf i) t.pc))
      ∧ (v < 2 ^ 11 → (s2.part t.part).spec.clusters.getLsbD (v / 16) = false →
        exec i s = .next (s1.takeTrap me cPartitionViolation (rd a.toNat) t.pc))
      ∧ (v < 2 ^ 11 → (s2.part t.part).spec.clusters.getLsbD (v / 16) = true →
        (va.toNat % 64 ≠ 0 → exec i s = .next (s1.takeTrap me cMisaligned va t.pc))
        ∧ ∀ s3 l, va.toNat % 64 = 0 → s2.gather me t va 64 1 = .ok (s3, l) → detFlag (copyOf va l) ∨ s3.isDetCore v = false →
          let m : Msg := { src := me, origin := 0, dst := v, cls := 15, words := [va], report := false, copy := some (copyOf va l) }
          (∀ g, s3.taskOf me t = some g → ∃ s4, exec i s = .next (goOn s4 me t) ∧ HeldBy s3 s4 me t (.msg m))
          ∧ (s3.taskOf me t = none → ∃ s4, exec i s = .next (goOn s4 me t) ∧ OnWay s4 (.messageArrival m))))
    ∧ (Issues .retire s t s1 s2 rd → exec .retire s = .next (s2.endThread me t false))
    ∧ (∀ a b, Issues (.retireS a b) s t s1 s2 rd → let i := Instr.retireS a b; let m := (rd b.toNat).toNat; let va := rd a.toNat
      (2 ^ 16 ≤ m ∨ m / 2 ^ 7 % 2 = 1 → exec i s = .next (s1.takeTrap me cReservedField (bitsOf i) t.pc))
      ∧ (m < 2 ^ 16 → m / 2 ^ 7 % 2 = 0 → va.toNat % 64 ≠ 0 → exec i s = .next (s1.takeTrap me cMisaligned va t.pc))
      ∧ (m < 2 ^ 16 → m / 2 ^ 7 % 2 = 0 → va.toNat % 64 = 0 → t.num ≠ 0 → exec i s = .next (s2.endThread me t false))
      ∧ ∀ s3 l, m < 2 ^ 16 → m / 2 ^ 7 % 2 = 0 → va.toNat % 64 = 0 → t.num = 0 → s2.gather me t va 64 1 = .ok (s3, l) →
        let r := copyOf va l; let x := if m / 2 ^ 6 % 2 = 1 then unpinned r else r
        ∀ s4 r2, (fieldOf x 56 1 = 0 ∧ s4 = s3 ∧ r2 = none)
            ∨ (fieldOf x 56 1 = 1 ∧ ∃ l', s3.gather me t (BitVec.ofNat 64 (fieldOf x 192 64)) 1 16 = .ok (s4, l')
              ∧ r2 = some (fpRange (BitVec.ofNat 64 (leNat (l'.take 8))) (BitVec.ofNat 64 (leNat (l'.drop 8))))) →
          (recordValid x r2 = false → exec i s = .next ((s4.detach me.core cReservedField va none).endThread me t false))
          ∧ (recordValid x r2 = true →
            exec i s = .next ((s4.modGroup me.core t.gid fun g => { g with succ := some (r, BitVec.ofNat 16 m) }).endThread me t false)))
    ∧ (Issues .taskAbort s t s1 s2 rd →
      (s2.taskOf me t = none → exec .taskAbort s = .next (s1.takeTrap me cReservedField (bitsOf .taskAbort) t.pc))
      ∧ ∀ g, s2.taskOf me t = some g → ∃ s3, exec .taskAbort s = .next s3 ∧ s3.group me.core t.gid = none
        ∧ (∀ x ∈ (s3.core me.core).spec, x.gid ≠ t.gid))
    ∧ (∀ d, Issues (.tstamp d) s t s1 s2 rd → let l := s2.dieGroups (dieOf me.core)
      ∃ s3 v, exec (.tstamp d) s = .next s3 ∧ Answered s3 me [(d.toNat, v)]
        ∧ ((∀ x ∈ l, x.2.2.uncommitted = false) → v = BitVec.allOnes 64)
        ∧ ((∃ x ∈ l, x.2.2.uncommitted = true) →
          ∃ x ∈ l, x.2.2.uncommitted = true ∧ v = x.2.2.tstamp ∧ ∀ y ∈ l, y.2.2.uncommitted = true → v.toNat ≤ y.2.2.tstamp.toNat))
    ∧ ∀ a b, Issues (.detList a b) s t s1 s2 rd → ¬ NotSecure s2 me t → let i := Instr.detList a b
      let va := rd a.toNat; let n := (rd b.toNat).toNat
      (va.toNat % 64 ≠ 0 → exec i s = .next (s1.takeTrap me cMisaligned va t.pc))
      ∧ (va.toNat % 64 = 0 → n = 0 ∨ 65536 < n → exec i s = .next (s1.takeTrap me cReservedField (bitsOf i) t.pc))
      ∧ ∀ s3 l, va.toNat % 64 = 0 → 1 ≤ n → n ≤ 65536 → s2.gather me t va 64 n = .ok (s3, l) → s3.thread me ≠ none →
        ∃ s4, exec i s = .next s4 ∧ Answered s4 me []
          ∧ ∀ c, n = 1 → detFlag (copyOf va l) → FixedAt s3 me.core (copyOf va l) c → copyOf va l ∈ (s4.core c).fixed

/-- Editable contexts (R261 to R263, R308 to R327, R352 to R356). The requests of opcode 0x2F that change a context are sent
after a release in open mode; in a task an edit is held, and its result register is 0. A reserved bit of a word, or a handle
word that names more, raises RESERVED_FIELD. `ctx.rel` gives a lease back, `beam.map` writes the beam slots that its mask names,
`ptb.inv` empties the PTB, and `pos.xl` reads it: a hit gives the chain index, the block and the slot, and a miss within the
context PTB_MISS. Readings and choices of the model in it: logs 17, 63, 102. -/
def Obligations.ContextForms : Prop :=
  ∀ s t s1 s2 rd, let me := s.cur
    (∀ d a, Issues (.ctxOpen d a) s t s1 s2 rd → ¬ NotSecure s2 me t → let i := Instr.ctxOpen d a; let v := rd a.toNat
      (d = 0 → exec i s = .next (s1.takeTrap me cReservedField (bitsOf i) t.pc))
      ∧ (d ≠ 0 → v.toNat % 256 ≠ 0 → exec i s = .next (s1.takeTrap me cReservedField v t.pc))
      ∧ (d ≠ 0 → v.toNat % 256 = 0 → exec i s = .next (waits (drained s2 me t) me (.seqRel .opn d.toNat v 0 []) s.cycle)))
    ∧ (∀ d a b, Issues (.ctxFork d a b) s t s1 s2 rd → ¬ NotSecure s2 me t → let i := Instr.ctxFork d a b
      let v := rd a.toNat; let x := rd b.toNat
      (d = 0 → exec i s = .next (s1.takeTrap me cReservedField (bitsOf i) t.pc))
      ∧ (d ≠ 0 → lowIn v ≠ 0 → exec i s = .next (s1.takeTrap me cReservedField v t.pc))
      ∧ (d ≠ 0 → lowIn v = 0 → x.toNat % 256 ≠ 0 → exec i s = .next (s1.takeTrap me cReservedField x t.pc))
      ∧ (d ≠ 0 → lowIn v = 0 → x.toNat % 256 = 0 →
        exec i s = .next (waits (drained s2 me t) me (.seqRel .fork d.toNat v x []) s.cycle)))
    ∧ (∀ a, Issues (.ctxClose a) s t s1 s2 rd → ¬ NotSecure s2 me t → let i := Instr.ctxClose a; let v := rd a.toNat
      (lowIn v ≠ 0 → exec i s = .next (s1.takeTrap me cReservedField v t.pc))
      ∧ (lowIn v = 0 → exec i s = .next (waits s2 me (.seq .close 0 v 0) s.cycle)))
    ∧ (∀ i k op d a tok, editOf i = some (k, op, d, a, tok) → Issues i s t s1 s2 rd →
      let x : Dword := (tok.map rd).getD 0
      (2 ^ 32 ≤ x.toNat → exec i s = .next (s1.takeTrap me cReservedField x t.pc))
      ∧ (∀ g, x.toNat < 2 ^ 32 → s2.taskOf me t = some g → ∃ s3, exec i s = .next (wrote s3 me t d 0)
        ∧ HeldBy s2 s3 me t (.edit (editMsg none me t k (rd a) x.toNat [] s2.cycle)))
      ∧ (x.toNat < 2 ^ 32 → s2.taskOf me t = none → exec i s = .next (waits (drained s2 me t) me (.seqRel op d (rd a) x []) s.cycle)))
    ∧ (∀ d a b, Issues (.ctxRope d a b) s t s1 s2 rd → let i := Instr.ctxRope d a b; let va := rd b.toNat
      (va.toNat % 4 ≠ 0 → exec i s = .next (s1.takeTrap me cMisaligned va t.pc))
      ∧ ∀ s3 l, va.toNat % 4 = 0 → s2.gather me t va 4 16 = .ok (s3, l) →
        let f := fun i => leNat ((l.drop (4 * i)).take 4) % 2 ^ 32
        let fs : List Word := (List.range 16).map fun i => BitVec.ofNat 32 (f i)
        let ok := ∀ i, i < 16 → 0 < f i ∧ f i < 0x7F800000
        (¬ ok → exec i s = .next (s1.takeTrap me cEditRange (rd a.toNat) t.pc))
        ∧ (∀ g, ok → s3.taskOf me t = some g → ∃ s4, exec i s = .next (wrote s4 me t d.toNat 0)
          ∧ HeldBy s3 s4 me t (.edit (editMsg none me t .rope (rd a.toNat) 0 fs s3.cycle)))
        ∧ (ok → s3.taskOf me t = none →
          exec i s = .next (waits (drained s3 me t) me (.seqRel .rope d.toNat (rd a.toNat) 0 fs) s.cycle)))
    ∧ (∀ d a, Issues (.dmapGet d a) s t s1 s2 rd → let i := Instr.dmapGet d a; let v := (rd a.toNat).toNat
      let kind := v / 2 ^ 24 % 4; let bad := v / 2 ^ 26 % 64 ≠ 0 ∨ kind = 3 ∨ (kind ≠ 0 ∧ v % 2 ^ 24 ≠ 0)
      (bad → exec i s = .next (s1.takeTrap me cReservedField (bitsOf i) t.pc))
      ∧ (¬ bad → exec i s = .next (waits s2 me (.seq .dmapGet d.toNat (rd a.toNat) 0) s.cycle)))
    ∧ (∀ a b, Issues (.dmapMov a b) s t s1 s2 rd → let i := Instr.dmapMov a b; let v := rd a.toNat; let x := (rd b.toNat).toNat
      let r := fun w : Option Who => ({ w, core := me.core, part := t.part, opnd := v, moved := decide (x = 1), tstamp := t.tstamp, lidx := t.lidx } : ReportMsg)
      (lowIn v ≠ 0 ∨ 2 ≤ x → exec i s = .next (s1.takeTrap me cReservedField (bitsOf i) t.pc))
      ∧ (∀ g, lowIn v = 0 → x < 2 → s2.taskOf me t = some g →
        ∃ s3, exec i s = .next (goOn s3 me t) ∧ HeldBy s2 s3 me t (.report (r none)))
      ∧ (lowIn v = 0 → x < 2 → s2.taskOf me t = none →
        ∃ s3, exec i s = .next (waits s3 me (.seq .dmapMov 0 v (rd b.toNat)) s.cycle) ∧ OnWay s3 (.dmapReport (r (some me)))))
    ∧ (∀ a b, Issues (.settle a b) s t s1 s2 rd → let i := Instr.settle a b; let v := (rd a.toNat).toNat; let x := (rd b.toNat).toNat
      let bad := v / 2 ^ 24 % 2 ^ 8 < v / 2 ^ 16 % 2 ^ 8 ∨ v % 2 ^ 16 < x / 2 ^ 48
      (bad → exec i s = .next (s1.takeTrap me cReservedField (bitsOf i) t.pc))
      ∧ (¬ bad → exec i s = .next (waits s2 me (.seq .settle 0 (rd a.toNat) (rd b.toNat)) s.cycle)))
    ∧ (∀ d a b, Issues (.ctxRd d a b) s t s1 s2 rd → let i := Instr.ctxRd d a b; let v := (rd a.toNat).toNat; let x := (rd b.toNat).toNat
      let bad := v / 2 ^ 24 % 2 ^ 8 ≥ 3 ∨ 2 ^ 48 ≤ x ∨ d = 0
      (bad → exec i s = .next (s1.takeTrap me cReservedField (bitsOf i) t.pc))
      ∧ (¬ bad → t.handler = false → t.glim - t.gbase ≤ d.toNat + 1 → exec i s = .next (s1.takeTrap me cRegLimit (bitsOf i) t.pc))
      ∧ (¬ bad → t.handler = false → d.toNat + 1 < t.glim - t.gbase →
        exec i s = .next (waits s2 me (.seq .ctxRd d.toNat (rd a.toNat) (rd b.toNat)) s.cycle)))
    ∧ (∀ a, Issues (.ctxRel a) s t s1 s2 rd → let i := Instr.ctxRel a; let hit := fun l : Lease => l.addr == rd a.toNat
      let mine := fun l : Lease => hit l && l.num == t.num
      (∀ g, s2.taskOf me t = some g → (g.leases.find? mine = none → exec i s = .next (goOn s2 me t))
        ∧ ∀ l, g.leases.find? mine = some l → ∃ s3 g', exec i s = .next (goOn s3 me t) ∧ s3.group me.core t.gid = some g'
          ∧ g'.leases = g.leases.erase l)
      ∧ (s2.taskOf me t = none → (t.leases.find? hit = none → exec i s = .next (goOn s2 me t))
        ∧ ∀ l x, t.leases.find? hit = some l → s2.thread me = some x → x.leases = t.leases →
          ∃ s3 y, exec i s = .next (goOn s3 me t) ∧ s3.thread me = some y ∧ y.leases = t.leases.erase l))
    ∧ (∀ a b, Issues (.beamMap a b) s t s1 s2 rd → let i := Instr.beamMap a b; let va := rd a.toNat
      (va.toNat % 64 ≠ 0 → exec i s = .next (s1.takeTrap me cMisaligned va t.pc))
      ∧ ∀ s3 l, va.toNat % 64 = 0 → s2.gather me t va 64 4 = .ok (s3, l) → ∃ s4, exec i s = .next (goOn s4 me t)
        ∧ ∀ j, j < 64 → smGetD (s4.core me.core).beam j 0
          = if (rd b.toNat).toNat / 2 ^ j % 2 = 1 then BitVec.ofNat 32 (leNat ((l.drop (4 * j)).take 4)) else smGetD (s3.core me.core).beam j 0)
    ∧ (∀ a b, Issues (.ptbFill a b) s t s1 s2 rd →
      exec (.ptbFill a b) s = .next (waits s2 me (.seq .ptbFill 0 (rd a.toNat) (rd b.toNat)) s.cycle))
    ∧ (∀ a, Issues (.ptbInv a) s t s1 s2 rd → let i := Instr.ptbInv a; let v := rd a.toNat
      (lowIn v ≠ 0 → exec i s = .next (s1.takeTrap me cReservedField (bitsOf i) t.pc))
      ∧ (v = 0 → exec i s = .next (goOn (s2.modCore me.core fun c => { c with ptb := [] }) me t))
      ∧ (lowIn v = 0 → v ≠ 0 → s2.ctxOf t.part (handleIn v) = none → exec i s = .next (s1.takeTrap me cCtxInvalid v t.pc))
      ∧ (lowIn v = 0 → v ≠ 0 → s2.ctxOf t.part (handleIn v) ≠ none → ∃ s3, exec i s = .next (goOn s3 me t)
        ∧ ∀ e, e ∈ (s3.core me.core).ptb ↔ e ∈ (s2.core me.core).ptb ∧ e.handle.toNat ≠ handleIn v))
    ∧ ∀ d a b, Issues (.posXl d a b) s t s1 s2 rd → let i := Instr.posXl d a b; let v := rd a.toNat; let x := (rd b.toNat).toNat
      (2 ^ 48 ≤ x → exec i s = .next (s1.takeTrap me cReservedField (bitsOf i) t.pc))
      ∧ (x < 2 ^ 48 → s2.ctxOf t.part (handleIn v) = none → exec i s = .next (s1.takeTrap me cCtxInvalid v t.pc))
      ∧ ∀ die idx c, x < 2 ^ 48 → s2.ctxOf t.part (handleIn v) = some (die, idx, c) →
        ((∃ e ∈ (s2.core me.core).ptb, Serves e (handleIn v) (lowIn v) x) →
          ∃ e ∈ (s2.core me.core).ptb, Serves e (handleIn v) (lowIn v) x ∧ ∃ s3, exec i s
            = .next (wrote s3 me t d.toNat (nat64 (e.idx * 2 ^ 32 + e.phys * 2 ^ 16 + (lowIn v - e.first)))))
        ∧ ((∀ e ∈ (s2.core me.core).ptb, ¬ Serves e (handleIn v) (lowIn v) x) →
          (c.counter < x → exec i s = .next (s1.takeTrap me cEditRange v t.pc))
          ∧ ∀ im, x ≤ c.counter → c.imageFor x = some im →
            (chainTotal im.chain ≤ lowIn v → exec i s = .next (s1.takeTrap me cEditRange v t.pc))
            ∧ (lowIn v < chainTotal im.chain → exec i s = .next (s1.takeTrap me cPtbMiss (nat64 (lowIn v)) t.pc)))

/-- Steps of a wave sequencer (R309, R313, R318, R319). An edit or a report of a task that names no open context is a detached
CTX_INVALID; an edit behind another takes its turn; the 2^48-th edit is out of range; one that is carried out takes the next
stamp, and an insertion makes the chain one token longer, a deletion one shorter, with every block's fill in 1 to B. A report
that names no outstanding record is ignored, one whose commit waits is kept, and one of a block that did not move frees its
record's place. A record is pushed once its window is assembled and it is its turn; the record that a committed one named as its
successor is handed on, and one it did not name is discarded when its frame is clean. Readings and choices of the model in it:
logs 52, 55. -/
def Obligations.SequencerSteps : Prop :=
  (∀ s e, s.ctxOf e.part (handleIn e.opnd) = none → e.w = none →
    exec (.editApply e) s = .next (s.detach e.core cCtxInvalid e.opnd none))
  ∧ (∀ s e die idx c, s.ctxOf e.part (handleIn e.opnd) = some (die, idx, c) →
    (∀ x rest, c.edits = x :: rest → x ≠ e → e ∉ rest → ∃ s3 c', exec (.editApply e) s = .next s3
      ∧ smGet (s3.die die).ctxs idx = some c' ∧ c'.edits = c.edits ++ [e] ∧ c'.counter = c.counter ∧ c'.chain = c.chain)
    ∧ (c.edits = [] → c.counter = 2 ^ 48 - 1 → e.w = none →
      (e.kind = .del ∨ e.kind = .rope
        ∨ (s.modCtx die idx fun c => { c with edits := [] }).rowHeld e.core e.part e.space (e.space != 0) c e.tok.toNat = false) →
      ∃ s3 : State, exec (.editApply e) s = .next (s3.detach e.core cEditRange e.opnd none))
    ∧ ∀ s3 stamp, c.edits = [] → (s.modCtx die idx fun c => { c with edits := [] }).editTry die idx c e = .done s3 stamp →
      stamp = c.counter + 1 ∧ exec (.editApply e) s = .next (s3.klog die kEdit 0 e.part 0 e.core (nat64 stamp) (nat64 c.handle.toNat)))
  ∧ (∀ (s : State) die idx (c : Ctx) e row j k x p, c.chain[j]? = some x → 1 ≤ x.fill → x.fill ≤ c.b → k ≤ x.fill → (e.kind ≠ .ins → k < x.fill) →
    s.planEdit die idx c e row j k = .ok p →
    (e.kind = .ins → chainTotal p.chain = chainTotal c.chain + 1) ∧ (e.kind = .del → chainTotal p.chain + 1 = chainTotal c.chain)
    ∧ (e.kind = .chg → p.chain = c.chain)
    ∧ ((∀ y ∈ c.chain, 1 ≤ y.fill ∧ y.fill ≤ c.b) → ∀ y ∈ p.chain, 1 ≤ y.fill ∧ y.fill ≤ c.b))
  ∧ (∀ s r, s.ctxOf r.part (handleIn r.opnd) = none → r.w = none →
    exec (.dmapReport r) s = .next (s.detach r.core cCtxInvalid r.opnd none))
  ∧ (∀ s r die idx c, s.ctxOf r.part (handleIn r.opnd) = some (die, idx, c) → r.w = none →
    (c.reported r = none → r ∉ c.reports → ∃ s3 c', exec (.dmapReport r) s = .next s3 ∧ smGet (s3.die die).ctxs idx = some c' ∧ c' = c)
    ∧ (∀ p, c.reported r = some p → s.reportWaits r [] none = true → ∃ s3 c', exec (.dmapReport r) s = .next s3
      ∧ smGet (s3.die die).ctxs idx = some c' ∧ r ∈ c'.reports ∧ c'.places = c.places ∧ c'.frames = c.frames)
    ∧ ∀ key p, c.reported r = some (key, p) → s.reportWaits r [] none = false → r.moved = false → c.waves = [] → c.places = [(key, p)] →
      ∃ s3 c', exec (.dmapReport r) s = .next s3 ∧ smGet (s3.die die).ctxs idx = some c' ∧ c'.places = [] ∧ c'.frames = c.frames)
  ∧ (∀ s p, (∀ c, smGet (s.die p.die).ctxs p.idx = some c → ∀ x, smGet c.places (c.keyOf p) = some x → s.windowReady p.die p.idx c (c.keyOf p) x = false) →
    exec (.windowAssembly p) s = .next s)
  ∧ (∀ s p c x, smGet (s.die p.die).ctxs p.idx = some c → smGet c.places (c.keyOf p) = some x → s.windowReady p.die p.idx c (c.keyOf p) x = true →
    ∃ l, exec (.windowAssembly p) s = .next ((s.ctxWrite c (x.task.addr + nat64 128) l).modCtx p.die p.idx fun c =>
        { c with places := smSet c.places (c.keyOf p) { x with window := true } })
      ∧ (x.j = 0 → ∃ rest, l = List.replicate c.row 0 ++ rest))
  ∧ (∀ s p c x e, smGet (s.die p.die).ctxs p.idx = some c → smGet c.places (c.keyOf p) = some x → c.layerEnt p.layer = some e →
    let k := pushCore e x.j
    (c.pushReady (c.keyOf p) x = false → exec (.recordPush p) s = .next s)
    ∧ (c.pushReady (c.keyOf p) x = true → s.partOf k = some c.part → ¬ detFlag x.task → s.isDetCore k = false →
      (s.core k).deque.length < 256 → ∃ s3 c' x', exec (.recordPush p) s = .next s3 ∧ (s3.core k).deque = (s.core k).deque ++ [x.task]
        ∧ smGet (s3.die p.die).ctxs p.idx = some c' ∧ smGet c'.places (c.keyOf p) = some x' ∧ x' = { x with st := .pushed }))
  ∧ ∀ s die idx c key k2 p x succ, idx < 4096 → (s.die die).ctxs = [(idx, c)] → c.waves = [] → c.places = [(key, p), (k2, x)] → key < k2 →
    p.st ≠ .prepared → c.placeLayer k2 = c.placeLayer key + 1 → c.placePhys k2 = c.placePhys key → x.stamp = p.stamp →
    x.st = .prepared → x.byPred = true → x.task.addr ≠ p.task.addr →
    ∃ s3 c', exec (.commitNotice (4096 * die + idx) p.task.addr succ) s = .next s3 ∧ smGet (s3.die die).ctxs idx = some c'
      ∧ (succ = some x.task.addr → c'.places = [(key, p), (k2, { x with byPred := false, st := .named })])
      ∧ (succ ≠ some x.task.addr → c'.places = [(key, p)])

/-- What a cycle of a command in the execution position comes to (R158 to R162, R202, R227, R228, R254, R255, R287), for every command of the
three engines: with no command in execution, or one that has begun, nothing; its work is done, and its completion is on its way; it fails,
and keeps what it has done; it has reached as many words as it does in one cycle, and goes on in the next; or it waits for a local word, for
a line, for a place or for a PTB entry, and goes on from there. Readings and choices of the model in it: logs 10, 111. -/
def Obligations.CommandOutcomes : Prop :=
  ∀ i k remote work, workOf i = some (k, remote, work) →
    (∀ s, ((s.core s.cur.core).unit k).exec = none → exec i s = .next s)
    ∧ ∀ s r0, ((s.core s.cur.core).unit k).exec = some r0 →
      (r0.begun = true → exec i s = .next s)
      ∧ (r0.begun = false → let w := r0.cmd.w
        let r : Running := { r0 with remote, started := true, since := if r0.started then r0.since else s.cycle, hold := .free }
        let e0 := r.eng s w.core (r.room s w.core work)
        let stays := fun (e : Eng) (x : Running) => e.s.modUnit w.core k fun u => { u with exec := some x }
        (∀ time e, runsTo work e0 = (.ok time, e) → exec i s = .next (s.beginDone w k r e none time)
          ∧ (e.out = [] → remote = false → r0.started = false →
            ∃ s', exec i s = .next s' ∧ Begun s e.s s' k { r0 with remote } e.moved e.flags none (time + e.lat.getD 0)))
        ∧ (∀ cause e, runsTo work e0 = (.error (.fail cause), e) →
          exec i s = .next (s.beginDone w k { r with remote := false } e (some cause) 0)
          ∧ (e.out = [] → r0.started = false →
            ∃ s', exec i s = .next s' ∧ Begun s e.s s' k { r0 with remote := false } e.moved e.flags (some cause) (e.lat.getD 0)))
        ∧ (∀ e, runsTo work e0 = (.error .pause, e) → ∃ s' pace, exec i s = .next s' ∧ s'.fresh = e.s.fresh + 1
          ∧ s' = { stays e { r.after e .free with next := s.cycle + 1, pace } with fresh := e.s.fresh + 1 })
        ∧ (∀ h e, runsTo work e0 = (.error (.hold h), e) → (∀ pos, h ≠ .row pos) → exec i s = .next (stays e (r.after e h)))
        ∧ ∀ pos e, runsTo work e0 = (.error (.hold (.row pos)), e) →
          exec i s = .next ((stays e (r.after e (.row pos))).pend w cPtbMiss (nat64 pos)))

/-- The vector commands over the local store (R105, R106, R183 to R193): each fails CMD_MALFORMED or LOCAL_BOUND where its
limits say so, and otherwise leaves the results that its formula gives, elements in ascending order over the store as it stands.
Readings and choices of the model in it: logs 10, 38, 39, 40. -/
def Obligations.VectorCommands : Prop :=
  ∀ s r, Begins s .vx r → Calm s r → let c := s.core s.cur.core; let rm := r.cmd.rm; let fw := r.cmd.fmtWord
    let fmtOk := fw.toNat < 2 ^ 8 ∧ r.cmd.fmtRest = false
    let no := fun i => Refused i s .vx r [cCmdMalformed, cLocalBound]
    let does := fun i (p : Core × FlagSet) time => Works i s .vx r p.1 false p.2 time
    (∀ tag sf v, let n := v.n.toNat; let f := v.ctl.toNat
      let ok := vecOk v false (f == 12) ∧ f ≤ 12 ∧ Area v.a.toNat n 4 ∧ Area v.dst.toNat n 4
      let elem := fun (c : Core) j => let x := c.lread (v.a.toNat + 4 * j) 4
        let y := if f = 11 then (x, 0) else if f = 12 then fmt32.mul rm x v.x.toNat else sfuFn f x
        (c.engineWrite (v.dst.toNat + 4 * j) 4 y.1, y.2)
      (¬ ok → no (.vxMap tag sf v)) ∧ (ok → does (.vxMap tag sf v) (eachOf n elem c) (16 + (n + 31) / 32)))
    ∧ (∀ tag sf v, let n := v.n.toNat; let b0 := v.ctl.toNat % 2 = 1; let c0 := v.ctl.toNat / 2 % 2 = 1
      let ok := vecOk v true true ∧ v.ctl.toNat < 4 ∧ Area v.a.toNat n 4 ∧ Area v.dst.toNat n 4 ∧ Area v.b.toNat (if b0 then 1 else n) 4
        ∧ Area v.x.toNat (if c0 then 1 else n) 4
      let elem := fun (c : Core) j => let x := c.lread (v.a.toNat + 4 * j) 4
        let y := c.lread (if b0 then v.b.toNat else v.b.toNat + 4 * j) 4; let z := c.lread (if c0 then v.x.toNat else v.x.toNat + 4 * j) 4
        (c.engineWrite (v.dst.toNat + 4 * j) 4 (fmt32.fma rm false false x y z).1, (fmt32.fma rm false false x y z).2)
      (¬ ok → no (.vxFma tag sf v)) ∧ (ok → does (.vxFma tag sf v) (eachOf n elem c) (16 + (n + 31) / 32)))
    ∧ (∀ tag sf v, let n := v.n.toNat; let mode := v.ctl.toNat % 4; let clear := v.ctl.toNat / 4 % 2 = 1
      let ok := vecOk v false false ∧ v.ctl.toNat < 8 ∧ (clear → mode = 3) ∧ Area v.a.toNat n 4 ∧ Area v.dst.toNat 1 4
      let xs := wordsAt c v.a.toNat n
      let op := if mode = 0 then fmt32.add rm else fmt32.minMax (mode == 2)
      let acc := longAdds (if clear then 0 else c.lacc) (if clear then false else c.laccE) xs
      (¬ ok → no (.vxRed tag sf v))
      ∧ (ok → mode ≠ 3 → does (.vxRed tag sf v) (c.engineWrite v.dst.toNat 4 (foldFirst fmt32 op xs).1, (foldFirst fmt32 op xs).2)
        (16 + (n + 31) / 32))
      ∧ (ok → mode = 3 → does (.vxRed tag sf v)
        (({ c with lacc := acc.1, laccE := acc.2.1 } : Core).engineWrite v.dst.toNat 4 (longRead acc.1).1, acc.2.2 ||| (longRead acc.1).2)
        (16 + (n + 31) / 32)))
    ∧ (∀ tag sf v, let n := v.n.toNat; let t := ptab fw; let given := v.ctl.toNat / 4 % 2 = 1
      let clear := v.ctl.toNat / 2 % 2 = 1; let consistent := v.ctl.toNat % 2 = 1
      let zero := fun k => match c.decodeC8 t k with | .zero _ => true | _ => false
      let ok := vecOk v true (v.ctl.toNat / 4 % 2 == 1) ∧ v.ctl.toNat < 8 ∧ fmtOk ∧ (∃ k, k < 254 ∧ zero k = true)
        ∧ Area v.a.toNat n 4 ∧ Area v.dst.toNat n 1 ∧ Area v.b.toNat 4 4
      let xs := wordsAt c v.a.toNat n
      let m := if given then v.x.toNat else (foldFirst fmt32 (fmt32.minMax true) xs).1
      let es := xs.map fun x => if x = 0xFF800000 then 0 else (sfuExp2 (fmt32.sub 0 x m).1).1
      let acc := longAdds (if clear then 0 else c.lacc) (if clear then false else c.laccE) es
      let d := (longRead acc.1).1
      let codes := es.map fun e => (c.probCode t (fmt32.div 0 e d).1).1
      let acc2 := if consistent then longAdds 0 false (codes.map fun x => widenVal (c.decodeC8 t x)) else acc
      let c1 := (List.range n).foldl (fun k i => k.engineWrite (v.dst.toNat + i) 1 (codes.getD i 0)) c
      let c2 : Core := { c1 with lacc := acc2.1, laccE := acc2.2.1 }
      let c3 := (((c2.engineWrite v.b.toNat 4 m).engineWrite (v.b.toNat + 4) 4 d).engineWrite (v.b.toNat + 8) 4
        (if consistent then (longRead acc2.1).1 else d)).engineWrite (v.b.toNat + 12) 4 (codes.filter zero).length
      (¬ ok → no (.vxExpsum tag sf v))
      ∧ (ok → ∃ g, does (.vxExpsum tag sf v) (c3, g) (16 + (if consistent then 4 else 3) * ((n + 31) / 32))))
    ∧ (∀ tag sf v, let n := v.n.toNat; let ok := vecOk v true true ∧ v.ctl = 0 ∧ Area v.a.toNat n 4 ∧ Area v.b.toNat n 4 ∧ Area v.dst.toNat n 4
      let sum := folded (fun p x => fmt32.fma rm false false x x p) (0, 0) (wordsAt c v.a.toNat n)
      let q := fmt32.finish rm (divVal fmt32 (fmt32.decode sum.1) (.ofInt n 0 false)); let e := fmt32.add rm q.1 v.x.toNat
      let rho := sfuRsqrt e.1
      let elem := fun (c : Core) j => let p := fmt32.mul rm (c.lread (v.a.toNat + 4 * j) 4) rho.1
        let y := fmt32.mul rm p.1 (c.lread (v.b.toNat + 4 * j) 4)
        (c.engineWrite (v.dst.toNat + 4 * j) 4 y.1, p.2 ||| y.2)
      (¬ ok → no (.vxNorm tag sf v))
      ∧ (ok → does (.vxNorm tag sf v) ((eachOf n elem c).1, sum.2 ||| q.2 ||| e.2 ||| rho.2 ||| (eachOf n elem c).2) (16 + 2 * ((n + 31) / 32))))
    ∧ (∀ tag sf v, let n := v.n.toNat
      let ok := vecOk v true true ∧ v.ctl = 0 ∧ fmtOk ∧ Area v.a.toNat n 1 ∧ Area v.b.toNat ((n + 31) / 32) 1
        ∧ Area v.x.toNat ((n + 31) / 32) 1 ∧ Area v.dst.toNat n 1
      let elem := fun (c : Core) j => let o := c.lread (v.b.toNat + j / 32) 1; let w := c.lread (v.x.toNat + j / 32) 1
        let y := if o = 255 ∨ w = 255 then (254, fNV) else
          c.encodeC8 (otab fw) (timesPow (c.decodeC8 (atab fw) (c.lread (v.a.toNat + j) 1)) ((o : Int) - (w : Int)))
        (c.engineWrite (v.dst.toNat + j) 1 y.1, y.2)
      (¬ ok → no (.vxRequant tag sf v)) ∧ (ok → does (.vxRequant tag sf v) (eachOf n elem c) (16 + (n + 31) / 32)))
    ∧ (∀ tag sf v, let n := v.n.toNat; let k := v.ctl.toNat
      let ok := 1 ≤ n ∧ n ≤ 1048576 ∧ 1 ≤ k ∧ k ≤ 64 ∧ k ≤ n ∧ v.b = 0 ∧ v.x = 0 ∧ v.y = 0 ∧ Area v.a.toNat n 4 ∧ Area v.dst.toNat (2 * k) 4
      let x := fun j => c.lread (v.a.toNat + 4 * j) 4
      (¬ ok → no (.vxTopk tag sf v))
      ∧ (ok → ∃ best : List Nat, best.length = k ∧ (∀ j ∈ best, j < n) ∧ best.Pairwise (fun i j => Above (x i) i (x j) j)
        ∧ (∀ j, j < n → j ∉ best → ∀ i ∈ best, Above (x i) i (x j) j)
        ∧ does (.vxTopk tag sf v) ((List.range k).foldl (fun c i => let j := best.getD i 0
            (c.engineWrite (v.dst.toNat + 8 * i) 4 (if (fmt32.decode (x j)).isNan then 0x7FC00000 else x j)).engineWrite
              (v.dst.toNat + 8 * i + 4) 4 j) c, 0) (16 + (n + 31) / 32 + 2 * k)))
    ∧ (∀ tag sf v, let n := v.n.toNat; let d := 32 * (v.ctl.toNat % 8 + 1); let nt := (n + 31) / 32
      let ok := vecOk v false false ∧ v.ctl.toNat < 8 ∧ Area v.a.toNat (n * d) 2 ∧ Area v.dst.toNat (2 * d * nt) 2
      let tile := fun (c : Core) t => eachOf d (fun (c : Core) i =>
        let xs := (List.range (min 32 (n - 32 * t))).map fun j => c.lread (v.a.toNat + 2 * (d * (32 * t + j) + i)) 2
        let hi := foldFirst fmt16 (fmt16.minMax true) xs; let lo := foldFirst fmt16 (fmt16.minMax false) xs
        ((c.engineWrite (v.dst.toNat + 4 * d * t + 2 * i) 2 hi.1).engineWrite (v.dst.toNat + 4 * d * t + 2 * (d + i)) 2 lo.1, hi.2 ||| lo.2)) c
      (¬ ok → no (.vxKsum tag sf v)) ∧ (ok → does (.vxKsum tag sf v) (eachOf nt tile c) (16 + d / 32 * ((n + 31) / 32))))
    ∧ (∀ tag sf v, let n := v.n.toNat; let i := Instr.vxCvt tag sf v
      (laneOf (BitVec.ofNat 4 v.ctl.toNat) = none ∨ laneOf (BitVec.ofNat 4 (v.ctl.toNat / 2 ^ 4)) = none
        ∨ rndOf (BitVec.ofNat 3 (v.ctl.toNat / 2 ^ 8)) = none → no i)
      ∧ ∀ st dt rnd, laneOf (BitVec.ofNat 4 v.ctl.toNat) = some st → laneOf (BitVec.ofNat 4 (v.ctl.toNat / 2 ^ 4)) = some dt →
        rndOf (BitVec.ofNat 3 (v.ctl.toNat / 2 ^ 8)) = some rnd →
        let ok := vecOk v false false ∧ v.ctl.toNat < 2 ^ 11 ∧ dt.isCvt = true ∧ st.isCvt = true ∧ dt ≠ st
          ∧ (dt = .c8 ∨ st = .c8 → fmtOk) ∧ Area v.a.toNat n (st.width / 8) ∧ Area v.dst.toNat n (dt.width / 8)
        let m : BitVec 2 := match rnd with | .rne => 0 | .rtz => 1 | .rdn => 2 | .rup => 3 | .dyn => rm
        let elem := fun (c : Core) j => let y := c.convert fw m dt st (c.lread (v.a.toNat + st.width / 8 * j) (st.width / 8))
          (c.engineWrite (v.dst.toNat + dt.width / 8 * j) (dt.width / 8) y.1, y.2)
        (¬ ok → no i) ∧ (ok → does i (eachOf n elem c) (16 + (n + 31) / 32)))
    ∧ ∀ tag sf n a thr cmp dst, let i := Instr.vxCmpst tag sf n a thr cmp dst
      let ok := 1 ≤ n.toNat ∧ n.toNat ≤ 16384 ∧ cmp.toNat % 2 = 0 ∧ dst.toNat % 2 = 0 ∧ Area a.toNat n.toNat 4
      let new := (wordsAt c a.toNat n.toNat).map fun x => fmt16.pack 0 (fmt32.decode x)
      let g := new.foldl (fun g p => g ||| p.2) 0
      (¬ ok → no i)
      ∧ ∀ old e, ok → runsTo ((List.range n.toNat).mapM fun j => ldGlobal (cmp + nat64 (2 * j)) 2) { start s r with flags := g } = (.ok old, e) →
        blockMoved thr.toNat (new.map (·.1)) old = false →
          ∃ s', exec i s = .next s' ∧ Begun s e.s s' .vx r false g none (16 + (n.toNat + 31) / 32 + e.lat.getD 0)

/-- The matrix commands over the local store and the tiles (R103, R108, R166 to R177). A group with no claim fails TILE_CFG, and
a command outside its limits TILE_CFG, CMD_MALFORMED or LOCAL_BOUND, with no effect. `mx.ldb` copies its bytes into the weight
buffer where every unit of them can be read now. `mx.mma` adds each chunk of 32 with one
rounding, or one saturation, to every element of its part of the tile; `mx.ldt` widens exactly; `mx.stt` rounds to nearest-even
and, with C, writes only when the block moved; `mx.zero` clears the tiles that its mask names. Readings and choices of the model
in it: logs 9, 10, 41, 117, 118, 119. -/
def Obligations.MatrixCommands : Prop :=
  ∀ s r, Begins s .mx r → Calm s r → let c := s.core s.cur.core; let fw := r.cmd.fmtWord; let cfg := c.tileCfg r.cmd.cfg
    let no := fun i => Refused i s .mx r [cTileCfg, cCmdMalformed, cLocalBound]
    (∀ i work, workOf i = some (.mx, false, work) → (∀ tag a w n, i ≠ .mxLdb tag a w n) → r.cmd.claim = false →
      Refused i s .mx r [cTileCfg])
    ∧ (∀ tag addr wbo len, ¬ (addr.toNat % 64 = 0 ∧ wbo.toNat % 64 = 0 ∧ len.toNat % 64 = 0 ∧ 64 ≤ len.toNat
        ∧ wbo.toNat + len.toNat ≤ 196608) → Refused (.mxLdb tag addr wbo len) s .mx r [cCmdMalformed])
    ∧ (∀ tag addr wbo len (acc : Nat → Access), addr.toNat % 64 = 0 → wbo.toNat % 64 = 0 → len.toNat % 64 = 0 → 64 ≤ len.toNat →
      wbo.toNat + len.toNat ≤ 196608 → (∀ i, i < len.toNat / 64 → Readable s r (addr + nat64 (64 * i)) 64 (acc i)) →
      ∃ s1 s', exec (.mxLdb tag addr wbo len) s = .next s' ∧ Begun s s1 s' .mx r false 0 none (len.toNat / 64 + s.readLat s.cur.core (acc 0))
        ∧ s1.mem = s.mem ∧ s1.agenda = s.agenda ∧ (s1.core s.cur.core).tiles = c.tiles ∧ (s1.core s.cur.core).lstore = c.lstore
        ∧ (∀ i b, i < len.toNat / 64 → b < 64 → smGetD (s1.core s.cur.core).wbuf (wbo.toNat + 64 * i + b) 0
          = BitVec.ofNat 8 (bytesSeen s r (acc i) 64 / 2 ^ (8 * b)))
        ∧ ∀ o, (o < wbo.toNat ∨ wbo.toNat + len.toNat ≤ o) → smGetD (s1.core s.cur.core).wbuf o 0 = smGetD c.wbuf o 0)
    ∧ (r.cmd.claim = true →
      (∀ tag sf bsgn asgn rows tile lso stride k wbo bstride ascl,
        let i := Instr.mxMma tag sf bsgn asgn rows tile lso stride k wbo bstride ascl
        let at' := cfgLane (cfgA cfg); let bt := cfgLane (cfgB cfg); let m := rows.toNat; let kk := k.toNat; let nch := (kk + 31) / 32
        let ok := 1 ≤ m ∧ m ≤ cfgRows cfg ∧ 1 ≤ kk ∧ kk ≤ 4096
          ∧ (if cfgInt cfg = true then asgn = at'.signed ∧ bsgn = bt.signed ∧ ascl.toNat = 0xFFFFFFFF else asgn = false ∧ bsgn = false)
          ∧ lso.toNat % elemBytes at' = 0 ∧ stride.toNat % elemBytes at' = 0 ∧ wbo.toNat % 64 = 0 ∧ bstride.toNat % 64 = 0
          ∧ (at' = .c8 ∨ bt = .c8 → fw.toNat < 2 ^ 8 ∧ r.cmd.fmtRest = false) ∧ (∀ x, x < nch → c.blockBad (wbo.toNat + x * bstride.toNat) bt (cfgInt cfg) = false)
          ∧ lso.toNat + (m - 1) * stride.toNat + rowBytes at' kk ≤ 393216 ∧ (ascl.toNat ≠ 0xFFFFFFFF → ascl.toNat + m * nch ≤ 393216)
        (¬ ok → no i)
        ∧ (ok → ∃ c' g, Works i s .mx r c' false g (24 + (if at'.width = 4 ∧ bt.width = 4 then (m + 1) / 2 else m) * nch)
            ∧ TileSet c c' tile.toNat m (cfgCols cfg) fun r n => mmaElem c fw cfg lso.toNat stride.toNat kk wbo.toNat bstride.toNat
                ascl.toNat r n (c.tile tile.toNat r n)))
      ∧ (∀ tag sf type rows tile lso stride, let i := Instr.mxLdt tag sf type rows tile lso stride
        let t := cfgLane type.toNat; let m := rows.toNat
        let ok := (if cfgInt cfg = true then type.toNat = 2 else type.toNat ∈ [8, 9, 10, 11]) ∧ 1 ≤ m ∧ m ≤ cfgRows cfg
          ∧ lso.toNat % elemBytes t = 0 ∧ stride.toNat % elemBytes t = 0
          ∧ lso.toNat + (m - 1) * stride.toNat + rowBytes t (cfgCols cfg) ≤ 393216
        (¬ ok → no i)
        ∧ (ok → ∃ c', Works i s .mx r c' false 0 (8 + m) ∧ TileSet c c' tile.toNat m (cfgCols cfg) fun r n =>
          let x := c.lread (lso.toNat + r * stride.toNat + n * (t.width / 8)) (t.width / 8)
          (if t = .i32 ∨ t = .f32 then x else (fmt32.pack 0 (t.value x)).1) % 2 ^ 32))
      ∧ (∀ tag sf cf type rows tile cmp dst stride thr, let i := Instr.mxStt tag sf false cf type rows tile cmp dst stride thr
        let t := cfgLane type.toNat; let size := elemBytes t; let m := rows.toNat; let cols := cfgCols cfg
        let ok := (if cfgInt cfg = true then type.toNat = 2 else type.toNat ∈ [8, 9, 10]) ∧ (cf = true → type.toNat = 8) ∧ 1 ≤ m ∧ m ≤ cfgRows cfg
          ∧ (cf = false → cmp = 0 ∧ thr = 0) ∧ cmp.toNat < 2 ^ 32 ∧ dst.toNat < 2 ^ 32
          ∧ cmp.toNat % size = 0 ∧ dst.toNat % size = 0 ∧ stride.toNat % size = 0
          ∧ dst.toNat + (m - 1) * stride.toNat + size * cols ≤ 393216
          ∧ (cf = true → cmp.toNat + (m - 1) * stride.toNat + size * cols ≤ 393216)
        let elem := fun r n => if t = .i32 then (c.tile tile.toNat r n, 0) else t.fmt.pack 0 (fmt32.decode (c.tile tile.toNat r n))
        let grid := fun {α : Type} (f : Nat → Nat → α) => (List.range m).flatMap fun r => (List.range cols).map (f r)
        let moved := cf && blockMoved thr.toNat (grid fun r n => (elem r n).1)
          (grid fun r n => c.lread (cmp.toNat + r * stride.toNat + n * size) size)
        let written := (grid fun r n => (r, n)).foldl (fun c p => c.engineWrite (dst.toNat + p.1 * stride.toNat + p.2 * size) size (elem p.1 p.2).1) c
        (¬ ok → no i)
        ∧ (ok → Works i s .mx r (if cf = true ∧ moved = false then c else written) moved
          ((grid fun r n => (elem r n).2).foldl (fun g x => g ||| x) 0) (8 + m)))
      ∧ ∀ tag tiles, (tiles = 0 → Refused (.mxZero tag tiles) s .mx r [cCmdMalformed])
        ∧ (tiles ≠ 0 → ∃ c', Works (.mxZero tag tiles) s .mx r c' false 0 1 ∧ c' = { c with tiles := c'.tiles }
          ∧ ∀ j r n, r < 32 → n < 32 → c'.tile j r n = if tiles.getLsbD j then 0 else c.tile j r n))

/-- The attention commands (R178 to R182). A descriptor, a rope list or a configuration outside its limits fails the command
with no effect. Within them `mx.qk` runs where no key lies below the first segment, and `mx.pv` runs: each completes after its
table's time, for a number of tiles kept. `mx.qk` writes local words of its scores, skip and running-maximum areas only, and no
tile; `mx.pv` writes elements of its own tiles only, and no local word. Readings and choices of the model in it: logs 7, 10, 35,
118, 120. -/
def Obligations.AttentionFrames : Prop :=
  (∀ s r, Begins s .mx r → Calm s r → r.cmd.claim = true → let c := s.core s.cur.core; let cfg := c.tileCfg r.cmd.cfg
    let no := fun i => Refused i s .mx r [cTileCfg, cCmdMalformed, cLocalBound]
    (∀ tag sf (desc : Word), let i := Instr.mxQk tag sf desc; let a := desc.toNat
      let ok := attOk c cfg a ∧ ropeOk c a
      (¬ ok → no i)
      ∧ (ok → keysPlaced c a → ∃ s1 s' flags kept, kept ≤ attTiles c a ∧ exec i s = .next s'
        ∧ Begun s s1 s' .mx r false flags none (24 + 4 * attTiles c a + (32 + attRows c a * attDim c a / 32) * kept)
        ∧ (s1.core s.cur.core).tiles = c.tiles ∧ s1.mem = s.mem ∧ s1.agenda = s.agenda))
    ∧ ∀ tag sf (tile : BitVec 3) (desc : Word), let i := Instr.mxPv tag sf tile desc; let a := desc.toNat
      let ok := cfgInt cfg = false ∧ cfgCols cfg = 32 ∧ attOk c cfg a ∧ tile.toNat + attDim c a / 32 ≤ 8
        ∧ r.cmd.fmtWord.toNat < 2 ^ 8 ∧ r.cmd.fmtRest = false
      (¬ ok → no i)
      ∧ (ok → ∃ s1 s' flags kept, kept ≤ attTiles c a ∧ exec i s = .next s'
        ∧ Begun s s1 s' .mx r false flags none (24 + attRows c a * (attDim c a / 32) * kept)
        ∧ (s1.core s.cur.core).lstore = c.lstore ∧ s1.mem = s.mem ∧ s1.agenda = s.agenda))
  ∧ ∀ s r e time, Begins s .mx r → let c := s.core s.cur.core; let c' := e.s.core s.cur.core
    (∀ desc, runsTo (workQk desc) (start s r) = (.ok time, e) →
      let f := fun i => c.lread (desc + 4 * i) 4; let m := f 9 % 32 + 1; let nt := (f 8 + 31) / 32
      c'.tiles = c.tiles ∧ e.s.mem = s.mem ∧ e.out = []
        ∧ ∀ i, (4 * i < f 5 ∨ f 5 + 4 * f 8 * m ≤ 4 * i) → (4 * i < f 6 ∨ f 6 + 4 * ((nt + 31) / 32) ≤ 4 * i) →
          (4 * i < f 12 ∨ f 12 + 4 * m ≤ 4 * i) → c'.lword i = c.lword i)
    ∧ ∀ t0 desc, runsTo (workPv t0 desc) (start s r) = (.ok time, e) →
      let f := fun i => c.lread (desc + 4 * i) 4; let h := f 9 / 2 ^ 8 % 8 + 1
      c'.lstore = c.lstore ∧ c'.fe = c.fe ∧ e.s.mem = s.mem ∧ e.out = []
        ∧ ∀ key, (key < 1024 * t0 ∨ 1024 * (t0 + h) ≤ key) → smGet c'.tiles key = smGet c.tiles key

/-- The commands of the copy engine (R251, R280 to R287). Limits that fail are CMD_MALFORMED or LOCAL_BOUND, and only an
open-mode thread may push the remote ones and `cp.ist`. Between local operands `cp.copy` moves its runs, `cp.gather` and
`cp.scatter` their elements, in ascending order, and an element beyond the local store fails them there, with the earlier ones
kept; `cp.fill` fills with its pattern, full or, with E, empty. A remote command sends its operation to the device it names, which
its partition must reach, and completes with the reply. `cp.ist` sends its units to a core of the partition, one in a cycle, where
they can be read now. `cp.frame` writes the row and the status of each position that it need not wait for, and a row of zeros where
the position has no version. Readings and choices of the model in it: logs 10, 42, 62. -/
def Obligations.CopyCommands : Prop :=
  ∀ s r, Begins s .cp r → Calm s r → let c := s.core s.cur.core; let me := s.cur.core
    let no := fun i => Refused i s .cp r [cCmdMalformed, cLocalBound]
    let reach := fun dev : Nat => dev = s.host.prov.device.toNat ∨ (s.host.prov.beacon = true ∧ dev ∈ (s.part r.cmd.part).spec.devices)
    let own := s.host.prov.device.toNat
    (∀ tag sf src dst len shape, let i := Instr.cpCopy tag sf false false src dst len shape; let x := shapeAt c shape.toNat; let n := len.toNat
      let ok := LocalOff src ∧ LocalOff dst ∧ 1 ≤ n ∧ n ≤ 2 ^ 24 ∧ n % 4 = 0 ∧ shapeOk c shape.toNat
        ∧ runsIn src.toNat n x.c1 x.c2 x.s1 x.s2 ∧ runsIn dst.toNat n x.c1 x.c2 x.d1 x.d2
      let run := fun (c : Core) (a b : Nat) => (List.range (n / 4)).foldl (fun c w => c.engineWrite (b + 4 * w) 4 (c.lread (a + 4 * w) 4)) c
      (¬ ok → no i)
      ∧ (ok → Works i s .cp r ((List.range x.c2).foldl (fun c (i2 : Nat) => (List.range x.c1).foldl (fun c (i1 : Nat) =>
          run c ((src.toNat : Int) + (i1 * x.s1 + i2 * x.s2)).toNat ((dst.toNat : Int) + (i1 * x.d1 + i2 * x.d2)).toNat) c) c) false 0
          (16 + x.c1 * x.c2 * n / 64)))
    ∧ (∀ (scatter : Bool) tag sf src dst idx n esz,
      let i := if scatter then Instr.cpScatter tag sf false false src dst idx n esz else Instr.cpGather tag sf false false src dst idx n esz
      let e := esz.toNat; let size := 2 ^ (e % 8); let bytes := e / 2 ^ 8 % 2 = 1
      let ok := LocalOff src ∧ LocalOff dst ∧ 1 ≤ n.toNat ∧ n.toNat ≤ 65536 ∧ e % 8 + e / 2 ^ 8 % 2 * 2 ^ 8 = e ∧ idx.toNat % 4 = 0
        ∧ src.toNat % size = 0 ∧ dst.toNat % size = 0 ∧ idx.toNat + (if bytes then n.toNat else 4 * n.toNat) ≤ 393216
      let step := fun (p : Core × Bool) j => if p.2 = false then p else let c := p.1
        let k := if bytes then c.lread (idx.toNat + j) 1 else c.lread (idx.toNat + 4 * j) 4
        let a := src.toNat + (if scatter then j else k) * size; let b := dst.toNat + (if scatter then k else j) * size
        if a + size ≤ 393216 ∧ b + size ≤ 393216 then (c.engineWrite b size (c.lread a size), true) else (c, false)
      let all := (List.range n.toNat).foldl step (c, true)
      (¬ ok → no i)
      ∧ (ok → all.2 = true → Works i s .cp r all.1 false 0 (16 + n.toNat * size / 64))
      ∧ (ok → all.2 = false → ∃ s1 s', exec i s = .next s' ∧ Begun s s1 s' .cp r false 0 (some cLocalBound) 0 ∧ s1.core me = all.1
        ∧ (∀ x, x ≠ me → s1.core x = s.core x) ∧ s1.mem = s.mem ∧ s1.agenda = s.agenda))
    ∧ (∀ tag ef dst len pat, let i := Instr.cpFill tag false ef dst len pat; let n := len.toNat
      let ok := LocalOff dst ∧ 4 ≤ n ∧ n ≤ 2 ^ 31 ∧ n % 4 = 0 ∧ dst.toNat + n ≤ 393216
      (¬ ok → no i)
      ∧ (ok → ∃ c', Works i s .cp r c' false 0 (16 + n / 64)
        ∧ ∀ w, (dst.toNat / 4 ≤ w ∧ w < (dst.toNat + n) / 4 → c'.lword w = pat ∧ c'.isFull w = !ef)
          ∧ (¬ (dst.toNat / 4 ≤ w ∧ w < (dst.toNat + n) / 4) → c'.lword w = c.lword w ∧ c'.isFull w = c.isFull w)))
    ∧ (∀ tag dst len pat, Refused (.cpFill tag true true dst len pat) s .cp r [cCmdMalformed])
    ∧ (∀ tag sf dev raddr laddr len, let i := Instr.cpPut tag sf false dev raddr laddr len; let n := len.toNat
      let ok := r.cmd.taskMode = false ∧ LocalOff laddr ∧ 1 ≤ n ∧ n ≤ 2 ^ 24 ∧ n % 4 = 0 ∧ laddr.toNat + n ≤ 393216
      (¬ ok → no i) ∧ (ok → ¬ reach dev.toNat → Refused i s .cp r [cPartitionViolation])
      ∧ (ok → reach dev.toNat → BegunFar i s r dev.toNat
        (.put own me r.cmd.part raddr ((List.range (n / 4)).flatMap fun w => leBytes 4 (c.lread (laddr.toNat + 4 * w) 4)))))
    ∧ (∀ tag sf ff dev raddr laddr len, let i := Instr.cpGet tag sf ff dev raddr laddr len; let n := len.toNat
      let ok := r.cmd.taskMode = false ∧ (ff = false → LocalOff laddr ∧ n % 4 = 0 ∧ laddr.toNat + n ≤ 393216) ∧ 1 ≤ n ∧ n ≤ 2 ^ 24
      (¬ ok → no i) ∧ (ok → ¬ reach dev.toNat → Refused i s .cp r [cPartitionViolation])
      ∧ (ok → reach dev.toNat → BegunFar i s r dev.toNat (.get own me r.cmd.part raddr n)))
    ∧ (∀ tag sf dev raddr op lso, let i := Instr.cpAmo tag sf dev raddr op lso; let l := lso.toNat
      let ok := r.cmd.taskMode = false ∧ raddr.toNat % 8 = 0 ∧ op.toNat ≤ 9 ∧ l % 4 = 0 ∧ l + 16 ≤ 393216
      (¬ ok → no i) ∧ (ok → ¬ reach dev.toNat → Refused i s .cp r [cPartitionViolation])
      ∧ (ok → reach dev.toNat → BegunFar i s r dev.toNat (.amo own me r.cmd.part raddr op.toNat (nat64 (c.lread l 8))
          (if op.toNat = 9 then nat64 (c.lread (l + 8) 8) else 0))))
    ∧ (∀ tag core src iso len, let i := Instr.cpIst tag core src iso len
      let ok := r.cmd.taskMode = false ∧ src.toNat % 64 = 0 ∧ iso.toNat % 64 = 0 ∧ len.toNat % 64 = 0 ∧ 64 ≤ len.toNat
        ∧ iso.toNat + len.toNat ≤ 65536
      let mine := (s.part r.cmd.part).spec.clusters.getLsbD (core.toNat / 16) = true ∧ s.isFenced core.toNat = false
      (¬ ok → no i) ∧ (ok → ¬ mine → Refused i s .cp r [cPartitionViolation])
      ∧ ∀ acc : Nat → Access, ok → mine → (∀ i, i < len.toNat / 64 → Readable s r (src + nat64 (64 * i)) 64 (acc i)) →
        ∃ s1 s', exec i s = .next s' ∧ Begun s s1 s' .cp r false 0 none (16 + len.toNat / 64 + s.readLat me (acc 0))
          ∧ s1.core me = c ∧ s1.mem = s.mem ∧ ∀ i, i < len.toNat / 64 → ∃ x ∈ s1.agenda, x.due = s.cycle + 16 + s.readLat me (acc 0) + i
            ∧ x.ev = .instructionStoreWrite core.toNat (iso.toNat / 64 + i) (BitVec.ofNat 512 (bytesSeen s r (acc i) 64)))
    ∧ ∀ tag slot layer part pos cnt stamp mode dst st, let i := Instr.cpFrame tag slot layer part pos cnt stamp mode dst st
      let ok := part ≠ 3 ∧ mode ≠ 3 ∧ 1 ≤ cnt.toNat ∧ cnt.toNat ≤ 65536 ∧ dst.toNat % 4 = 0
        ∧ (st.toNat ≠ 0xFFFFFFFF → st.toNat % 4 = 0)
      (¬ ok → Refused i s .cp r [cCmdMalformed])
      ∧ (ok → s.ctxOf r.cmd.part (smGetD c.beam slot.toNat 0).toNat = none → Refused i s .cp r [cCtxInvalid])
      ∧ ∀ die idx x (vs : Nat → List Byte × Option Nat), ok → s.ctxOf r.cmd.part (smGetD c.beam slot.toNat 0).toNat = some (die, idx, x) →
        let n := (x.rowPlace part.toNat 0).2; let stat := st.toNat ≠ 0xFFFFFFFF
        let at' := if mode = 1 then stamp.toNat else Nat.min stamp.toNat x.counter
        let room := layer.toNat ≤ x.layers ∧ dst.toNat + cnt.toNat * n ≤ 393216 ∧ (stat → st.toNat + 8 * cnt.toNat ≤ 393216)
        (¬ room → no i)
        ∧ (room → (∀ j, j < cnt.toNat → RowSeen s r x layer.toNat part.toNat (pos.toNat + j) at' mode.toNat (vs j)
            ∧ (mode = 1 → s.settledAt die idx x layer.toNat (pos.toNat + j) at' = true)) →
          ∃ s1 s' lat, exec i s = .next s' ∧ Begun s s1 s' .cp r false 0 none (16 + cnt.toNat * n / 64 + lat)
            ∧ s1.mem = s.mem ∧ s1.agenda = s.agenda ∧ (s1.core me).tiles = c.tiles
            ∧ (∀ i, ¬ (dst.toNat / 4 ≤ i ∧ i < (dst.toNat + cnt.toNat * n) / 4) →
              (stat → ¬ (st.toNat / 4 ≤ i ∧ i < st.toNat / 4 + 2 * cnt.toNat)) → (s1.core me).lword i = c.lword i)
            ∧ (n % 4 = 0 → (stat → dst.toNat + cnt.toNat * n ≤ st.toNat ∨ st.toNat + 8 * cnt.toNat ≤ dst.toNat) → ∀ j, j < cnt.toNat →
              (∀ i, i < n / 4 → ((s1.core me).lword (dst.toNat / 4 + j * (n / 4) + i)).toNat = leNat (((vs j).1.drop (4 * i)).take 4))
              ∧ (stat → ((s1.core me).lword (st.toNat / 4 + 2 * j)).toNat + 2 ^ 32 * ((s1.core me).lword (st.toNat / 4 + 2 * j + 1)).toNat
                = match (vs j).2 with | some v => v % 2 ^ 64 | none => 0x41000000 * 2 ^ 32)))

/-- From a launch to the first instruction (R76, R77, R203, R290 to R294, R300 to R303, R385). A record that is not valid is
removed and reported; one that fits takes the lowest free slots, its threads start as R77 says, and its footprint is fetched and
set full first. A launch is read, and placed after the read; a steal request is judged as it reaches its victim, with the shape that it
carries; an idle core asks its victims in turn and waits 1,024 cycles after the last refusal; a successor takes its predecessor's
slots with what its mask carries, or is reported; a detached cause starts a handler in a free slot. Commit, held effects and knots (R224, R227, R229, R307). The die's secure task commits once it has
retired: the tasks that read what it wrote abort, its speculative lines are on their way to their homes, its held effects are
released, and the next commit point is 4 cycles away. Held effects leave in order, each as what it is, while none must wait. A
walk that finds a knot of two threads delivers DEADLOCK to the one whose wait began latest, then the larger core, then the
larger slot; one that finds none changes nothing. Readings and choices of the model in it: logs 43, 44, 45, 46, 49, 50, 51, 80, 98, 103. -/
def Obligations.DispatchAndCommit : Prop :=
  (∀ (s : State) core, let c := s.core core; let part := (s.partOf core).getD 0; let at' := fun slot : Nat => ({ core, slot } : Who)
     (s.nextPick core = none → exec (.taskDispatch core) s = .next s)
     ∧ (∀ r, OnlyRecord s core r → fieldOf r 56 1 = 0 →
       (¬ ValidOne r → s.recordHeld core r = false → exec (.taskDispatch core) s
         = .next ((s.modCore core fun c => { c with deque := [] }).detach core cReservedField r.addr none))
       ∧ ∀ b, ValidOne r → fieldOf r 384 64 = 0 → s.fits core r = some b →
         ∃ s3 g, exec (.taskDispatch core) s = .next s3 ∧ OnWay s3 (.footprintFetchDone core c.nextGid) ∧ (s3.core core).deque = []
           ∧ s3.group core c.nextGid = some g ∧ g.phase = .fetch ∧ g.slots = c.freeSlots.take (fieldOf r 36 4 + 1)
           ∧ (g.taskMode = true ↔ fieldOf r 48 4 ≠ 0 ∧ fieldOf r 34 1 = 0)
           ∧ ∀ j slot, g.slots[j]? = some slot → ∃ t, s3.thread (at' slot) = some t ∧ t.run = .waiting .footprint 0 ∧ StartsAs r c.nextGid j t
             ∧ (∀ k, k < fieldOf r 40 8 → smGetD (s3.core core).gfile (t.gbase + k) 0
               = if k = 1 then nat64 j else if k = 2 then nat64 (fieldOf r 192 64) else 0)
             ∧ ∀ k, k < t.wcount → smGetD (s3.core core).wfile (t.wbase + k) 0 = 0)
     ∧ (∀ gid,
       (s.group core gid = none → exec (.footprintFetchDone core gid) s = .next s)
       ∧ ∀ g, s.group core gid = some g → g.phase = .fetch →
         (s.ranges core g.task = [] → ∃ s3 g', exec (.footprintFetchDone core gid) s = .next s3 ∧ s3.group core gid = some g' ∧ g'.phase = .running
           ∧ ∀ slot t, s.thread (at' slot) = some t → t.gid = gid → t.run = .waiting .footprint 0 →
             s3.thread (at' slot) = some { t with run := .ready })
         ∧ ∀ x (ac : Nat → Access) (l : Nat → List Byte), s.ranges core g.task = [x] → x.off % 4 = 0 →
           (∀ a ∈ s.fpLines core x, s.loadBlocked (dieOf core) a.homeDie a.line (some (core, gid)) = false) →
           (∀ i, i < x.len / 4 → s.unitRead core part (s.coreSpace core) (x.base + nat64 (4 * i)) 4 true = .ok (ac i, l i)) →
           ∃ s3 g', exec (.footprintFetchDone core gid) s = .next s3 ∧ s3.group core gid = some g' ∧ g'.phase = .running
             ∧ ∀ i, i < x.len / 4 → (s3.core core).lword (x.off / 4 + i) = BitVec.ofNat 32 (leNat (l i))
               ∧ (s3.core core).isFull (x.off / 4 + i) = true)
     ∧ (∀ addr : Dword,
       (addr.toNat % 64 ≠ 0 → exec (.launchMessage core addr) s = .next (s.detach core cReservedField addr none))
       ∧ ∀ a l, addr.toNat % 64 = 0 → s.unitRead core part 0 addr 64 false = .ok (a, l) →
         (s.readHeld (dieOf core) a none = true → exec (.launchMessage core addr) s = .next (s.after 1 (.launchMessage core addr)))
         ∧ (s.readHeld (dieOf core) a none = false →
           ∃ s3, exec (.launchMessage core addr) s = .next s3 ∧ OnWay s3 (.launchRecordPlace core (copyOf addr l))))
     ∧ (∀ r, let ex := exec (.launchRecordPlace core r) s
       (¬ detFlag r → s.isDetCore core = true → ex = .next (s.detach core cReservedField r.addr none))
       ∧ (¬ detFlag r → s.isDetCore core = false →
         (c.deque.length < 256 → ex = .next (s.modCore core fun c => { c with deque := c.deque ++ [r] }))
         ∧ (256 ≤ c.deque.length → (s.part part).spillen.toNat ≤ (s.part part).ring.length → ex = .next (s.detach core cSpillFull r.addr none)))
       ∧ ∀ k, detFlag r → FixedAt s core r k →
         ∃ s4, ex = .next s4 ∧ r ∈ (s4.core k).fixed ∧ (s4.core k).fixed.length = (s.core k).fixed.length + 1)
     ∧ (let ex := exec (.stealRequest core) s
       (c.victims = [] → ex = .next (s.modCore core fun c => { c with stealing := false }))
       ∧ ∀ v rest, c.victims = v :: rest →
         let may := s.isDetCore v = false ∧ s.isDetCore core = false ∧ s.partOf v = s.partOf core
         ((¬ may ∨ s.stealable v core c.asked = none) → ex = .next (s.after 0 (.stealReply core none)))
         ∧ ∀ r i, may → s.stealable v core c.asked = some (r, i) → (s.core v).deque.length ≠ 33 →
           ∃ s3, ex = .next s3 ∧ OnWay s3 (.stealReply core (some { r with again := false })) ∧ (s3.core v).deque = (s.core v).deque.eraseIdx i)
     ∧ (∀ r, let ex := exec (.stealReply core (some r)) s
       (s.isDetCore core = false → ∃ s3, ex = .next s3 ∧ (s3.core core).granted = some r ∧ (s3.core core).stealing = false
         ∧ (s3.core core).victims = [])
       ∧ ∀ v rest, c.victims = v :: rest → v ≠ core → s.isDetCore core = true → ¬ detFlag r → (s.core v).deque.length < 256 →
         ∃ s3, ex = .next s3 ∧ (s3.core v).deque = r :: (s.core v).deque ∧ (s3.core core).stealing = false ∧ (s3.core core).victims = [])
     ∧ (∀ v rest, c.victims = v :: rest → ∃ s3, exec (.stealReply core none) s = .next s3
       ∧ (rest ≠ [] → s.idle core = true → (s3.core core).victims = rest ∧ (s3.core core).asked = c.shape ∧ OnWay s3 (.stealRequest core))
       ∧ (rest ≠ [] → s.idle core = false → (s3.core core).victims = [] ∧ (s3.core core).stealing = false)
       ∧ (rest = [] → (s3.core core).victims = [] ∧ (s3.core core).backoff = some (s.cycle + 1024)
         ∧ { due := s.cycle + 1024, ev := .stealBackoffEnd core } ∈ s3.agenda))
     ∧ exec (.stealBackoffEnd core) s = .next (s.modCore core fun c => { c with stealing := false, backoff := none })
     ∧ (∀ gid, let ex := exec (.successorStart core gid) s
       (s.succReady core gid = false → ex = .next s)
       ∧ ∀ g r m, s.succReady core gid = true → s.group core gid = some g → g.succ = some (r, m) →
         let r' := if m.getLsbD 6 then unpinned r else r; let gone := s.recordGone g.part g.space r = true; let tiles := m.toNat / 256 ≠ 0
         fieldOf r' 56 1 = 0 →
         (gone → ex = .next (s.scrubGroup core gid))
         ∧ (¬ gone → ¬ ValidOne r' → ex = .next ((s.detach core cReservedField r.addr none).scrubGroup core gid))
         ∧ (¬ gone → ValidOne r' → tiles → r.tcfg ≠ g.cfg ∨ c.claims r = false ∨ g.claim = false →
           ex = .next ((s.detach core cSuccTileShape r.addr none).scrubGroup core gid))
         ∧ (¬ gone → ValidOne r' → ¬ tiles → c.succBerth gid g.slots r m = none →
           ex = .next ((s.detach core cSuccShape r.addr none).scrubGroup core gid))
         ∧ ∀ b, ¬ gone → ValidOne r' → ¬ tiles ∨ (r.tcfg = g.cfg ∧ c.claims r = true ∧ g.claim = true) → fieldOf r 384 64 = 0 →
           c.succBerth gid g.slots r m = some b → gid < c.nextGid → g.slots.Nodup →
           ∃ s3 g', ex = .next s3 ∧ s3.group core gid = none ∧ s3.group core c.nextGid = some g' ∧ g'.task = r
             ∧ g'.phase = (if m.toNat / 64 % 2 = 1 then .running else .fetch)
             ∧ ∀ j x, b[j]? = some x → ∃ t, s3.thread (at' x.1) = some t ∧ t.gid = c.nextGid ∧ t.num = j ∧ t.pc.toNat = 2 * fieldOf r 0 32
               ∧ (s.thread (at' x.1) = none → t.inh = m &&& 0xFF40)
               ∧ ∀ o, s.thread (at' x.1) = some o → o.gid = gid → t.kregs = (if m.toNat / 4 % 2 = 1 then o.kregs else [])
                 ∧ (∀ k, k < 16 → (t.inh.getLsbD k = true ↔ m.getLsbD k = true ∧ (k = 1 → o.wcount ≠ 0 ∧ t.wcount ≠ 0)
                   ∧ (k = 2 → o.compute = true ∧ t.compute = true)))
                 ∧ t.repMx = o.repMx ∧ t.repVx = o.repVx ∧ t.repCp = o.repCp)
     ∧ let ex := exec (.detachedCauseStart core) s
       (c.detached = [] ∨ s.detachedReady core = false → ex = .next s)
       ∧ ∀ d rest slot others, c.detached = d :: rest → c.freeSlots = slot :: others → s.detachedReady core = true →
         ∃ s3 t, ex = .next s3 ∧ (s3.core core).detached = rest ∧ s3.thread (at' slot) = some t ∧ t.level = .s ∧ t.handler = true
           ∧ t.pc.toNat = (s.part part).strap.toNat / 2 * 2 ∧ t.cause.toNat = d.cause % 128 ∧ t.tval = d.tval ∧ t.tpc = 0
           ∧ smGetD t.hregs 0 0 = nat64 d.cause ∧ smGetD t.hregs 1 0 = d.tval ∧ smGetD t.hregs 2 0 = BitVec.allOnes 64
           ∧ smGetD t.hregs 3 0 = d.record.getD 0)
  ∧ ((∀ (s : State) die, s.commitPick die = none → exec (.taskCommit die) s = .next s)
   ∧ (∀ (s : State) die core gid g, s.commitPick die = some (core, gid, g) →
     g.secure = true ∧ g.phase = .retired ∧ g.taskMode = true ∧ (s.die die).nextCommit ≤ s.cycle
     ∧ ∃ s3, exec (.taskCommit die) s = .next s3 ∧ (∀ x ∈ (s3.core core).spec, x.gid ≠ gid) ∧ (s3.die die).nextCommit = s.cycle + 4
       ∧ (s3.core core).effects.map (·.1) = (s.core core).effects.map (·.1) ++ g.held
       ∧ (∀ x ∈ (s.core core).spec, x.gid = gid → ∃ f ∈ (s3.core core).flights, f.lw = x.lw ∧ f.acc = x.acc)
       ∧ (g.succ = none → s3.group core gid = none)
       ∧ ∀ y ∈ s.dieGroups die, y.2.2.uncommitted = true → y.1 ≠ core ∨ y.2.1 ≠ gid → g.wsig ≠ 0 → sigMeet y.2.2.rsig g.wsig = true →
         s3.group y.1 y.2.1 = none)
   ∧ (∀ (s : State) core, let ex := exec (.heldEffectSend core) s
     ((s.core core).effects = [] → ex = .next s)
     ∧ ∀ e lines rest, (s.core core).effects = (e, lines) :: rest → let s0 := s.modCore core fun c => { c with effects := rest }
       (s.effectWaits core e lines = true → ex = .next s)
       ∧ (s.effectWaits core e lines = false →
         (∀ m, e = .msg m → ∃ s3, ex = .next s3 ∧ (s3.core core).effects = rest ∧ OnWay s3 (.messageArrival m))
         ∧ (∀ dev m, e = .far dev m → dev ≠ s.host.prov.device.toNat → ex = .next { s0 with beaconMsgs := s.beaconMsgs ++ [(dev, m)] })
         ∧ (∀ r, e = .push r → ¬ detFlag r → s.isDetCore core = false → (s.core core).deque.length < 256 →
           ∃ s3, ex = .next s3 ∧ (s3.core core).effects = rest ∧ (s3.core core).deque = (s.core core).deque ++ [r])
         ∧ ∀ ev, (∃ r, e = .report r ∧ ev = .dmapReport r) ∨ (∃ r, e = .edit r ∧ ev = .editApply r)
             ∨ (∃ r, e = .detOpen r ∧ ev = .roundOpenArrival r) ∨ (∃ r, e = .detAdd r ∧ ev = .roundUpdateArrival r)
             ∨ (∃ r, e = .detDone r ∧ ev = .roundDoneArrival r) →
           ∃ s3, ex = .next s3 ∧ (s3.core core).effects = rest ∧ OnWay s3 ev))
   ∧ (∀ s : State, knots s.waitTable s.waitTable.length = [] → exec .deadlockWalk s = .next s)
   ∧ ∀ (s : State) a b since1 since2 t1 t2, s.waitTable = [(.thread a, since1, [.thread b]), (.thread b, since2, [.thread a])] → a ≠ b →
     s.thread a = some t1 → s.thread b = some t2 → t1.hasRetired = false → t2.hasRetired = false →
     (since1 < since2 ∨ (since1 = since2 ∧ laterPlace a b) → exec .deadlockWalk s = .next (s.takeTrap b cDeadlock 0 t2.pc))
     ∧ (since2 < since1 ∨ (since1 = since2 ∧ laterPlace b a) → exec .deadlockWalk s = .next (s.takeTrap a cDeadlock 0 t1.pc)))

/-- Steps of a thread's accesses (R60, R72, R209, R216, R226, R235, R242, R259, R269, R327, R378). A load that returns reaches the register
file with what the thread sees of the line, or waits, or asks the home; an access through the window takes a port and answers; an
answer brings its registers; a combined line leaves after 256 cycles; a direct write stays behind the earlier ones of its line, is
performed in its turn at its home, waits there in the line's queue, or enters the die copy, and aborts the tasks that hold the
line; a reservation is revoked after 4,096 cycles; instruction-store units are written whole. Readings and choices of the model in
it: logs 11, 27, 29, 30. -/
def Obligations.AccessSteps : Prop :=
  (∀ (s : State) w r, (∀ a dst, s.waitOf w ≠ some (.load a dst)) → exec (.memoryReturn w r) s = .next s)
  ∧ (∀ (s : State) w t a dst since, s.thread w = some t → t.run = .waiting (.load a dst) since →
    let die := dieOf w.core; let commit := s.commitOnWay die a.line; let own := some (w.core, t.gid)
    let mine := s.dieValue die a.homeDie a.line; let ex := fun r => exec (.memoryReturn w r) s
    (commit = true → ex none = .next (s.after 1 (.memoryReturn w none))
      ∧ ∀ x, x.line = a.line → ex (some x) = .next (s.after 1 (.memoryReturn w (some x))))
    ∧ (commit = false → die = a.homeDie → s.homeWaits a.homeDie a.line own = true → ex none = .next (s.dirRequest (s.readReq w a)))
    ∧ (commit = false → (die = a.homeDie → s.homeWaits a.homeDie a.line own = false) → s.dieHas die a = false → ex none = .next (s.sendRead w a))
    ∧ (∀ x, x.line ≠ a.line → ex (some x) = .next s)
    ∧ ∀ r v, commit = false →
      (match r with
        | none => (die = a.homeDie → s.homeWaits a.homeDie a.line own = false) ∧ s.dieHas die a = true ∧ v = mine
        | some x => x.line = a.line ∧ v = if die = a.homeDie then (if s.ownerOf die a.line = none then s.homeValue die a.line else x.data)
          else match smGet (s.die die).copies a.line with
            | none => x.data
            | some c => overlay (if c.valid = BitVec.allOnes 128 then c.data else x.data) c.pdata c.pend) →
      (∀ d n sg, dst = .g d n sg → 1 ≤ n → ∃ s3, ex r = .next s3 ∧ s3.mem = s.mem
        ∧ Finished s3 w t [(d, extended n sg (lineNat (seenBy s w t a.line v) (a.pa % 128) n))])
      ∧ ∀ d, dst = .w d → ∃ s3, ex r = .next s3 ∧ s3.mem = s.mem
        ∧ Reached s3 w t [(.wide (t.wbase + d), BitVec.ofNat 512 (lineNat (seenBy s w t a.line v) (a.pa % 128) 64))])
  ∧ (∀ (s : State) w t since, s.thread w = some t → let ex := exec (.windowAccess w) s
    (∀ core off n d sg, t.run = .waiting (.winLoad core off n (.g d n sg)) since → 1 ≤ n →
      (s.takePort core = none → ex = .next (s.after 1 (.windowAccess w)))
      ∧ ∀ s1, s.takePort core = some s1 → ∃ s3, ex = .next s3 ∧ Answered s3 w [(d, extended n sg ((s.core core).lread off n))])
    ∧ (∀ core off n v, t.run = .waiting (.winStore core off n v) since → core ≠ w.core →
      (s.takePort core = none → ex = .next (s.after 1 (.windowAccess w)))
      ∧ ∀ s1, s.takePort core = some s1 → ∃ s3, ex = .next s3 ∧ Answered s3 w [] ∧ s3.core core = (s.core core).lwrite off n v.toNat)
    ∧ (∀ core off n v, t.run = .waiting (.outStore core off n v) since → core ≠ w.core →
      (s.takePort core = none → ex = .next (s.after 1 (.windowAccess w)))
      ∧ ∀ s1, s.takePort core = some s1 → ∃ s3, ex = .next s3 ∧ OnWay s3 (.agentAnswer w) ∧ s3.core core = (s.core core).lwrite off n v.toNat)
    ∧ (∀ op core off d v, t.run = .waiting (.sync op core off d v) since → d < 128 →
      (needs op = some (!full s core (off / 4)) → ex = .next s)
      ∧ (needs op = none ∨ needs op = some (full s core (off / 4)) → off % 4 = 0 →
        (core = w.core → ∃ s3, ex = .next s3 ∧ full s3 core (off / 4) = fillsTo op (full s core (off / 4))
          ∧ localNum s3 core off 4 = wordTo op (localNum s core off 4) v.toNat
          ∧ Finished s3 w t (if readsWord op then [(d, nat64 (localNum s core off 4))] else []))
        ∧ (core ≠ w.core → s.takePort core = none → ex = .next (s.after 1 (.windowAccess w)))
        ∧ ∀ s1, core ≠ w.core → s.takePort core = some s1 → ∃ s3, ex = .next s3
          ∧ full s3 core (off / 4) = fillsTo op (full s core (off / 4)) ∧ localNum s3 core off 4 = wordTo op (localNum s core off 4) v.toNat
          ∧ Answered s3 w (if readsWord op then [(d, nat64 (localNum s core off 4))] else [])))
    ∧ ∀ d off, t.run = .waiting (.wideSync d off) since →
      ((∃ k, k < 16 ∧ full s w.core (off / 4 + k) = false) → ex = .next s)
      ∧ ((∀ k, k < 16 → full s w.core (off / 4 + k) = true) → ∃ s3 t', ex = .next s3 ∧ s3.thread w = some t'
        ∧ t'.run = .waiting (.wideAnswer d (BitVec.ofNat 512 ((s.core w.core).lread off 64))) s.cycle
        ∧ { due := s.cycle + 1, ev := .agentAnswer w } ∈ s3.agenda))
  ∧ (∀ (s : State) w t ws, s.thread w = some t →
    (s.waitOf w = some (.answer ws) → exec (.agentAnswer w) s = .next (s.complete w ws))
    ∧ (s.waitOf w = some .report → ∃ s3, exec (.agentAnswer w) s = .next s3 ∧ Finished s3 w t [])
    ∧ (∀ d v, s.waitOf w = some (.wideAnswer d v) → ∃ s3, exec (.agentAnswer w) s = .next s3 ∧ Reached s3 w t [(.wide (t.wbase + d), v)])
    ∧ ∀ ws, s.waitOf w = some (.answer ws) → Finished (s.complete w ws) w t ws)
  ∧ (∀ (s : State) w t line, s.thread w = some t → let old := fun x : WcbLine => x.lw.line = line ∧ x.first + 256 ≤ s.cycle
    ((∀ x ∈ t.wcb, ¬ old x) → exec (.wcbDrainTimeout w line) s = .next s)
    ∧ ((∃ x ∈ t.wcb, old x) → ∃ s3 t', exec (.wcbDrainTimeout w line) s = .next s3 ∧ s3.thread w = some t'
      ∧ (∀ x, x ∈ t'.wcb ↔ x ∈ t.wcb ∧ x.lw.line ≠ line)
      ∧ ∀ x ∈ t.wcb, x.lw.line = line → ∃ f ∈ (s3.core w.core).flights, f.w = w ∧ f.lw = x.lw ∧ f.acc = x.acc))
  ∧ (∀ (s : State) d, let home := s.homeOf d.lw.line; let ev := Ev.directWrite d; let ex := exec (.directWrite d) s
    (d.src = .host ∨ d.src = .remote →
      let held := s.writeBlocked home d.lw.line none = true ∨ (smGet (s.die home).rounds d.lw.line).isSome = true
      (ItsTurn s home d.lw.line ev → ¬ held → ∃ s3, ex = .next s3 ∧ Written s s3 d.lw)
      ∧ (ItsTurn s home d.lw.line ev → (s.dirEntry home d.lw.line).busy = none → held → ∃ s3, ex = .next s3 ∧ StandsIn s s3 home d.lw.line ev
        ∧ OnWay s3 ev)
      ∧ (∀ t, (s.dirEntry home d.lw.line).busy = some t → t.agent ≠ some ev → ∃ s3, ex = .next s3 ∧ StandsIn s s3 home d.lw.line ev)
      ∧ ∀ hs, smGet (s.die home).dir d.lw.line = some { holders := hs, busy := none, queue := [] } → hs ≠ [] → ¬ held →
        ∃ s3 t, ex = .next s3 ∧ (∀ h ∈ hs, OnWay s3 (.invalidation h.1 d.lw.line)) ∧ (s3.dirEntry home d.lw.line).busy = some t
          ∧ t.agent = some ev ∧ t.acks = hs.length)
    ∧ ∀ core w f, d.src = .thread w ∨ d.src = .engine w → core = w.core → (s.core core).flights.find? (fun f => f.id == d.id) = some f →
      let own := match d.src with | .thread w => s.ownGroup w | _ => none
      (s.landsAfter core f = true → ex = .next (s.after 1 ev))
      ∧ (s.landsAfter core f = false → s.copySlice core f.acc = none → let home := f.acc.homeDie
        let held := s.writeBlocked home f.lw.line own = true ∨ (smGet (s.die home).rounds f.lw.line).isSome = true
        ItsTurn s home f.lw.line ev →
        ((s.dirEntry home f.lw.line).busy = none → held → ∃ s3, ex = .next s3 ∧ StandsIn s s3 home f.lw.line ev ∧ OnWay s3 ev)
        ∧ (¬ held → ∃ s3, ex = .next s3 ∧ Written s s3 f.lw ∧ (∀ g ∈ (s3.core core).flights, g.id ≠ d.id)
          ∧ ∀ x ∈ s.dieGroups home, x.2.2.uncommitted = true → x.2.2.secure = false → x.2.2.holds f.lw.line = true → s3.group x.1 x.2.1 = none))
      ∧ ∀ k s1, s.landsAfter core f = false → s.copySlice core f.acc = some k → d.die = dieOf core → s.copyRoom d.die k f.lw.line = some s1 →
        (s.writeBlocked d.die f.lw.line own = true → ex = .next (s.after 1 ev))
        ∧ (s.writeBlocked d.die f.lw.line own = false → ∃ s3 c, ex = .next s3 ∧ smGet (s3.die d.die).copies f.lw.line = some c
          ∧ (∀ i, i < 128 → f.lw.mask.getLsbD i = true →
            (c.pend.getLsbD i = true ∧ lineByte c.pdata i = lineByte f.lw.data i) ∨ (c.state = some .m ∧ lineByte c.data i = lineByte f.lw.data i))
          ∧ (∀ g ∈ (s3.core core).flights, g.id ≠ d.id) ∧ (smGet (s.die d.die).copies f.lw.line = none →
            c.pend = f.lw.mask ∧ ∃ r, OnWay s3 (.directoryOwnership r) ∧ r.die = d.die ∧ r.home = f.acc.homeDie ∧ r.line = f.lw.line ∧ r.own = true)))
  ∧ (∀ (s : State) word home q, s.rsvHome word = some home → smGet (s.die home).rsv word = some q → let ex := exec (.reservationRevoke word) s
    (q.holder = none → ex = .next s)
    ∧ ∀ w t, q.holder = some w → s.thread w = some t → let dropping := ∃ r ∈ q.queue, r.w = w ∧ r.op = .drop
      (s.cycle < q.since + 4096 ∨ dropping → ex = .next s)
      ∧ (q.since + 4096 ≤ s.cycle → ¬ dropping → ∃ s3, ex = .next s3 ∧ smGet (s3.die home).rsv word = some { q with holder := none }
        ∧ s3.thread w = some { t with rsv := none, next := t.next ++ [(cRsvRevoked, t.rsvVa)] }))
  ∧ (∀ (s : State) core unit data, (1024 ≤ unit → exec (.instructionStoreWrite core unit data) s = .next s)
    ∧ (unit < 1024 → ∃ s3, exec (.instructionStoreWrite core unit data) s = .next s3
      ∧ (∀ i, i < 32 → smGetD (s3.core core).ist (32 * unit + i) 0 = BitVec.ofNat 16 (data.toNat / 2 ^ (16 * i)))
      ∧ ∀ k, k / 32 ≠ unit → smGetD (s3.core core).ist k 0 = smGetD (s.core core).ist k 0))
  ∧ ∀ (s : State) core w, ∃ s3, exec (.istInvArrival core w) s = .next s3
    ∧ (∀ slot t, s3.thread { core, slot } = some t → t.ahead = []) ∧ (s.waitOf w = some .istInv → Answered s3 w [])

/-- Steps of a home directory (R240 to R246, R251, R285). A read is answered with the home's data, and with a copy where one may be
allocated; a request behind a transaction waits in its queue; one for ownership invalidates every other holder first, and is
granted with the last acknowledgement. A holder that a read is forwarded to keeps the line O or S; an invalidated die drops its
granted copy and hands its data over, while pending bytes stay; a granted die's pending bytes are its M copy; a line written back
by the die that the directory records as its owner is the home's. At an epoch's end a region's degree moves by its counts.
Accesses of other devices are performed at the home and answered: a put line by line, each in its turn, an atomic from the queue
of its word. Readings and choices of the model in it: logs 11, 29, 30, 83, 106, 124. -/
def Obligations.DirectorySteps : Prop :=
  (∀ (s : State) r, let own := r.w.bind s.ownGroup; let rd := exec (.directoryRead r) s; let ow := exec (.directoryOwnership r) s
    (∀ t, (s.dirEntry r.home r.line).busy = some t →
      (t.agent ≠ some (.directoryRead { r with own := false }) → ∃ s3, rd = .next s3 ∧ StandsIn s s3 r.home r.line (.directoryRead { r with own := false }))
      ∧ (t.agent ≠ some (.directoryOwnership { r with own := true }) →
        ∃ s3, ow = .next s3 ∧ StandsIn s s3 r.home r.line (.directoryOwnership { r with own := true })))
    ∧ (Lone s r.home r.line → NoWriteBack s r.die r.line → smGet (s.die r.home).rounds r.line = none →
      (s.readBlocked r.home r.line own = false → ∀ w, r.w = some w →
        (r.slice = none → ∃ s3, rd = .next s3 ∧ s3.mem = s.mem
          ∧ OnWay s3 (.memoryReturn w (some { line := r.line, data := memLine s.mem r.line, grant := none })))
        ∧ ∀ k, r.slice = some k → r.die ≠ r.home → r.norep = false → (s.die r.die).copies = [] →
          0 < (smGetD s.regions (r.line / 512) Region.fresh).effective r.policy → s.snoopRoom r.home r.line = true →
          let g : Moesi := if r.policy = 2 then .s else .e
          ∃ s3 c, rd = .next s3 ∧ OnWay s3 (.memoryReturn w (some { line := r.line, data := memLine s.mem r.line, grant := some g }))
            ∧ smGet (s3.die r.die).copies r.line = some c ∧ c.state = some g ∧ c.data = memLine s.mem r.line
            ∧ (s3.dirEntry r.home r.line).holders = [(r.die, g)])
      ∧ (r.die ≠ r.home → s.writeBlocked r.home r.line own = false → s.snoopRoom r.home r.line = true →
        ∃ s3 t, ow = .next s3 ∧ OnWay s3 (.ownershipGrant r.die r.line)
          ∧ (s3.dirEntry r.home r.line).busy = some t ∧ t.req.die = r.die ∧ t.req.own = true))
    ∧ ∀ hs, smGet (s.die r.home).dir r.line = some { holders := hs, busy := none, queue := [] } → NoWriteBack s r.die r.line →
      (r.die ≠ r.home → smGet (s.die r.home).rounds r.line = none → s.writeBlocked r.home r.line own = false → s.snoopRoom r.home r.line = true →
        (∃ h ∈ hs, h.1 ≠ r.die) → ∃ s3 t, ow = .next s3 ∧ (∀ h ∈ hs, h.1 ≠ r.die → OnWay s3 (.invalidation h.1 r.line))
          ∧ (s3.dirEntry r.home r.line).busy = some t ∧ t.req.die = r.die ∧ t.req.own = true)
      ∧ (r.die = r.home → let more := (hs.filter fun h => h.2 == .s).drop (smGetD s.regions (r.line / 512) Region.fresh).degree
        more ≠ [] → ∃ s3 t, ow = .next s3 ∧ (∀ h ∈ more, OnWay s3 (.invalidation h.1 r.line))
          ∧ (s3.dirEntry r.home r.line).busy = some t ∧ t.back = true ∧ t.acks = more.length))
  ∧ (∀ (s : State) die line, let home := s.homeOf line; let e := s.dirEntry home line
    (e.busy = none → exec (.forwardRequest die line) s = .next s ∧ exec (.invalidation die line) s = .next s
      ∧ exec (.ownershipGrant die line) s = .next s)
    ∧ ∀ t, e.busy = some t → NoWriteBack s die line →
      (∀ c w, smGet (s.die die).copies line = some c → c.valid ≠ 0 → t.req.slice = none → t.req.w = some w → t.req.home = home →
        t.req.line = line → ∃ s3 c', exec (.forwardRequest die line) s = .next s3 ∧ smGet (s3.die die).copies line = some c'
          ∧ c'.state = c.state.map shared ∧ OnWay s3 (.memoryReturn w (some { line, data := s.homeValue home line, grant := none }))
          ∧ (s3.dirEntry home line).busy = none)
      ∧ (let stale := t.acks = 0 ∨ (t.agent = none ∧ t.back = false ∧ t.req.die = die); let ex := exec (.invalidation die line) s
        let granted := ∃ c, smGet (s.die die).copies line = some c ∧ c.valid ≠ 0
        (stale → ex = .next s)
        ∧ (¬ stale → granted → s.writeBlocked die line none = true → ex = .next (s.after 1 (.invalidation die line)))
        ∧ (¬ stale → (granted → s.writeBlocked die line none = false) → ∃ s3, ex = .next s3
          ∧ (¬ granted → s3.mem = s.mem)
          ∧ (∀ c, smGet (s.die die).copies line = some c → c.valid ≠ 0 →
            (c.pend = 0 → smGet (s3.die die).copies line = none)
            ∧ (c.pend ≠ 0 → smGet (s3.die die).copies line = some { c with state := none, valid := 0 })
            ∧ (c.state = some .m ∨ c.state = some .o → Written s s3 { line, data := c.data, mask := c.valid })
            ∧ ∀ x ∈ s.dieGroups die, x.2.2.uncommitted = true → x.2.2.secure = false → x.2.2.holds line = true → s3.group x.1 x.2.1 = none)
          ∧ (∀ h ∈ (s3.dirEntry home line).holders, h.1 ≠ die)
          ∧ (∃ t', (s3.dirEntry home line).busy = some t' ∧ t'.acks = t.acks - 1 ∧ t'.req = t.req ∧ t'.agent = t.agent ∧ t'.back = t.back)
          ∧ (t.acks = 1 → OnWay s3 (if t.back then .ownershipGrant home line else t.agent.getD (.ownershipGrant t.req.die line)))))
      ∧ (let ex := exec (.ownershipGrant die line) s; let mine := t.acks = 0 ∧ t.agent = none ∧ t.req.die = die
        (¬ mine → ex = .next s)
        ∧ (mine → t.back = true → ∃ s3, ex = .next s3 ∧ (s3.dirEntry home line).busy = none ∧ s3.mem = s.mem)
        ∧ ∀ c, mine → t.back = false → smGet (s.die die).copies line = some c →
          ∃ s3 c', ex = .next s3 ∧ smGet (s3.die die).copies line = some c' ∧ c'.state = some .m ∧ c'.pend = 0
            ∧ c'.valid = BitVec.allOnes 128 ∧ c'.data = overlay (if c.valid = 0 then s.homeValue home line else c.data) c.pdata c.pend
            ∧ (s3.dirEntry home line).holders = [(die, .m)] ∧ (s3.dirEntry home line).busy = none))
  ∧ (∀ (s : State) die lw, let home := s.homeOf lw.line; let hs := (s.dirEntry home lw.line).holders
    let written := ∃ h ∈ hs, h.1 = die ∧ (h.2 = .m ∨ h.2 = .o)
    ∃ s3, exec (.writeBack die lw) s = .next s3 ∧ (written → Written s s3 lw) ∧ (¬ written → s3.mem = s.mem)
      ∧ (s3.dirEntry home lw.line).holders = hs.filter (fun h => h.1 != die))
  ∧ (∀ (s : State) die, ∃ s3, exec (.replicationEpochEnd die) s = .next s3 ∧ (s3.die die).epoch = (s.die die).epoch + 1
    ∧ ∀ k g, smGet s.regions k = some g → s.homeOf (k * 512) = die → g.pol = 0 ∨ g.pol = 3 → g.degree ∈ [0, 1, 2, 4, 7] →
      smGet s3.regions k = some { g with r := 0, w := 0, c := 0, degree :=
        if g.r / 16 < g.c ∨ g.r < g.w then stepDown g.degree
        else if 64 ≤ g.r ∧ g.c ≤ g.r / 64 then stepUp g.degree else g.degree })
  ∧ ∀ (s : State) dev core part raddr,
    (∀ l, let op := RemoteOp.put dev core part raddr l; let ex := exec (.remoteAccess op) s; let n := 128 - raddr.toNat % 128
      (s.exportLines part raddr 0 l [] = none → ∃ s3, ex = .next s3 ∧ SentTo s s3 dev (.reply core false []))
      ∧ ∀ a lw more, s.exportLines part raddr 0 l [] = some ((a, lw) :: more) → a.line = lw.line → ItsTurn s a.homeDie lw.line (.remoteAccess op) →
        let held := s.writeBlocked a.homeDie lw.line none = true ∨ (smGet (s.die a.homeDie).rounds lw.line).isSome = true
        ((s.dirEntry a.homeDie lw.line).busy = none → held →
          ∃ s3, ex = .next s3 ∧ StandsIn s s3 a.homeDie lw.line (.remoteAccess op) ∧ OnWay s3 (.remoteAccess op))
        ∧ (¬ held → ∃ s3, ex = .next s3 ∧ Written s s3 lw ∧ (l.length ≤ n → SentTo s s3 dev (.reply core true []))
          ∧ (n < l.length → OnWay s3 (.remoteAccess (.put dev core part (raddr + nat64 n) (l.drop n))))))
    ∧ (∀ len, let op := RemoteOp.get dev core part raddr len; let ex := exec (.remoteAccess op) s
      (s.exportBytes part raddr len = none → ∃ s3, ex = .next s3 ∧ SentTo s s3 dev (.reply core false []))
      ∧ ∀ l, s.exportBytes part raddr len = some l →
        ((∃ x ∈ l, s.homeReadWaits x.1.homeDie x.1.line = true) → ex = .next (s.after 1 (.remoteAccess op)))
        ∧ ((∀ x ∈ l, s.homeReadWaits x.1.homeDie x.1.line = false) →
          ∃ s3, ex = .next s3 ∧ SentTo s s3 dev (.reply core true (l.map (·.2))) ∧ s3.mem = s.mem))
    ∧ (∀ k op b x y, [RsvOp.add, .and, .or, .xor, .min, .max, .minZ, .maxZ, .swp, .cas][k]? = some op →
      s.exportXlate part raddr 8 true = some y → ∃ s3 r, exec (.remoteAccess (.amo dev core part raddr k b x)) s = .next s3
        ∧ Queued s3 y r ∧ r.far = some (dev, core) ∧ r.op = op ∧ r.b = b ∧ r.x = x ∧ s3.mem = s.mem)
    ∧ (∀ word home r rest i d a b f, s.rsvHome word = some home →
      (smGetD (s.die home).rsv word RsvQueue.empty).queue = r :: rest → s.rsvReady home word = true → r.far = some (dev, core) →
      ItsTurn s home r.acc.line (.reservationGrant word) → Unheld s r.acc.line → atomicOf i = some (r.op, d, a, b, f) →
      let m := homeWord s word
      ∃ s3, exec (.reservationGrant word) s = .next s3 ∧ SentTo s s3 dev (.reply core true (leBytes 8 m.toNat))
        ∧ s3.mem = if r.op = .cas ∧ m ≠ r.x then s.mem else memPutLine s.mem (lineWriteOf word 8 (f m r.b r.x).toNat))
    ∧ ∀ ok l, (∀ r, (s.core core).cp.exec = some r → r.begun = false ∨ r.remote = false) →
      exec (.remoteAccess (.reply core ok l)) s = .next s

/-- Steps of the walkers, and of a removal of translations (R370, R377, R397, R406). A miss starts a walk, one that needs
another entry reads on; a walk that ends gives its page to the thread, which issues again, or its fault; a poisoned entry raises
its cause. A removal takes the entries that cover the page out of each TLB, and is acknowledged once nothing that used them is
under way. Readings and choices of the model in it: logs 23, 68, 97. -/
def Obligations.WalkSteps : Prop :=
  (∀ (s : State) die, s.missing die = [] → (s.die die).nextWalk = none → exec (.pageWalk die) s = .next s)
  ∧ (∀ (s : State) die w t space va store since x', s.missing die = [(w, t)] → t.run = .waiting (.retry (.walk space va store)) since →
    (s.die die).walkQ = [] → (s.die die).walkers = [] → s.walkStart die (Walk.new t.part space va [w]) = .more x' →
    ∃ s3, exec (.pageWalk die) s = .next s3 ∧ smGet (s3.die die).walkers 0 = some x' ∧ OnWay s3 (.walkReadReturn die 0))
  ∧ (∀ (s : State) die k, smGet (s.die die).walkers k = none → exec (.walkReadReturn die k) s = .next s)
  ∧ (∀ (s : State) die k x pa ilv w t space va store since, smGet (s.die die).walkers k = some x → x.started = true →
    whereIs x.readAddr = .stored pa ilv → x.who = [w] → s.thread w = some t → t.run = .waiting (.retry (.walk space va store)) since →
    x.serves t.part space va = true → let free := s.modDie die fun d => { d with walkers := smDel d.walkers k }
    let ex := exec (.walkReadReturn die k) s
    (∀ cause, smGet s.poison (pa / 128) = some cause → ex = .next (free.takeTrap w cause va t.pc))
    ∧ ∀ r fill, smGet s.poison (pa / 128) = none →
      walkTake (s.die die).s2 (s.part x.part).spec.s2root.toNat x (nat64 (leNat (memBytes s.mem pa 8))) = (r, fill) →
      (∀ x', r = .more x' → ∃ s3, ex = .next s3 ∧ smGet (s3.die die).walkers k = some x' ∧ OnWay s3 (.walkReadReturn die k))
      ∧ (∀ e, r = .done e → ∃ s3 t', ex = .next s3 ∧ smGet (s3.die die).walkers k = none ∧ e ∈ (s3.core w.core).tlb
        ∧ e ∈ (s3.cluster (clusterOf w.core)).tlb ∧ s3.thread w = some t' ∧ t'.run = .ready ∧ t'.pc = t.pc)
      ∧ (r = .fault1 → fill = none → ∃ s4 : State, ex = .next (s4.takeTrap w (if store then cPageFaultStore else cPageFaultLoad) va t.pc)
        ∧ smGet (s4.die die).walkers k = none ∧ s4.thread w = some t ∧ s4.mem = s.mem))
  ∧ ∀ (s : State) m, let ex := exec (.tlbInvArrival m) s
    let gone := fun e : TlbEntry => e.part = m.part ∧ (∀ sp, m.space = some sp → e.space = sp) ∧ ∀ a, m.va = some a → e.page = a.toNat / 2 ^ e.bits
    let acked := fun s3 : State => ∃ m', OnWay s3 (.tlbInvArrival m') ∧ m'.level = 3 ∧ m'.w = m.w
    (m.level = 0 → m.done = none → ∃ s3, ex = .next s3 ∧ (∀ e, e ∈ (s3.core m.target).tlb ↔ e ∈ (s.core m.target).tlb ∧ ¬ gone e)
      ∧ ((s.core m.target).threads = [] → (s.core m.target).flights = [] →
        (s.core m.target).mx.exec = none → (s.core m.target).vx.exec = none → (s.core m.target).cp.exec = none → acked s3))
    ∧ (m.level = 0 → m.done ≠ none →
      (invPending m (s.core m.target) = true → ex = .next (s.after 1 (.tlbInvArrival m)))
      ∧ (invPending m (s.core m.target) = false → ∃ s3, ex = .next s3 ∧ acked s3))
    ∧ (m.level = 1 → ∃ s3, ex = .next s3 ∧ acked s3 ∧ ∀ e, e ∈ (s3.cluster m.target).tlb ↔ e ∈ (s.cluster m.target).tlb ∧ ¬ gone e)
    ∧ (m.level = 2 → ∃ s3, ex = .next s3 ∧ acked s3 ∧ (m.space = none → ∀ e ∈ (s3.die m.target).s2, e.part ≠ m.part))
    ∧ ∀ n l t, 3 ≤ m.level → s.waitOf m.w = some (.tlbInv n l) → s.thread m.w = some t →
      ∃ s3, ex = .next s3 ∧ s3.thread m.w = some { t with run := .waiting (.tlbInv (n - 1) l) s.cycle }

/-- Steps of the host link and of the hypervisor (R252, R289, R372, R386, R392, R394, R395). With nothing posted before it, a
write to a message window of a live partition becomes a message, and one that R289 turns away leaves an entry in the keeper's
log, or a PARTITION_VIOLATION at H; a host store goes to the homes of its lines, and later ones stay posted until it is performed there;
a read behind posted writes waits, and gets the home's bytes. An event is recorded, a call of function 0 answered with the version; a
pre-empted task returns to the head of its deque; a thread stopped at H resumes or ends, and a fault-pending record is cleared or dropped.
Readings and choices of the model in it: logs 72, 75, 76, 78, 79, 81. -/
def Obligations.HostSteps : Prop :=
  (∀ (s : State) part len data, s.host.posted = [] → s.outWriting .host 0 = false → let ex := exec (.hostWindowWrite part len data) s
    let f := fun lo n : Nat => data.toNat / 2 ^ lo % 2 ^ n
    let core := f 0 11; let count := f 20 3; let live := (s.part part).live = true ∧ len = 64
    let clean := f 11 5 = 0 ∧ f 23 41 = 0 ∧ f 320 192 = 0 ∧ 1 ≤ count ∧ count ≤ 4
    let logged := s.klog 0 kDropped 0 part 0 core (nat64 (f 0 64)) (nat64 (2 ^ 52))
    (¬ live → ex = .next logged)
    ∧ (live → s.member part core = false → ex = .next (logged.sendEvent { core, slot := 0 } part cPartitionViolation (nat64 (f 0 64)) 0))
    ∧ (live → s.member part core = true → ¬ clean → ex = .next logged)
    ∧ (live → s.member part core = true → clean → ∃ s3 m, ex = .next s3 ∧ OnWay s3 (.messageArrival m) ∧ m.dst = core ∧ m.cls = f 16 4
      ∧ m.words = (List.range count).map (fun i => nat64 (f (64 + 64 * i) 64)) ∧ s3.mem = s.mem
      ∧ ((s.part part).off = true → OnWay s3 (.partitionWake part))))
  ∧ (∀ (s : State) part addr bytes, s.host.posted = [] → let ex := exec (.hostWrite part addr bytes) s
    (s.outWriting .host 0 = true → ∃ s3 x, ex = .next s3 ∧ s3 = { s with host := s3.host } ∧ s3.host.posted = [x] ∧ x.part = part ∧ x.addr = addr
      ∧ x.bytes = bytes)
    ∧ (s.outWriting .host 0 = false → s.hostReach part addr bytes.length = false → ex = .next (s.klog 0 kDropped 0 part 0 0 0 (nat64 addr)))
    ∧ ∀ l, s.outWriting .host 0 = false → s.hostReach part addr bytes.length = true → hostLines addr bytes = some l →
      (part = mgmt → s.host.start = true → ex = .next s)
      ∧ (part ≠ mgmt ∨ s.host.start = false → ∃ s3, ex = .next s3 ∧ s3.host.posted = [] ∧ s3.mem = s.mem
        ∧ ∀ w ∈ l, OnWay s3 (.directWrite { src := .host, die := s.homeOf w.line, id := 0, lw := w })))
  ∧ (∀ (s : State) part addr len, let ex := exec (.hostRead part addr len) s
    let answers := fun x : Option (List Byte) => ∃ s3, ex = .next s3 ∧ s3.host.reads = s.host.reads ++ [x] ∧ s3.mem = s.mem
    (s.host.posted ≠ [] ∨ s.outWriting .host 0 = true → ex = .next (s.after 1 (.hostRead part addr len)))
    ∧ (s.host.posted = [] → s.outWriting .host 0 = false →
      (2 ^ 52 ≤ addr → part < 128 → (s.part part).live = true → addr + len ≤ 2 ^ 52 + 4096 → answers (some (List.replicate len 0)))
      ∧ (part = 128 → addr = 2 ^ 52 + 0x100 → len = 4 → answers (some (leBytes 4 s.host.tolerance.toNat)))
      ∧ (addr < 2 ^ 52 → s.hostReach part addr len = false → answers none)
      ∧ (addr + len ≤ 2 ^ 39 → (∀ i, i < len → (addr + i) % 2 ^ 36 < 64000000000 ∧ Lone s ((addr + i) / 2 ^ 36) ((addr + i) / 128)
          ∧ s.readBlocked ((addr + i) / 2 ^ 36) ((addr + i) / 128) none = false
          ∧ smGet (s.die ((addr + i) / 2 ^ 36)).rounds ((addr + i) / 128) = none ∧ smGet s.poison ((addr + i) / 128) = none) →
        s.hostReach part addr len = true → answers (some (memBytes s.mem addr len)))))
  ∧ (∀ (s : State) e, let rec' := fun s3 : State => s3.host.events = if e.args.length ≤ 4 then s.host.events ++ [e] else s.host.events
    (e.cause ≠ cHcall → ∃ s3, exec (.hypervisorEvent e) s = .next s3 ∧ rec' s3 ∧ s3 = { s with host := s3.host })
    ∧ (e.cause = cHcall → let w : Who := { core := e.word.toNat / 2 ^ 8 % 2 ^ 16, slot := e.word.toNat % 2 ^ 8 }
      (e.n = 0 → ∃ s3, exec (.hypervisorEvent e) s = .next s3 ∧ rec' s3 ∧ OnWay s3 (.hcallReply w 0 Config.hypervisorVersion))
      ∧ (5 ≤ e.n → ∃ s3 v, exec (.hypervisorEvent e) s = .next s3 ∧ rec' s3 ∧ OnWay s3 (.hcallReply w 1 v))))
  ∧ (∀ (s : State) w t, s.thread w = some t → let ex := exec (.hypervisorPreempt w) s
    (s.taskOf w t = none → ex = .next s)
    ∧ ∀ g, s.taskOf w t = some g →
      (g.secure = true ∨ g.uncommitted = false → ex = .next s)
      ∧ (g.secure = false → g.uncommitted = true → g.task.isDet = false → (s.core w.core).deque.length < 256 → ∃ s3, ex = .next s3 ∧ s3.group w.core t.gid = none
        ∧ (s3.core w.core).deque = { g.task with faulted := false, again := true } :: (s.core w.core).deque))
  ∧ ∀ (s : State) w, let ex := fun a => exec (.hypervisorResume w a) s
    (∀ t, s.thread w = some t → t.run ≠ .trapped → ex .resume = .next s ∧ ex .finish = .next s)
    ∧ (∀ t, s.thread w = some t → t.run = .trapped →
      (∃ s3 t', ex .resume = .next s3 ∧ s3.thread w = some t' ∧ t'.run = .ready ∧ t'.pc = t.pc)
      ∧ (s.group w.core t.gid = none → ∃ s3, ex .finish = .next s3 ∧ s3.thread w = none))
    ∧ (∀ a, ∃ s3, ex (.clearMark a) = .next s3 ∧ (s3.core w.core).deque
      = (s.core w.core).deque.map fun r => if r.addr = a then { r with faulted := false } else r)
    ∧ ∀ a, let marked := fun r : RecCopy => r.addr = a ∧ r.faulted = true; let q := (s.core w.core).deque
      ((∀ r ∈ q, ¬ marked r) → ∃ s3, ex (.dropRecord a) = .next s3 ∧ (s3.core w.core).deque = q)
      ∧ ∀ l1 r l2, q = l1 ++ r :: l2 → marked r → (∀ x ∈ l1, ¬ marked x) → q.length ≠ 33 →
        ∃ s3, ex (.dropRecord a) = .next s3 ∧ (s3.core w.core).deque = l1 ++ l2

/-- Reset, boot and partitions (R360 to R365, R397 to R399). Reset derives the key and waits for the host, or stops at step 1; a
loss of power clears everything and resets; the start write verifies the images, scrubs all but the staging region and the
second tier, and starts the hypervisor on the lantern cores, or stops at step 3 or 4; the release scrubs the staging region. A partition whose image
verifies starts at its entry on its first usable core, with the image in the instruction stores; the end of a partition, or its
power going off, empties its cores. Whether a key or an image is good is a free value of the model. Readings and choices of the
model in it: logs 21, 22, 85, 86, 87, 88, 89, 92. -/
def Obligations.BootSteps : Prop :=
  (∀ s : State, ∃ s3, exec .deviceReset s = .next s3 ∧ s3.mem = s.mem ∧ s3.cores = [] ∧ s3.parts = [] ∧ s3.host.start = false
    ∧ (∀ d, (s3.die d).klog = (s.die d).klog ∧ (s3.die d).dir = [] ∧ (s3.die d).copies = [])
    ∧ ((s3.host.boot = .waiting ∧ s3.host.status = 0) ∨ (s3.host.boot = .stopped ∧ s3.host.status = 1)))
  ∧ (∀ s : State, ∃ s3, exec .powerLoss s = .next s3 ∧ s3.mem = [] ∧ s3.cores = [] ∧ s3.parts = [] ∧ (∀ d, (s3.die d).klog = [])
    ∧ { due := s.cycle, ev := .deviceReset } ∈ s3.agenda)
  ∧ (∀ (s : State) p, let ex := exec (.bootStartWrite p) s
    let low := s.mem.filter fun c => decide (c.1 < 2 ^ 28)
    (s.host.boot ≠ .waiting → ∃ s3, ex = .next s3 ∧ s3 = { s with host := s3.host } ∧ s3.host = { s.host with start := true })
    ∧ (s.host.boot = .waiting → ∃ s3, ex = .next s3 ∧ s3.host.start = true
      ∧ (Config.imageVerifies 1 low = false → s3.host.boot = .stopped ∧ s3.host.status = 3 ∧ s3.mem = s.mem)
      ∧ (Config.imageVerifies 1 low = true → Config.imageVerifies 2 low = false → s3.host.boot = .stopped ∧ s3.host.status = 4 ∧ s3.mem = s.mem)
      ∧ (Config.imageVerifies 1 low = true → Config.imageVerifies 2 low = true → s3.host.boot = .running ∧ s3.host.prov = p
        ∧ (∀ c, isLantern c = false → s3.core c = Core.fresh true)
        ∧ (∀ c, 2048 ≤ c → c < 2056 → ∃ t, s3.thread { core := c, slot := 0 } = some t ∧ t.level = .h ∧ t.pc = Config.hypervisorEntry ∧ t.run = .ready)
        ∧ ∀ a, memGet s3.mem a = if a < 2 ^ 28 ∨ 2 ^ 39 ≤ a then memGet s.mem a else 0)))
  ∧ (∀ s : State, ∃ s3, exec .stagingReleaseWrite s = .next s3 ∧ s3.host = { s.host with start := false }
    ∧ ∀ a, memGet s3.mem a = if a < 2 ^ 28 then 0 else memGet s.mem a)
  ∧ (∀ (s : State) p, (s.mayCreate p = false → exec (.partitionStart p) s = .next s)
    ∧ let l := memBytes s.mem p.imgBase p.imgLen; let h := imageHeader (l.take 64)
      (s.mayCreate p = true → 64 ≤ p.imgLen → p.imgBase + p.imgLen ≤ 2 ^ 28 → h.valid p.imgLen = true →
        s.imageMapped p.s2root.toNat h.span = true → ∃ s3, exec (.partitionStart p) s = .next s3
          ∧ let ok := Config.imageVerifies 3 (s.mem.filter fun c => decide (p.imgBase ≤ c.1) && decide (c.1 < p.imgBase + p.imgLen))
            (ok = false → s3 = s)
            ∧ (ok = true → (s3.part p.part).live = true ∧ (s3.part p.part).spec = p
              ∧ ∀ c rest, (PartSpec.cores p).filter s.startable = c :: rest →
                (∃ t, s3.thread { core := c, slot := 0 } = some t ∧ t.pc = h.entry ∧ t.level = .s ∧ t.handler = false ∧ t.run = .ready
                  ∧ regValue s3 { core := c, slot := 0 } t 2 = nat64 h.span)
                ∧ ∀ k, 2 * k + 1 < h.tlen → smGetD (s3.core c).ist k 0 = BitVec.ofNat 16 (leNat ((l.drop (h.toff + 2 * k)).take 2)))))
  ∧ (∀ (s : State) part, let p := (s.part part).spec
    let empty := fun (s3 : State) => ∀ c, c < 2048 → p.clusters.getLsbD (c / 16) = true → s3.core c = Core.fresh true
    let first := (PartSpec.cores p).headD 0
    ((s.part part).live = false → exec (.partitionEnd part) s = .next s)
    ∧ ((s.part part).live = true → ∃ s3, exec (.partitionEnd part) s = .next s3 ∧ (s3.part part).live = false ∧ empty s3)
    ∧ ((s.part part).live = false ∨ (s.part part).off = true → exec (.partitionPowerOff part) s = .next s)
    ∧ ((s.part part).live = true → (s.part part).off = false →
      ∃ s3, exec (.partitionPowerOff part) s = .next s3 ∧ (s3.part part).off = true ∧ (s3.part part).live = true ∧ empty s3)
    ∧ ((s.part part).off = false → exec (.partitionWake part) s = .next s)
    ∧ ((s.part part).off = true → p.part = part → ∃ s3, exec (.partitionWake part) s = .next s3
      ∧ (s.imageOk p = false → s3 = s)
      ∧ (s.imageOk p = true → (s3.part part).live = true ∧ (s3.part part).off = false ∧ (s3.part part).spec = p
        ∧ (s3.die (dieOf first)).klogHead = ((s.die (dieOf first)).klogHead + 1) % 4096)))

/-- Writes to control registers (R4, R366, R399). A core entry of a member takes space, rot and repl, a space entry its quota,
root and valid bit, and clearing valid releases the space's pins; detp and detset take their bits once no fixed list holds a
record, and a reduction entry once the die has no round; xsteal, spill, spillen and strap take their bits, and other offsets
ignore writes. Readings and choices of the model in it: logs 73, 74. -/
def Obligations.ControlWrites : Prop :=
  ∀ (s : State) part (v : Dword), let f := fun lo n : Nat => v.toNat / 2 ^ lo % 2 ^ n
    (∀ core, let ex := exec (.partitionCoreEntryWrite part core v) s
      (s.member part core = false → ex = .next s)
      ∧ (s.member part core = true → ∃ s3, ex = .next s3 ∧ ((s3.part part).coreEnt core).space = f 0 12
        ∧ ((s3.part part).coreEnt core).rot = f 16 7 ∧ ((s3.part part).coreEnt core).repl = f 24 2
        ∧ ((s.die (dieOf core)).copies = [] → ((s3.part part).coreEnt core).shown = f 24 2)
        ∧ ∀ c, c ≠ core → (s3.part part).coreEnt c = (s.part part).coreEnt c))
    ∧ (∀ space, ∃ s3, exec (.spaceEntryWrite part space v) s = .next s3
      ∧ smGet (s3.part part).spaces space = some { quota := f 52 12, root := f 12 40 * 4096, valid := v.getLsbD 0 }
      ∧ (∀ k, k ≠ space → smGet (s3.part part).spaces k = smGet (s.part part).spaces k)
      ∧ (v.getLsbD 0 = false → smGet (s3.part part).pins space = none)
      ∧ (v.getLsbD 0 = true → (s3.part part).pins = (s.part part).pins))
    ∧ (∀ idx,
      (s.fixedHeld part = true → exec (.detsetWrite part idx v) s
        = .next (s.modPart part fun p => { p with detPend := p.detPend ++ [(idx, v)] }))
      ∧ (s.fixedHeld part = false → (s.part part).detPend = [] → ∃ s3, exec (.detsetWrite part idx v) s = .next s3 ∧ (s3.part part).detPend = []
        ∧ (idx = 32 → (s3.part part).detp = v.getLsbD 0 ∧ (s3.part part).detset = (s.part part).detset)
        ∧ (idx < 32 → (s3.part part).detp = (s.part part).detp ∧ ∀ c, c < 2048 → (s3.part part).detset.getLsbD c
          = if c / 64 = idx then v.getLsbD (c % 64) && s.member part c && !s.isFenced c else (s.part part).detset.getLsbD c)))
    ∧ (∀ core, let ex := exec (.reductionEntryWrite part core v) s
      (s.member part core = false → ex = .next s)
      ∧ (s.member part core = true → (s.part part).redPend = [] →
        ((s.redTree (dieOf core) part).sent = [] → ∃ s3, ex = .next s3 ∧ (s3.part part).redPend = []
          ∧ smGet (s3.part part).redEnts core = some { root := v.getLsbD 17, part := v.getLsbD 16, parent := f 0 8 })
        ∧ ((s.redTree (dieOf core) part).sent ≠ [] → ∃ s3, ex = .next s3 ∧ (s3.part part).redPend = [(core, v)]
          ∧ (s3.part part).redEnts = (s.part part).redEnts)))
    ∧ (∀ off, let ex := exec (.registerWrite part off v) s
      (part < 128 → ∃ s3, ex = .next s3 ∧ s3.part part = { s.part part with
        xsteal := if off = 0x20 then v.getLsbD 0 else (s.part part).xsteal,
        spill := if off = 0x28 then v &&& ~~~ 63 else (s.part part).spill,
        spillen := if off = 0x30 then v.truncate 32 else (s.part part).spillen,
        strap := if off = 0x38 then v.truncate 16 else (s.part part).strap })
      ∧ (∀ k, 128 ≤ part → part < 136 → off = 0x1000 + 16 * k → k < 256 → ∃ s3, ex = .next s3 ∧ smGet (s3.die (part - 128)).qaddr k = some v)
      ∧ (136 ≤ part → ex = .next s))
    ∧ ∀ x : Word, exec (.powerToleranceWrite x) s = .next { s with host := { s.host with tolerance := x } }

/-- Power and errors (R306, R396 to R399). A core that rests is gated and wakes again, a die whose cores are all gated enters
retention and wakes, each with an entry in the keeper's log, and none before its conditions hold; refresh, scrubs and samples
change nothing; an uncorrectable error is retried once; a transient one is only logged, a lasting one poisons the stored unit,
excludes the core, loses the link and ends the partitions that span it, or fails the walk, and is raised against the thread that
reads, else at H. Readings and choices of the model in it: logs 84, 90, 91, 93, 95, 96, 97. -/
def Obligations.PowerAndErrors : Prop :=
  (∀ (s : State) core, let d := dieOf core; let logged := fun s3 : State => (s3.die d).klogHead = ((s.die d).klogHead + 1) % 4096
    (s.gateDue core = false → exec (.coreClockGate core) s = .next s)
    ∧ (s.gateDue core = true → (s.core core).resting = true ∧ 2 ≤ s.host.tolerance.toNat ∧ (s.core core).idleSince + 64 ≤ s.cycle
      ∧ ∃ s3, exec (.coreClockGate core) s = .next s3 ∧ s3.core core = { s.core core with gated := true } ∧ logged s3)
    ∧ ((s.core core).gated = false → exec (.coreWake core) s = .next s)
    ∧ ((s.core core).gated = true → ∃ s3, exec (.coreWake core) s = .next s3
      ∧ s3.core core = { s.core core with gated := false, idleSince := s.cycle } ∧ (s3.die d).retained = false ∧ logged s3))
  ∧ (∀ (s : State) die, let logged := fun s3 : State => (s3.die die).klogHead = ((s.die die).klogHead + 1) % 4096
    (s.retainDue die = false → exec (.dieRetentionEntry die) s = .next s)
    ∧ (s.retainDue die = true → 50 ≤ s.host.tolerance.toNat ∧ (∀ p ∈ s.runCores die, p.2.gated = true)
      ∧ ∃ s3, exec (.dieRetentionEntry die) s = .next s3 ∧ (s3.die die).retained = true ∧ s3.cores = s.cores ∧ s3.mem = s.mem ∧ logged s3)
    ∧ ((s.die die).retained = false → exec (.dieWake die) s = .next s)
    ∧ ((s.die die).retained = true → ∃ s3, exec (.dieWake die) s = .next s3 ∧ (s3.die die).retained = false ∧ logged s3)
    ∧ (∀ bank, exec (.hbmRefresh die bank) s = .next s) ∧ exec (.sramEccScrub die) s = .next s
    ∧ exec (.hbmPatrolScrub die) s = .next s ∧ exec (.telemetrySample die) s = .next s)
  ∧ (∀ (s : State) e, ∃ ok s3, exec (.uncorrectableError e) s = .next s3 ∧ OnWay s3 (.retryResult e ok) ∧ s3.mem = s.mem ∧ s3.cores = s.cores)
  ∧ (∀ (s : State) e, exec (.retryResult e true) s = .next (s.logError e kTransient))
  ∧ ∀ (s : State), let fails := fun e => exec (.retryResult e false) s
    (∀ e line cause, (∃ die w, e = .sramData die line w ∧ cause = 0x70) ∨ (∃ w, e = .hbm line w ∧ cause = 0x71) ∨ (∃ w, e = .tier line w ∧ cause = 0x74) →
      (errWho e = none → ∃ s3 h, fails e = .next s3 ∧ smGet s3.poison line = some cause ∧ OnWay s3 (.hypervisorEvent h) ∧ h.cause = cause)
      ∧ ∀ w t, errWho e = some w → s.thread w = some t → fails e
        = .next (({ s.logError e kLasting with poison := smSet s.poison line cause } : State).takeTrap w cause (nat64 (line * 128)) t.pc))
    ∧ (∀ core off, ∃ s3, fails (.localWord core off none) = .next s3 ∧ smGet (s3.core core).poison (off / 4) = some 0x70)
    ∧ (∀ core unit, ∃ s3, fails (.coreUnit core unit none) = .next s3 ∧ core ∈ s3.host.excluded)
    ∧ (∀ link, ∃ s3, fails (.dieLink link) = .next s3 ∧ link ∈ s3.deadLinks
      ∧ ∀ q ∈ s.parts, q.2.live = true → PartSpec.spans q.2.spec link = true → OnWay s3 (.partitionEnd q.1))
    ∧ (∃ s3, fails .beacon = .next s3 ∧ s3.beacon = [] ∧ s3.beaconMsgs = [] ∧ ∀ core r, (core, s.core core) ∈ s.cores → (s.core core).cp.exec = some r →
        r.begun = true → r.remote = true → OnWay s3 (.commandCompletion core .cp))
    ∧ (∀ die k x w t space va store since, smGet (s.die die).walkers k = some x → x.who = [w] → s.thread w = some t →
      t.run = .waiting (.retry (.walk space va store)) since → x.serves t.part space va = true →
      ∃ s4 : State, fails (.walker die k) = .next (s4.takeTrap w 0x73 va t.pc) ∧ smGet (s4.die die).walkers k = none ∧ s4.thread w = some t)
    ∧ ∀ core addr, ∃ s3 h, fails (.lantern core addr) = .next s3 ∧ OnWay s3 (.hypervisorEvent h) ∧ h.cause = 0x75

/-- Encoding and decoding agree (R78 to R88): for every instruction that the encoding admits, with every operand at every value,
the decoder reads from the halfwords that the encoder gives, whatever follows them, that instruction and what follows; and for
every command, that command. -/
def Obligations.EncodeDecode : Prop :=
  ∀ (i : Instr) (rest : List Half), i.wf = true →
    ((encode i).length = 1 ∨ (encode i).length = 2 → decode (encode i ++ rest) = .ok (i, rest))
    ∧ ((encode i).length = 16 → decodeCmd (cmdOfHalves (encode i)) = some i)

/-- Decoding drops no bit (R78 to R88): what the decoder accepts is an admitted instruction, and encoding it gives back the
halfwords it was read from; the same holds of a command's 256 bits. -/
def Obligations.DecodeEncode : Prop :=
  (∀ (l : List Half) (i : Instr) (rest : List Half), decode l = .ok (i, rest) → i.wf = true ∧ encode i ++ rest = l)
  ∧ ∀ (c : BitVec 256) (i : Instr), decodeCmd c = some i → i.wf = true ∧ cmdOfHalves (encode i) = c

/-- Words that the spec writes out decode to the instructions they stand for. -/
def Obligations.DecodedWords : Prop :=
  decode (word32 0x80182850) = .ok (.add 6 5 5, [])
  ∧ decode (word32 0xA8142302) = .ok (.ldD 5 4 2, [])
  ∧ decode (word32 0xBA284090) = .ok (.fmadd 10 8 9, [])
  ∧ decode (word32 0xC2402283) = .ok (.wfma 2 0 1 0 .f32, [])
  ∧ decode (word32 0xB2000301) = .ok (.fenceC .core, [])
  ∧ decode (word32 0xE20C0010) = .ok (.mfs 3 .tstamp, [])
  ∧ decode (word32 0xE2102801) = .ok (.hcall 4 1, [])
  ∧ decode (word32 0xD60070F3) = .ok (.retireS 14 15, [])

/-- The memory keeps its canonical form: addresses rise strictly, and no byte is listed that equals what an unlisted one reads
as. -/
def Obligations.MemoryCanonical : Prop :=
  ∀ s s' : State, Memory.wf s.mem = true → step s = .next s' → Memory.wf s'.mem = true

/-- The machine after reset, as far as the spec gives values (R213, R297, R358 to R360, R366, R399): nothing runs, every device
core is held in reset with no thread, full/empty bits are full, barriers expect one arrival in phase 0, the fields of a control
page have their reset values, the latency tolerance is 0, DEVICE_RESET comes first, and the memory is in its canonical form. -/
def Obligations.ResetState : Prop :=
  Memory.wf State.reset.mem = true
  ∧ (∀ core, (State.reset.core core).held = true ∧ (State.reset.core core).threads = [])
  ∧ (∀ core i, full State.reset core i = true)
  ∧ (∀ k n, State.reset.barrier k n = { x := 1, cur := 0, carried := 0, phase := 0, arrived := [] })
  ∧ (∀ p, let x := State.reset.part p
      x.live = false ∧ x.xsteal = false ∧ x.spill = 0 ∧ x.spillen = 0 ∧ x.strap = 0 ∧ x.detp = false ∧ x.detset = 0 ∧ x.spaces = []
      ∧ ∀ c, (x.coreEnt c).repl = 2 ∧ (x.coreEnt c).rot = 0 ∧ (x.coreEnt c).space = 1)
  ∧ State.reset.host.tolerance = 0 ∧ State.reset.host.boot = .rom ∧ State.reset.host.status = 0
  ∧ State.reset.agenda = [{ due := 0, ev := .deviceReset }]
end

