-- ==== Sys2Proof/Laws/Sparse.lean ====
section
/-!
SUPPORT. Laws of sparse tables and of memory: what a read gives after a write, that writes of one key collapse, and that every
write keeps the rising order and memory's canonical form.
-/
namespace Sys2Proof.Machine

variable {α : Type}

@[simp] theorem smGet_nil (a : Nat) : smGet ([] : SMap α) a = none := rfl

theorem smGet_smSet_same (m : SMap α) (a : Nat) (x : α) : smGet (smSet m a x) a = some x := by
  induction m with
  | nil => simp [smSet, smGet]
  | cons p t ih =>
    obtain ⟨k, v⟩ := p
    simp only [smSet]
    split
    · simp [smGet]
    · split
      · simp [smGet]
      · simp [smGet, *]

theorem smGet_smSet_other (m : SMap α) (a b : Nat) (x : α) (h : b ≠ a) : smGet (smSet m a x) b = smGet m b := by
  induction m with
  | nil => simp [smSet, smGet, h]
  | cons p t ih =>
    obtain ⟨k, v⟩ := p
    simp only [smSet]
    split
    · simp [smGet, h]
    · split
      · rename_i hk
        subst hk
        simp [smGet, h]
      · simp only [smGet, ih]

@[simp] theorem smGetD_smSet_same (m : SMap α) (a : Nat) (x d : α) : smGetD (smSet m a x) a d = x := by
  simp [smGetD, smGet_smSet_same]

theorem smGetD_smSet_other (m : SMap α) (a b : Nat) (x d : α) (h : b ≠ a) :
    smGetD (smSet m a x) b d = smGetD m b d := by
  simp [smGetD, smGet_smSet_other m a b x h]

/-- A second write of one key replaces the first. -/
@[simp] theorem smSet_smSet (m : SMap α) (a : Nat) (x y : α) : smSet (smSet m a x) a y = smSet m a y := by
  induction m with
  | nil => simp [smSet]
  | cons p t ih =>
    obtain ⟨k, v⟩ := p
    simp only [smSet]
    split
    · simp [smSet]
    · split
      · simp [smSet]
      · rename_i h1 h2
        simp [smSet, h1, h2, ih]

theorem smGet_smDel_same (m : SMap α) (a : Nat) : smGet (smDel m a) a = none := by
  induction m with
  | nil => rfl
  | cons p t ih =>
    obtain ⟨k, v⟩ := p
    simp only [smDel]
    split
    · exact ih
    · simp [smGet, *]

theorem smGet_smDel_other (m : SMap α) (a b : Nat) (h : b ≠ a) : smGet (smDel m a) b = smGet m b := by
  induction m with
  | nil => rfl
  | cons p t ih =>
    obtain ⟨k, v⟩ := p
    simp only [smDel]
    split
    · rename_i hk
      subst hk
      simp [smGet, h, ih]
    · simp [smGet, ih]

/-! The rising order. -/

theorem risesFrom_mono (m : SMap α) (lo hi : Nat) (h : lo ≤ hi) (r : risesFrom hi m = true) : risesFrom lo m = true := by
  cases m with
  | nil => rfl
  | cons p t =>
    obtain ⟨k, v⟩ := p
    simp only [risesFrom, Bool.and_eq_true, decide_eq_true_eq] at *
    exact ⟨by omega, r.2⟩

theorem risesFrom_smSet (m : SMap α) (lo a : Nat) (x : α) (h : lo ≤ a) (r : risesFrom lo m = true) :
    risesFrom lo (smSet m a x) = true := by
  induction m generalizing lo with
  | nil => simpa [smSet, risesFrom] using h
  | cons p t ih =>
    obtain ⟨k, v⟩ := p
    simp only [risesFrom, Bool.and_eq_true, decide_eq_true_eq] at r
    simp only [smSet]
    split
    · simp only [risesFrom, Bool.and_eq_true, decide_eq_true_eq]
      exact ⟨h, by omega, r.2⟩
    · split
      · simp only [risesFrom, Bool.and_eq_true, decide_eq_true_eq]
        subst_vars
        exact r
      · simp only [risesFrom, Bool.and_eq_true, decide_eq_true_eq]
        exact ⟨r.1, ih (k + 1) (by omega) r.2⟩

theorem risesFrom_smDel (m : SMap α) (lo a : Nat) (r : risesFrom lo m = true) : risesFrom lo (smDel m a) = true := by
  induction m generalizing lo with
  | nil => rfl
  | cons p t ih =>
    obtain ⟨k, v⟩ := p
    simp only [risesFrom, Bool.and_eq_true, decide_eq_true_eq] at r
    simp only [smDel]
    split
    · exact risesFrom_mono _ lo (k + 1) (by omega) (ih (k + 1) r.2)
    · simp only [risesFrom, Bool.and_eq_true, decide_eq_true_eq]
      exact ⟨r.1, ih (k + 1) r.2⟩

theorem risesFrom_filter (m : SMap α) (lo : Nat) (f : Nat × α → Bool) (r : risesFrom lo m = true) :
    risesFrom lo (m.filter f) = true := by
  induction m generalizing lo with
  | nil => rfl
  | cons p t ih =>
    obtain ⟨k, v⟩ := p
    simp only [risesFrom, Bool.and_eq_true, decide_eq_true_eq] at r
    simp only [List.filter_cons]
    split
    · simp only [risesFrom, Bool.and_eq_true, decide_eq_true_eq]
      exact ⟨r.1, ih (k + 1) r.2⟩
    · exact risesFrom_mono _ lo (k + 1) (by omega) (ih (k + 1) r.2)

/-! Memory. -/

theorem wf_iff (m : Memory) : m.wf = true ↔ risesFrom 0 m = true ∧ ∀ c ∈ m, c.2 ≠ unlistedByte := by
  simp [Memory.wf, List.all_eq_true]

theorem mem_smSet (m : SMap α) (a : Nat) (x : α) (c : Nat × α) (h : c ∈ smSet m a x) : c = (a, x) ∨ c ∈ m := by
  induction m with
  | nil => simpa [smSet] using h
  | cons p t ih =>
    obtain ⟨k, v⟩ := p
    simp only [smSet] at h
    split at h
    · simpa using h
    · split at h
      · rcases List.mem_cons.mp h with h | h
        · exact .inl h
        · exact .inr (List.mem_cons_of_mem _ h)
      · rcases List.mem_cons.mp h with h | h
        · exact .inr (by rw [h]; exact List.mem_cons_self)
        · rcases ih h with h | h
          · exact .inl h
          · exact .inr (List.mem_cons_of_mem _ h)

theorem mem_smDel (m : SMap α) (a : Nat) (c : Nat × α) (h : c ∈ smDel m a) : c ∈ m := by
  induction m with
  | nil => exact h
  | cons p t ih =>
    obtain ⟨k, v⟩ := p
    simp only [smDel] at h
    split at h
    · exact List.mem_cons_of_mem _ (ih h)
    · simp only [List.mem_cons] at h ⊢
      rcases h with h | h
      · exact .inl h
      · exact .inr (ih h)

/-- Writing a byte keeps the canonical form. -/
theorem memSet_wf (m : Memory) (a : Nat) (b : Byte) (h : m.wf = true) : (memSet m a b).wf = true := by
  rw [wf_iff] at h ⊢
  unfold memSet
  split
  · exact ⟨risesFrom_smDel m 0 a h.1, fun c hc => h.2 c (mem_smDel m a c hc)⟩
  · rename_i hb
    refine ⟨risesFrom_smSet m 0 a b (Nat.zero_le a) h.1, fun c hc => ?_⟩
    rcases mem_smSet m a b c hc with rfl | hc
    · exact hb
    · exact h.2 c hc

/-- A byte reads as it was written. -/
@[simp] theorem memGet_memSet_same (m : Memory) (a : Nat) (b : Byte) : memGet (memSet m a b) a = b := by
  unfold memSet memGet
  split
  · simp [smGetD, smGet_smDel_same, *]
  · simp

/-- A write leaves every other byte alone. -/
theorem memGet_memSet_other (m : Memory) (a x : Nat) (b : Byte) (h : x ≠ a) : memGet (memSet m a b) x = memGet m x := by
  unfold memSet memGet
  split
  · simp [smGetD, smGet_smDel_other m a x h]
  · exact smGetD_smSet_other m a x b _ h

/-- Writing bytes keeps the canonical form. -/
theorem memPut_wf (m : Memory) (a : Nat) (l : List Byte) (h : m.wf = true) : (memPut m a l).wf = true := by
  induction l generalizing m a with
  | nil => exact h
  | cons b t ih => exact ih _ _ (memSet_wf m a b h)

/-- Bytes below the first one written stay. -/
theorem memGet_memPut_below (m : Memory) (a x : Nat) (l : List Byte) (h : x < a) : memGet (memPut m a l) x = memGet m x := by
  induction l generalizing m a with
  | nil => rfl
  | cons b t ih =>
    simp only [memPut]
    rw [ih _ _ (by omega), memGet_memSet_other _ _ _ _ (by omega)]

/-- Bytes above the last one written stay. -/
theorem memGet_memPut_above (m : Memory) (a x : Nat) (l : List Byte) (h : a + l.length ≤ x) :
    memGet (memPut m a l) x = memGet m x := by
  induction l generalizing m a with
  | nil => rfl
  | cons b t ih =>
    simp only [List.length_cons] at h
    simp only [memPut]
    rw [ih _ _ (by omega), memGet_memSet_other _ _ _ _ (by omega)]

/-- Writing part of a line keeps the canonical form. -/
theorem memPutLine_wf (m : Memory) (lw : LineWrite) (h : m.wf = true) : (memPutLine m lw).wf = true := by
  unfold memPutLine
  generalize List.range 128 = l
  induction l generalizing m with
  | nil => exact h
  | cons i t ih =>
    simp only [List.foldl_cons]
    apply ih
    split
    · exact memSet_wf m _ _ h
    · exact h

/-- Dropping bytes keeps the canonical form. -/
theorem filter_wf (m : Memory) (f : Host.Cell → Bool) (h : m.wf = true) : Memory.wf (m.filter f) = true := by
  rw [wf_iff] at h ⊢
  exact ⟨risesFrom_filter m 0 f h.1, fun c hc => h.2 c (List.mem_filter.mp hc).1⟩

end Sys2Proof.Machine
end

