-- ==== Sys2Proof/Laws/State.lean ====
section
/-!
SUPPORT. What each update of the state leaves alone, one lemma for each field and update, and what the reads by name give after the
updates by name.
-/
namespace Sys2Proof.Machine

@[simp] theorem setCore_cycle (s : State) (n : Nat) (c : Core) : (s.setCore n c).cycle = s.cycle := rfl
@[simp] theorem setCore_cur (s : State) (n : Nat) (c : Core) : (s.setCore n c).cur = s.cur := rfl
@[simp] theorem setCore_agenda (s : State) (n : Nat) (c : Core) : (s.setCore n c).agenda = s.agenda := rfl
@[simp] theorem setCore_fresh (s : State) (n : Nat) (c : Core) : (s.setCore n c).fresh = s.fresh := rfl
@[simp] theorem setCore_mem (s : State) (n : Nat) (c : Core) : (s.setCore n c).mem = s.mem := rfl
@[simp] theorem setCore_clusters (s : State) (n : Nat) (c : Core) : (s.setCore n c).clusters = s.clusters := rfl
@[simp] theorem setCore_dies (s : State) (n : Nat) (c : Core) : (s.setCore n c).dies = s.dies := rfl
@[simp] theorem setCore_regions (s : State) (n : Nat) (c : Core) : (s.setCore n c).regions = s.regions := rfl
@[simp] theorem setCore_parts (s : State) (n : Nat) (c : Core) : (s.setCore n c).parts = s.parts := rfl
@[simp] theorem setCore_host (s : State) (n : Nat) (c : Core) : (s.setCore n c).host = s.host := rfl
@[simp] theorem setCore_poison (s : State) (n : Nat) (c : Core) : (s.setCore n c).poison = s.poison := rfl
@[simp] theorem setCore_deadLinks (s : State) (n : Nat) (c : Core) : (s.setCore n c).deadLinks = s.deadLinks := rfl
@[simp] theorem setCore_beacon (s : State) (n : Nat) (c : Core) : (s.setCore n c).beacon = s.beacon := rfl
@[simp] theorem setCore_beaconMsgs (s : State) (n : Nat) (c : Core) : (s.setCore n c).beaconMsgs = s.beaconMsgs := rfl
@[simp] theorem setCore_tags (s : State) (n : Nat) (c : Core) : (s.setCore n c).tags = s.tags := rfl
@[simp] theorem setCore_nextTag (s : State) (n : Nat) (c : Core) : (s.setCore n c).nextTag = s.nextTag := rfl

@[simp] theorem modCore_cycle (s : State) (n : Nat) (f : Core → Core) : (s.modCore n f).cycle = s.cycle := rfl
@[simp] theorem modCore_cur (s : State) (n : Nat) (f : Core → Core) : (s.modCore n f).cur = s.cur := rfl
@[simp] theorem modCore_agenda (s : State) (n : Nat) (f : Core → Core) : (s.modCore n f).agenda = s.agenda := rfl
@[simp] theorem modCore_fresh (s : State) (n : Nat) (f : Core → Core) : (s.modCore n f).fresh = s.fresh := rfl
@[simp] theorem modCore_mem (s : State) (n : Nat) (f : Core → Core) : (s.modCore n f).mem = s.mem := rfl
@[simp] theorem modCore_clusters (s : State) (n : Nat) (f : Core → Core) : (s.modCore n f).clusters = s.clusters := rfl
@[simp] theorem modCore_dies (s : State) (n : Nat) (f : Core → Core) : (s.modCore n f).dies = s.dies := rfl
@[simp] theorem modCore_regions (s : State) (n : Nat) (f : Core → Core) : (s.modCore n f).regions = s.regions := rfl
@[simp] theorem modCore_parts (s : State) (n : Nat) (f : Core → Core) : (s.modCore n f).parts = s.parts := rfl
@[simp] theorem modCore_host (s : State) (n : Nat) (f : Core → Core) : (s.modCore n f).host = s.host := rfl
@[simp] theorem modCore_poison (s : State) (n : Nat) (f : Core → Core) : (s.modCore n f).poison = s.poison := rfl
@[simp] theorem modCore_deadLinks (s : State) (n : Nat) (f : Core → Core) : (s.modCore n f).deadLinks = s.deadLinks := rfl
@[simp] theorem modCore_beacon (s : State) (n : Nat) (f : Core → Core) : (s.modCore n f).beacon = s.beacon := rfl
@[simp] theorem modCore_beaconMsgs (s : State) (n : Nat) (f : Core → Core) : (s.modCore n f).beaconMsgs = s.beaconMsgs := rfl
@[simp] theorem modCore_tags (s : State) (n : Nat) (f : Core → Core) : (s.modCore n f).tags = s.tags := rfl
@[simp] theorem modCore_nextTag (s : State) (n : Nat) (f : Core → Core) : (s.modCore n f).nextTag = s.nextTag := rfl

@[simp] theorem setThread_cycle (s : State) (w : Who) (t : Thread) : (s.setThread w t).cycle = s.cycle := rfl
@[simp] theorem setThread_cur (s : State) (w : Who) (t : Thread) : (s.setThread w t).cur = s.cur := rfl
@[simp] theorem setThread_agenda (s : State) (w : Who) (t : Thread) : (s.setThread w t).agenda = s.agenda := rfl
@[simp] theorem setThread_fresh (s : State) (w : Who) (t : Thread) : (s.setThread w t).fresh = s.fresh := rfl
@[simp] theorem setThread_mem (s : State) (w : Who) (t : Thread) : (s.setThread w t).mem = s.mem := rfl
@[simp] theorem setThread_clusters (s : State) (w : Who) (t : Thread) : (s.setThread w t).clusters = s.clusters := rfl
@[simp] theorem setThread_dies (s : State) (w : Who) (t : Thread) : (s.setThread w t).dies = s.dies := rfl
@[simp] theorem setThread_regions (s : State) (w : Who) (t : Thread) : (s.setThread w t).regions = s.regions := rfl
@[simp] theorem setThread_parts (s : State) (w : Who) (t : Thread) : (s.setThread w t).parts = s.parts := rfl
@[simp] theorem setThread_host (s : State) (w : Who) (t : Thread) : (s.setThread w t).host = s.host := rfl
@[simp] theorem setThread_poison (s : State) (w : Who) (t : Thread) : (s.setThread w t).poison = s.poison := rfl
@[simp] theorem setThread_deadLinks (s : State) (w : Who) (t : Thread) : (s.setThread w t).deadLinks = s.deadLinks := rfl
@[simp] theorem setThread_beacon (s : State) (w : Who) (t : Thread) : (s.setThread w t).beacon = s.beacon := rfl
@[simp] theorem setThread_beaconMsgs (s : State) (w : Who) (t : Thread) : (s.setThread w t).beaconMsgs = s.beaconMsgs := rfl
@[simp] theorem setThread_tags (s : State) (w : Who) (t : Thread) : (s.setThread w t).tags = s.tags := rfl
@[simp] theorem setThread_nextTag (s : State) (w : Who) (t : Thread) : (s.setThread w t).nextTag = s.nextTag := rfl

@[simp] theorem modDie_cycle (s : State) (n : Nat) (f : Die → Die) : (s.modDie n f).cycle = s.cycle := rfl
@[simp] theorem modDie_cur (s : State) (n : Nat) (f : Die → Die) : (s.modDie n f).cur = s.cur := rfl
@[simp] theorem modDie_agenda (s : State) (n : Nat) (f : Die → Die) : (s.modDie n f).agenda = s.agenda := rfl
@[simp] theorem modDie_fresh (s : State) (n : Nat) (f : Die → Die) : (s.modDie n f).fresh = s.fresh := rfl
@[simp] theorem modDie_mem (s : State) (n : Nat) (f : Die → Die) : (s.modDie n f).mem = s.mem := rfl
@[simp] theorem modDie_cores (s : State) (n : Nat) (f : Die → Die) : (s.modDie n f).cores = s.cores := rfl
@[simp] theorem modDie_clusters (s : State) (n : Nat) (f : Die → Die) : (s.modDie n f).clusters = s.clusters := rfl
@[simp] theorem modDie_regions (s : State) (n : Nat) (f : Die → Die) : (s.modDie n f).regions = s.regions := rfl
@[simp] theorem modDie_parts (s : State) (n : Nat) (f : Die → Die) : (s.modDie n f).parts = s.parts := rfl
@[simp] theorem modDie_host (s : State) (n : Nat) (f : Die → Die) : (s.modDie n f).host = s.host := rfl
@[simp] theorem modDie_poison (s : State) (n : Nat) (f : Die → Die) : (s.modDie n f).poison = s.poison := rfl
@[simp] theorem modDie_deadLinks (s : State) (n : Nat) (f : Die → Die) : (s.modDie n f).deadLinks = s.deadLinks := rfl
@[simp] theorem modDie_beacon (s : State) (n : Nat) (f : Die → Die) : (s.modDie n f).beacon = s.beacon := rfl
@[simp] theorem modDie_beaconMsgs (s : State) (n : Nat) (f : Die → Die) : (s.modDie n f).beaconMsgs = s.beaconMsgs := rfl
@[simp] theorem modDie_tags (s : State) (n : Nat) (f : Die → Die) : (s.modDie n f).tags = s.tags := rfl
@[simp] theorem modDie_nextTag (s : State) (n : Nat) (f : Die → Die) : (s.modDie n f).nextTag = s.nextTag := rfl

@[simp] theorem modCluster_cycle (s : State) (n : Nat) (f : Cluster → Cluster) : (s.modCluster n f).cycle = s.cycle := rfl
@[simp] theorem modCluster_cur (s : State) (n : Nat) (f : Cluster → Cluster) : (s.modCluster n f).cur = s.cur := rfl
@[simp] theorem modCluster_agenda (s : State) (n : Nat) (f : Cluster → Cluster) : (s.modCluster n f).agenda = s.agenda := rfl
@[simp] theorem modCluster_fresh (s : State) (n : Nat) (f : Cluster → Cluster) : (s.modCluster n f).fresh = s.fresh := rfl
@[simp] theorem modCluster_mem (s : State) (n : Nat) (f : Cluster → Cluster) : (s.modCluster n f).mem = s.mem := rfl
@[simp] theorem modCluster_cores (s : State) (n : Nat) (f : Cluster → Cluster) : (s.modCluster n f).cores = s.cores := rfl
@[simp] theorem modCluster_dies (s : State) (n : Nat) (f : Cluster → Cluster) : (s.modCluster n f).dies = s.dies := rfl
@[simp] theorem modCluster_regions (s : State) (n : Nat) (f : Cluster → Cluster) : (s.modCluster n f).regions = s.regions := rfl
@[simp] theorem modCluster_parts (s : State) (n : Nat) (f : Cluster → Cluster) : (s.modCluster n f).parts = s.parts := rfl
@[simp] theorem modCluster_host (s : State) (n : Nat) (f : Cluster → Cluster) : (s.modCluster n f).host = s.host := rfl
@[simp] theorem modCluster_poison (s : State) (n : Nat) (f : Cluster → Cluster) : (s.modCluster n f).poison = s.poison := rfl
@[simp] theorem modCluster_deadLinks (s : State) (n : Nat) (f : Cluster → Cluster) : (s.modCluster n f).deadLinks = s.deadLinks := rfl
@[simp] theorem modCluster_beacon (s : State) (n : Nat) (f : Cluster → Cluster) : (s.modCluster n f).beacon = s.beacon := rfl
@[simp] theorem modCluster_beaconMsgs (s : State) (n : Nat) (f : Cluster → Cluster) : (s.modCluster n f).beaconMsgs = s.beaconMsgs := rfl
@[simp] theorem modCluster_tags (s : State) (n : Nat) (f : Cluster → Cluster) : (s.modCluster n f).tags = s.tags := rfl
@[simp] theorem modCluster_nextTag (s : State) (n : Nat) (f : Cluster → Cluster) : (s.modCluster n f).nextTag = s.nextTag := rfl

@[simp] theorem modPart_cycle (s : State) (n : Nat) (f : Partition → Partition) : (s.modPart n f).cycle = s.cycle := rfl
@[simp] theorem modPart_cur (s : State) (n : Nat) (f : Partition → Partition) : (s.modPart n f).cur = s.cur := rfl
@[simp] theorem modPart_agenda (s : State) (n : Nat) (f : Partition → Partition) : (s.modPart n f).agenda = s.agenda := rfl
@[simp] theorem modPart_fresh (s : State) (n : Nat) (f : Partition → Partition) : (s.modPart n f).fresh = s.fresh := rfl
@[simp] theorem modPart_mem (s : State) (n : Nat) (f : Partition → Partition) : (s.modPart n f).mem = s.mem := rfl
@[simp] theorem modPart_cores (s : State) (n : Nat) (f : Partition → Partition) : (s.modPart n f).cores = s.cores := rfl
@[simp] theorem modPart_clusters (s : State) (n : Nat) (f : Partition → Partition) : (s.modPart n f).clusters = s.clusters := rfl
@[simp] theorem modPart_dies (s : State) (n : Nat) (f : Partition → Partition) : (s.modPart n f).dies = s.dies := rfl
@[simp] theorem modPart_regions (s : State) (n : Nat) (f : Partition → Partition) : (s.modPart n f).regions = s.regions := rfl
@[simp] theorem modPart_host (s : State) (n : Nat) (f : Partition → Partition) : (s.modPart n f).host = s.host := rfl
@[simp] theorem modPart_poison (s : State) (n : Nat) (f : Partition → Partition) : (s.modPart n f).poison = s.poison := rfl
@[simp] theorem modPart_deadLinks (s : State) (n : Nat) (f : Partition → Partition) : (s.modPart n f).deadLinks = s.deadLinks := rfl
@[simp] theorem modPart_beacon (s : State) (n : Nat) (f : Partition → Partition) : (s.modPart n f).beacon = s.beacon := rfl
@[simp] theorem modPart_beaconMsgs (s : State) (n : Nat) (f : Partition → Partition) : (s.modPart n f).beaconMsgs = s.beaconMsgs := rfl
@[simp] theorem modPart_tags (s : State) (n : Nat) (f : Partition → Partition) : (s.modPart n f).tags = s.tags := rfl
@[simp] theorem modPart_nextTag (s : State) (n : Nat) (f : Partition → Partition) : (s.modPart n f).nextTag = s.nextTag := rfl

@[simp] theorem modHost_cycle (s : State) (f : HostIf → HostIf) : (s.modHost f).cycle = s.cycle := rfl
@[simp] theorem modHost_cur (s : State) (f : HostIf → HostIf) : (s.modHost f).cur = s.cur := rfl
@[simp] theorem modHost_agenda (s : State) (f : HostIf → HostIf) : (s.modHost f).agenda = s.agenda := rfl
@[simp] theorem modHost_fresh (s : State) (f : HostIf → HostIf) : (s.modHost f).fresh = s.fresh := rfl
@[simp] theorem modHost_mem (s : State) (f : HostIf → HostIf) : (s.modHost f).mem = s.mem := rfl
@[simp] theorem modHost_cores (s : State) (f : HostIf → HostIf) : (s.modHost f).cores = s.cores := rfl
@[simp] theorem modHost_clusters (s : State) (f : HostIf → HostIf) : (s.modHost f).clusters = s.clusters := rfl
@[simp] theorem modHost_dies (s : State) (f : HostIf → HostIf) : (s.modHost f).dies = s.dies := rfl
@[simp] theorem modHost_regions (s : State) (f : HostIf → HostIf) : (s.modHost f).regions = s.regions := rfl
@[simp] theorem modHost_parts (s : State) (f : HostIf → HostIf) : (s.modHost f).parts = s.parts := rfl
@[simp] theorem modHost_poison (s : State) (f : HostIf → HostIf) : (s.modHost f).poison = s.poison := rfl
@[simp] theorem modHost_deadLinks (s : State) (f : HostIf → HostIf) : (s.modHost f).deadLinks = s.deadLinks := rfl
@[simp] theorem modHost_beacon (s : State) (f : HostIf → HostIf) : (s.modHost f).beacon = s.beacon := rfl
@[simp] theorem modHost_beaconMsgs (s : State) (f : HostIf → HostIf) : (s.modHost f).beaconMsgs = s.beaconMsgs := rfl
@[simp] theorem modHost_tags (s : State) (f : HostIf → HostIf) : (s.modHost f).tags = s.tags := rfl
@[simp] theorem modHost_nextTag (s : State) (f : HostIf → HostIf) : (s.modHost f).nextTag = s.nextTag := rfl

@[simp] theorem after_cycle (s : State) (n : Nat) (e : Ev) : (s.after n e).cycle = s.cycle := rfl
@[simp] theorem after_cur (s : State) (n : Nat) (e : Ev) : (s.after n e).cur = s.cur := rfl
@[simp] theorem after_fresh (s : State) (n : Nat) (e : Ev) : (s.after n e).fresh = s.fresh := rfl
@[simp] theorem after_mem (s : State) (n : Nat) (e : Ev) : (s.after n e).mem = s.mem := rfl
@[simp] theorem after_cores (s : State) (n : Nat) (e : Ev) : (s.after n e).cores = s.cores := rfl
@[simp] theorem after_clusters (s : State) (n : Nat) (e : Ev) : (s.after n e).clusters = s.clusters := rfl
@[simp] theorem after_dies (s : State) (n : Nat) (e : Ev) : (s.after n e).dies = s.dies := rfl
@[simp] theorem after_regions (s : State) (n : Nat) (e : Ev) : (s.after n e).regions = s.regions := rfl
@[simp] theorem after_parts (s : State) (n : Nat) (e : Ev) : (s.after n e).parts = s.parts := rfl
@[simp] theorem after_host (s : State) (n : Nat) (e : Ev) : (s.after n e).host = s.host := rfl
@[simp] theorem after_poison (s : State) (n : Nat) (e : Ev) : (s.after n e).poison = s.poison := rfl
@[simp] theorem after_deadLinks (s : State) (n : Nat) (e : Ev) : (s.after n e).deadLinks = s.deadLinks := rfl
@[simp] theorem after_beacon (s : State) (n : Nat) (e : Ev) : (s.after n e).beacon = s.beacon := rfl
@[simp] theorem after_beaconMsgs (s : State) (n : Nat) (e : Ev) : (s.after n e).beaconMsgs = s.beaconMsgs := rfl
@[simp] theorem after_tags (s : State) (n : Nat) (e : Ev) : (s.after n e).tags = s.tags := rfl
@[simp] theorem after_nextTag (s : State) (n : Nat) (e : Ev) : (s.after n e).nextTag = s.nextTag := rfl

@[simp] theorem afterFree_cycle (s : State) (n : Nat) (e : Ev) : (s.afterFree n e).cycle = s.cycle := rfl
@[simp] theorem afterFree_cur (s : State) (n : Nat) (e : Ev) : (s.afterFree n e).cur = s.cur := rfl
@[simp] theorem afterFree_mem (s : State) (n : Nat) (e : Ev) : (s.afterFree n e).mem = s.mem := rfl
@[simp] theorem afterFree_cores (s : State) (n : Nat) (e : Ev) : (s.afterFree n e).cores = s.cores := rfl
@[simp] theorem afterFree_clusters (s : State) (n : Nat) (e : Ev) : (s.afterFree n e).clusters = s.clusters := rfl
@[simp] theorem afterFree_dies (s : State) (n : Nat) (e : Ev) : (s.afterFree n e).dies = s.dies := rfl
@[simp] theorem afterFree_regions (s : State) (n : Nat) (e : Ev) : (s.afterFree n e).regions = s.regions := rfl
@[simp] theorem afterFree_parts (s : State) (n : Nat) (e : Ev) : (s.afterFree n e).parts = s.parts := rfl
@[simp] theorem afterFree_host (s : State) (n : Nat) (e : Ev) : (s.afterFree n e).host = s.host := rfl
@[simp] theorem afterFree_poison (s : State) (n : Nat) (e : Ev) : (s.afterFree n e).poison = s.poison := rfl
@[simp] theorem afterFree_deadLinks (s : State) (n : Nat) (e : Ev) : (s.afterFree n e).deadLinks = s.deadLinks := rfl
@[simp] theorem afterFree_beacon (s : State) (n : Nat) (e : Ev) : (s.afterFree n e).beacon = s.beacon := rfl
@[simp] theorem afterFree_beaconMsgs (s : State) (n : Nat) (e : Ev) : (s.afterFree n e).beaconMsgs = s.beaconMsgs := rfl
@[simp] theorem afterFree_tags (s : State) (n : Nat) (e : Ev) : (s.afterFree n e).tags = s.tags := rfl
@[simp] theorem afterFree_nextTag (s : State) (n : Nat) (e : Ev) : (s.afterFree n e).nextTag = s.nextTag := rfl

@[simp] theorem afterRoute_cycle (s : State) (n : Nat) (e : Ev) : (s.afterRoute n e).cycle = s.cycle := rfl
@[simp] theorem afterRoute_cur (s : State) (n : Nat) (e : Ev) : (s.afterRoute n e).cur = s.cur := rfl
@[simp] theorem afterRoute_mem (s : State) (n : Nat) (e : Ev) : (s.afterRoute n e).mem = s.mem := rfl
@[simp] theorem afterRoute_cores (s : State) (n : Nat) (e : Ev) : (s.afterRoute n e).cores = s.cores := rfl
@[simp] theorem afterRoute_clusters (s : State) (n : Nat) (e : Ev) : (s.afterRoute n e).clusters = s.clusters := rfl
@[simp] theorem afterRoute_dies (s : State) (n : Nat) (e : Ev) : (s.afterRoute n e).dies = s.dies := rfl
@[simp] theorem afterRoute_regions (s : State) (n : Nat) (e : Ev) : (s.afterRoute n e).regions = s.regions := rfl
@[simp] theorem afterRoute_parts (s : State) (n : Nat) (e : Ev) : (s.afterRoute n e).parts = s.parts := rfl
@[simp] theorem afterRoute_host (s : State) (n : Nat) (e : Ev) : (s.afterRoute n e).host = s.host := rfl
@[simp] theorem afterRoute_poison (s : State) (n : Nat) (e : Ev) : (s.afterRoute n e).poison = s.poison := rfl
@[simp] theorem afterRoute_deadLinks (s : State) (n : Nat) (e : Ev) : (s.afterRoute n e).deadLinks = s.deadLinks := rfl
@[simp] theorem afterRoute_beacon (s : State) (n : Nat) (e : Ev) : (s.afterRoute n e).beacon = s.beacon := rfl
@[simp] theorem afterRoute_beaconMsgs (s : State) (n : Nat) (e : Ev) : (s.afterRoute n e).beaconMsgs = s.beaconMsgs := rfl
@[simp] theorem afterRoute_tags (s : State) (n : Nat) (e : Ev) : (s.afterRoute n e).tags = s.tags := rfl
@[simp] theorem afterRoute_nextTag (s : State) (n : Nat) (e : Ev) : (s.afterRoute n e).nextTag = s.nextTag := rfl

@[simp] theorem unschedule_cycle (s : State) (f : Ev → Bool) : (s.unschedule f).cycle = s.cycle := rfl
@[simp] theorem unschedule_cur (s : State) (f : Ev → Bool) : (s.unschedule f).cur = s.cur := rfl
@[simp] theorem unschedule_fresh (s : State) (f : Ev → Bool) : (s.unschedule f).fresh = s.fresh := rfl
@[simp] theorem unschedule_mem (s : State) (f : Ev → Bool) : (s.unschedule f).mem = s.mem := rfl
@[simp] theorem unschedule_cores (s : State) (f : Ev → Bool) : (s.unschedule f).cores = s.cores := rfl
@[simp] theorem unschedule_clusters (s : State) (f : Ev → Bool) : (s.unschedule f).clusters = s.clusters := rfl
@[simp] theorem unschedule_dies (s : State) (f : Ev → Bool) : (s.unschedule f).dies = s.dies := rfl
@[simp] theorem unschedule_regions (s : State) (f : Ev → Bool) : (s.unschedule f).regions = s.regions := rfl
@[simp] theorem unschedule_parts (s : State) (f : Ev → Bool) : (s.unschedule f).parts = s.parts := rfl
@[simp] theorem unschedule_host (s : State) (f : Ev → Bool) : (s.unschedule f).host = s.host := rfl
@[simp] theorem unschedule_poison (s : State) (f : Ev → Bool) : (s.unschedule f).poison = s.poison := rfl
@[simp] theorem unschedule_deadLinks (s : State) (f : Ev → Bool) : (s.unschedule f).deadLinks = s.deadLinks := rfl
@[simp] theorem unschedule_beacon (s : State) (f : Ev → Bool) : (s.unschedule f).beacon = s.beacon := rfl
@[simp] theorem unschedule_beaconMsgs (s : State) (f : Ev → Bool) : (s.unschedule f).beaconMsgs = s.beaconMsgs := rfl
@[simp] theorem unschedule_tags (s : State) (f : Ev → Bool) : (s.unschedule f).tags = s.tags := rfl
@[simp] theorem unschedule_nextTag (s : State) (f : Ev → Bool) : (s.unschedule f).nextTag = s.nextTag := rfl

@[simp] theorem klog_cycle (s : State) (die kind code part slot core : Nat) (v x : Dword) : (s.klog die kind code part slot core v x).cycle = s.cycle := rfl
@[simp] theorem klog_cur (s : State) (die kind code part slot core : Nat) (v x : Dword) : (s.klog die kind code part slot core v x).cur = s.cur := rfl
@[simp] theorem klog_agenda (s : State) (die kind code part slot core : Nat) (v x : Dword) : (s.klog die kind code part slot core v x).agenda = s.agenda := rfl
@[simp] theorem klog_fresh (s : State) (die kind code part slot core : Nat) (v x : Dword) : (s.klog die kind code part slot core v x).fresh = s.fresh := rfl
@[simp] theorem klog_mem (s : State) (die kind code part slot core : Nat) (v x : Dword) : (s.klog die kind code part slot core v x).mem = s.mem := rfl
@[simp] theorem klog_cores (s : State) (die kind code part slot core : Nat) (v x : Dword) : (s.klog die kind code part slot core v x).cores = s.cores := rfl
@[simp] theorem klog_clusters (s : State) (die kind code part slot core : Nat) (v x : Dword) : (s.klog die kind code part slot core v x).clusters = s.clusters := rfl
@[simp] theorem klog_regions (s : State) (die kind code part slot core : Nat) (v x : Dword) : (s.klog die kind code part slot core v x).regions = s.regions := rfl
@[simp] theorem klog_parts (s : State) (die kind code part slot core : Nat) (v x : Dword) : (s.klog die kind code part slot core v x).parts = s.parts := rfl
@[simp] theorem klog_host (s : State) (die kind code part slot core : Nat) (v x : Dword) : (s.klog die kind code part slot core v x).host = s.host := rfl
@[simp] theorem klog_poison (s : State) (die kind code part slot core : Nat) (v x : Dword) : (s.klog die kind code part slot core v x).poison = s.poison := rfl
@[simp] theorem klog_deadLinks (s : State) (die kind code part slot core : Nat) (v x : Dword) : (s.klog die kind code part slot core v x).deadLinks = s.deadLinks := rfl
@[simp] theorem klog_beacon (s : State) (die kind code part slot core : Nat) (v x : Dword) : (s.klog die kind code part slot core v x).beacon = s.beacon := rfl
@[simp] theorem klog_beaconMsgs (s : State) (die kind code part slot core : Nat) (v x : Dword) : (s.klog die kind code part slot core v x).beaconMsgs = s.beaconMsgs := rfl
@[simp] theorem klog_tags (s : State) (die kind code part slot core : Nat) (v x : Dword) : (s.klog die kind code part slot core v x).tags = s.tags := rfl
@[simp] theorem klog_nextTag (s : State) (die kind code part slot core : Nat) (v x : Dword) : (s.klog die kind code part slot core v x).nextTag = s.nextTag := rfl

@[simp] theorem modThread_cycle (s : State) (w : Who) (f : Thread → Thread) : (s.modThread w f).cycle = s.cycle := by unfold State.modThread; split <;> rfl
@[simp] theorem modThread_cur (s : State) (w : Who) (f : Thread → Thread) : (s.modThread w f).cur = s.cur := by unfold State.modThread; split <;> rfl
@[simp] theorem modThread_agenda (s : State) (w : Who) (f : Thread → Thread) : (s.modThread w f).agenda = s.agenda := by unfold State.modThread; split <;> rfl
@[simp] theorem modThread_fresh (s : State) (w : Who) (f : Thread → Thread) : (s.modThread w f).fresh = s.fresh := by unfold State.modThread; split <;> rfl
@[simp] theorem modThread_mem (s : State) (w : Who) (f : Thread → Thread) : (s.modThread w f).mem = s.mem := by unfold State.modThread; split <;> rfl
@[simp] theorem modThread_clusters (s : State) (w : Who) (f : Thread → Thread) : (s.modThread w f).clusters = s.clusters := by unfold State.modThread; split <;> rfl
@[simp] theorem modThread_dies (s : State) (w : Who) (f : Thread → Thread) : (s.modThread w f).dies = s.dies := by unfold State.modThread; split <;> rfl
@[simp] theorem modThread_regions (s : State) (w : Who) (f : Thread → Thread) : (s.modThread w f).regions = s.regions := by unfold State.modThread; split <;> rfl
@[simp] theorem modThread_parts (s : State) (w : Who) (f : Thread → Thread) : (s.modThread w f).parts = s.parts := by unfold State.modThread; split <;> rfl
@[simp] theorem modThread_host (s : State) (w : Who) (f : Thread → Thread) : (s.modThread w f).host = s.host := by unfold State.modThread; split <;> rfl
@[simp] theorem modThread_poison (s : State) (w : Who) (f : Thread → Thread) : (s.modThread w f).poison = s.poison := by unfold State.modThread; split <;> rfl
@[simp] theorem modThread_deadLinks (s : State) (w : Who) (f : Thread → Thread) : (s.modThread w f).deadLinks = s.deadLinks := by unfold State.modThread; split <;> rfl
@[simp] theorem modThread_beacon (s : State) (w : Who) (f : Thread → Thread) : (s.modThread w f).beacon = s.beacon := by unfold State.modThread; split <;> rfl
@[simp] theorem modThread_beaconMsgs (s : State) (w : Who) (f : Thread → Thread) : (s.modThread w f).beaconMsgs = s.beaconMsgs := by unfold State.modThread; split <;> rfl
@[simp] theorem modThread_tags (s : State) (w : Who) (f : Thread → Thread) : (s.modThread w f).tags = s.tags := by unfold State.modThread; split <;> rfl
@[simp] theorem modThread_nextTag (s : State) (w : Who) (f : Thread → Thread) : (s.modThread w f).nextTag = s.nextTag := by unfold State.modThread; split <;> rfl

@[simp] theorem modGroup_cycle (s : State) (core gid : Nat) (f : Group → Group) : (s.modGroup core gid f).cycle = s.cycle := by unfold State.modGroup; split <;> rfl
@[simp] theorem modGroup_cur (s : State) (core gid : Nat) (f : Group → Group) : (s.modGroup core gid f).cur = s.cur := by unfold State.modGroup; split <;> rfl
@[simp] theorem modGroup_agenda (s : State) (core gid : Nat) (f : Group → Group) : (s.modGroup core gid f).agenda = s.agenda := by unfold State.modGroup; split <;> rfl
@[simp] theorem modGroup_fresh (s : State) (core gid : Nat) (f : Group → Group) : (s.modGroup core gid f).fresh = s.fresh := by unfold State.modGroup; split <;> rfl
@[simp] theorem modGroup_mem (s : State) (core gid : Nat) (f : Group → Group) : (s.modGroup core gid f).mem = s.mem := by unfold State.modGroup; split <;> rfl
@[simp] theorem modGroup_clusters (s : State) (core gid : Nat) (f : Group → Group) : (s.modGroup core gid f).clusters = s.clusters := by unfold State.modGroup; split <;> rfl
@[simp] theorem modGroup_dies (s : State) (core gid : Nat) (f : Group → Group) : (s.modGroup core gid f).dies = s.dies := by unfold State.modGroup; split <;> rfl
@[simp] theorem modGroup_regions (s : State) (core gid : Nat) (f : Group → Group) : (s.modGroup core gid f).regions = s.regions := by unfold State.modGroup; split <;> rfl
@[simp] theorem modGroup_parts (s : State) (core gid : Nat) (f : Group → Group) : (s.modGroup core gid f).parts = s.parts := by unfold State.modGroup; split <;> rfl
@[simp] theorem modGroup_host (s : State) (core gid : Nat) (f : Group → Group) : (s.modGroup core gid f).host = s.host := by unfold State.modGroup; split <;> rfl
@[simp] theorem modGroup_poison (s : State) (core gid : Nat) (f : Group → Group) : (s.modGroup core gid f).poison = s.poison := by unfold State.modGroup; split <;> rfl
@[simp] theorem modGroup_deadLinks (s : State) (core gid : Nat) (f : Group → Group) : (s.modGroup core gid f).deadLinks = s.deadLinks := by unfold State.modGroup; split <;> rfl
@[simp] theorem modGroup_beacon (s : State) (core gid : Nat) (f : Group → Group) : (s.modGroup core gid f).beacon = s.beacon := by unfold State.modGroup; split <;> rfl
@[simp] theorem modGroup_beaconMsgs (s : State) (core gid : Nat) (f : Group → Group) : (s.modGroup core gid f).beaconMsgs = s.beaconMsgs := by unfold State.modGroup; split <;> rfl
@[simp] theorem modGroup_tags (s : State) (core gid : Nat) (f : Group → Group) : (s.modGroup core gid f).tags = s.tags := by unfold State.modGroup; split <;> rfl
@[simp] theorem modGroup_nextTag (s : State) (core gid : Nat) (f : Group → Group) : (s.modGroup core gid f).nextTag = s.nextTag := by unfold State.modGroup; split <;> rfl

@[simp] theorem holdPort_cycle (s : State) (w : Who) (t : Thread) (l : List Nat) : (s.holdPort w t l).cycle = s.cycle := by unfold State.holdPort; split <;> rfl
@[simp] theorem holdPort_cur (s : State) (w : Who) (t : Thread) (l : List Nat) : (s.holdPort w t l).cur = s.cur := by unfold State.holdPort; split <;> rfl
@[simp] theorem holdPort_agenda (s : State) (w : Who) (t : Thread) (l : List Nat) : (s.holdPort w t l).agenda = s.agenda := by unfold State.holdPort; split <;> rfl
@[simp] theorem holdPort_fresh (s : State) (w : Who) (t : Thread) (l : List Nat) : (s.holdPort w t l).fresh = s.fresh := by unfold State.holdPort; split <;> rfl
@[simp] theorem holdPort_mem (s : State) (w : Who) (t : Thread) (l : List Nat) : (s.holdPort w t l).mem = s.mem := by unfold State.holdPort; split <;> rfl
@[simp] theorem holdPort_clusters (s : State) (w : Who) (t : Thread) (l : List Nat) : (s.holdPort w t l).clusters = s.clusters := by unfold State.holdPort; split <;> rfl
@[simp] theorem holdPort_dies (s : State) (w : Who) (t : Thread) (l : List Nat) : (s.holdPort w t l).dies = s.dies := by unfold State.holdPort; split <;> rfl
@[simp] theorem holdPort_regions (s : State) (w : Who) (t : Thread) (l : List Nat) : (s.holdPort w t l).regions = s.regions := by unfold State.holdPort; split <;> rfl
@[simp] theorem holdPort_parts (s : State) (w : Who) (t : Thread) (l : List Nat) : (s.holdPort w t l).parts = s.parts := by unfold State.holdPort; split <;> rfl
@[simp] theorem holdPort_host (s : State) (w : Who) (t : Thread) (l : List Nat) : (s.holdPort w t l).host = s.host := by unfold State.holdPort; split <;> rfl
@[simp] theorem holdPort_poison (s : State) (w : Who) (t : Thread) (l : List Nat) : (s.holdPort w t l).poison = s.poison := by unfold State.holdPort; split <;> rfl
@[simp] theorem holdPort_deadLinks (s : State) (w : Who) (t : Thread) (l : List Nat) : (s.holdPort w t l).deadLinks = s.deadLinks := by unfold State.holdPort; split <;> rfl
@[simp] theorem holdPort_beacon (s : State) (w : Who) (t : Thread) (l : List Nat) : (s.holdPort w t l).beacon = s.beacon := by unfold State.holdPort; split <;> rfl
@[simp] theorem holdPort_beaconMsgs (s : State) (w : Who) (t : Thread) (l : List Nat) : (s.holdPort w t l).beaconMsgs = s.beaconMsgs := by unfold State.holdPort; split <;> rfl
@[simp] theorem holdPort_tags (s : State) (w : Who) (t : Thread) (l : List Nat) : (s.holdPort w t l).tags = s.tags := by unfold State.holdPort; split <;> rfl
@[simp] theorem holdPort_nextTag (s : State) (w : Who) (t : Thread) (l : List Nat) : (s.holdPort w t l).nextTag = s.nextTag := by unfold State.holdPort; split <;> rfl

@[simp] theorem putG_cycle (s : State) (w : Who) (t : Thread) (n : Nat) (v : Dword) : (s.putG w t n v).cycle = s.cycle := by
  unfold State.putG; split
  · rfl
  · split
    · exact modThread_cycle ..
    · rfl
@[simp] theorem putG_cur (s : State) (w : Who) (t : Thread) (n : Nat) (v : Dword) : (s.putG w t n v).cur = s.cur := by
  unfold State.putG; split
  · rfl
  · split
    · exact modThread_cur ..
    · rfl
@[simp] theorem putG_agenda (s : State) (w : Who) (t : Thread) (n : Nat) (v : Dword) : (s.putG w t n v).agenda = s.agenda := by
  unfold State.putG; split
  · rfl
  · split
    · exact modThread_agenda ..
    · rfl
@[simp] theorem putG_fresh (s : State) (w : Who) (t : Thread) (n : Nat) (v : Dword) : (s.putG w t n v).fresh = s.fresh := by
  unfold State.putG; split
  · rfl
  · split
    · exact modThread_fresh ..
    · rfl
@[simp] theorem putG_mem (s : State) (w : Who) (t : Thread) (n : Nat) (v : Dword) : (s.putG w t n v).mem = s.mem := by
  unfold State.putG; split
  · rfl
  · split
    · exact modThread_mem ..
    · rfl
@[simp] theorem putG_clusters (s : State) (w : Who) (t : Thread) (n : Nat) (v : Dword) : (s.putG w t n v).clusters = s.clusters := by
  unfold State.putG; split
  · rfl
  · split
    · exact modThread_clusters ..
    · rfl
@[simp] theorem putG_dies (s : State) (w : Who) (t : Thread) (n : Nat) (v : Dword) : (s.putG w t n v).dies = s.dies := by
  unfold State.putG; split
  · rfl
  · split
    · exact modThread_dies ..
    · rfl
@[simp] theorem putG_regions (s : State) (w : Who) (t : Thread) (n : Nat) (v : Dword) : (s.putG w t n v).regions = s.regions := by
  unfold State.putG; split
  · rfl
  · split
    · exact modThread_regions ..
    · rfl
@[simp] theorem putG_parts (s : State) (w : Who) (t : Thread) (n : Nat) (v : Dword) : (s.putG w t n v).parts = s.parts := by
  unfold State.putG; split
  · rfl
  · split
    · exact modThread_parts ..
    · rfl
@[simp] theorem putG_host (s : State) (w : Who) (t : Thread) (n : Nat) (v : Dword) : (s.putG w t n v).host = s.host := by
  unfold State.putG; split
  · rfl
  · split
    · exact modThread_host ..
    · rfl
@[simp] theorem putG_poison (s : State) (w : Who) (t : Thread) (n : Nat) (v : Dword) : (s.putG w t n v).poison = s.poison := by
  unfold State.putG; split
  · rfl
  · split
    · exact modThread_poison ..
    · rfl
@[simp] theorem putG_deadLinks (s : State) (w : Who) (t : Thread) (n : Nat) (v : Dword) : (s.putG w t n v).deadLinks = s.deadLinks := by
  unfold State.putG; split
  · rfl
  · split
    · exact modThread_deadLinks ..
    · rfl
@[simp] theorem putG_beacon (s : State) (w : Who) (t : Thread) (n : Nat) (v : Dword) : (s.putG w t n v).beacon = s.beacon := by
  unfold State.putG; split
  · rfl
  · split
    · exact modThread_beacon ..
    · rfl
@[simp] theorem putG_beaconMsgs (s : State) (w : Who) (t : Thread) (n : Nat) (v : Dword) : (s.putG w t n v).beaconMsgs = s.beaconMsgs := by
  unfold State.putG; split
  · rfl
  · split
    · exact modThread_beaconMsgs ..
    · rfl
@[simp] theorem putG_tags (s : State) (w : Who) (t : Thread) (n : Nat) (v : Dword) : (s.putG w t n v).tags = s.tags := by
  unfold State.putG; split
  · rfl
  · split
    · exact modThread_tags ..
    · rfl
@[simp] theorem putG_nextTag (s : State) (w : Who) (t : Thread) (n : Nat) (v : Dword) : (s.putG w t n v).nextTag = s.nextTag := by
  unfold State.putG; split
  · rfl
  · split
    · exact modThread_nextTag ..
    · rfl

@[simp] theorem writeW_cycle (s : State) (w : Who) (n : Nat) (v : Wide) : (s.writeW w n v).cycle = s.cycle := by unfold State.writeW; split <;> rfl
@[simp] theorem writeW_cur (s : State) (w : Who) (n : Nat) (v : Wide) : (s.writeW w n v).cur = s.cur := by unfold State.writeW; split <;> rfl
@[simp] theorem writeW_agenda (s : State) (w : Who) (n : Nat) (v : Wide) : (s.writeW w n v).agenda = s.agenda := by unfold State.writeW; split <;> rfl
@[simp] theorem writeW_fresh (s : State) (w : Who) (n : Nat) (v : Wide) : (s.writeW w n v).fresh = s.fresh := by unfold State.writeW; split <;> rfl
@[simp] theorem writeW_mem (s : State) (w : Who) (n : Nat) (v : Wide) : (s.writeW w n v).mem = s.mem := by unfold State.writeW; split <;> rfl
@[simp] theorem writeW_clusters (s : State) (w : Who) (n : Nat) (v : Wide) : (s.writeW w n v).clusters = s.clusters := by unfold State.writeW; split <;> rfl
@[simp] theorem writeW_dies (s : State) (w : Who) (n : Nat) (v : Wide) : (s.writeW w n v).dies = s.dies := by unfold State.writeW; split <;> rfl
@[simp] theorem writeW_regions (s : State) (w : Who) (n : Nat) (v : Wide) : (s.writeW w n v).regions = s.regions := by unfold State.writeW; split <;> rfl
@[simp] theorem writeW_parts (s : State) (w : Who) (n : Nat) (v : Wide) : (s.writeW w n v).parts = s.parts := by unfold State.writeW; split <;> rfl
@[simp] theorem writeW_host (s : State) (w : Who) (n : Nat) (v : Wide) : (s.writeW w n v).host = s.host := by unfold State.writeW; split <;> rfl
@[simp] theorem writeW_poison (s : State) (w : Who) (n : Nat) (v : Wide) : (s.writeW w n v).poison = s.poison := by unfold State.writeW; split <;> rfl
@[simp] theorem writeW_deadLinks (s : State) (w : Who) (n : Nat) (v : Wide) : (s.writeW w n v).deadLinks = s.deadLinks := by unfold State.writeW; split <;> rfl
@[simp] theorem writeW_beacon (s : State) (w : Who) (n : Nat) (v : Wide) : (s.writeW w n v).beacon = s.beacon := by unfold State.writeW; split <;> rfl
@[simp] theorem writeW_beaconMsgs (s : State) (w : Who) (n : Nat) (v : Wide) : (s.writeW w n v).beaconMsgs = s.beaconMsgs := by unfold State.writeW; split <;> rfl
@[simp] theorem writeW_tags (s : State) (w : Who) (n : Nat) (v : Wide) : (s.writeW w n v).tags = s.tags := by unfold State.writeW; split <;> rfl
@[simp] theorem writeW_nextTag (s : State) (w : Who) (n : Nat) (v : Wide) : (s.writeW w n v).nextTag = s.nextTag := by unfold State.writeW; split <;> rfl

@[simp] theorem later_cycle (s : State) (w : Who) (d : RegDest) (v : Wide) : (s.later w d v).cycle = s.cycle := rfl
@[simp] theorem later_cur (s : State) (w : Who) (d : RegDest) (v : Wide) : (s.later w d v).cur = s.cur := rfl
@[simp] theorem later_agenda (s : State) (w : Who) (d : RegDest) (v : Wide) : (s.later w d v).agenda = s.agenda := rfl
@[simp] theorem later_fresh (s : State) (w : Who) (d : RegDest) (v : Wide) : (s.later w d v).fresh = s.fresh := rfl
@[simp] theorem later_mem (s : State) (w : Who) (d : RegDest) (v : Wide) : (s.later w d v).mem = s.mem := rfl
@[simp] theorem later_clusters (s : State) (w : Who) (d : RegDest) (v : Wide) : (s.later w d v).clusters = s.clusters := rfl
@[simp] theorem later_dies (s : State) (w : Who) (d : RegDest) (v : Wide) : (s.later w d v).dies = s.dies := rfl
@[simp] theorem later_regions (s : State) (w : Who) (d : RegDest) (v : Wide) : (s.later w d v).regions = s.regions := rfl
@[simp] theorem later_parts (s : State) (w : Who) (d : RegDest) (v : Wide) : (s.later w d v).parts = s.parts := rfl
@[simp] theorem later_host (s : State) (w : Who) (d : RegDest) (v : Wide) : (s.later w d v).host = s.host := rfl
@[simp] theorem later_poison (s : State) (w : Who) (d : RegDest) (v : Wide) : (s.later w d v).poison = s.poison := rfl
@[simp] theorem later_deadLinks (s : State) (w : Who) (d : RegDest) (v : Wide) : (s.later w d v).deadLinks = s.deadLinks := rfl
@[simp] theorem later_beacon (s : State) (w : Who) (d : RegDest) (v : Wide) : (s.later w d v).beacon = s.beacon := rfl
@[simp] theorem later_beaconMsgs (s : State) (w : Who) (d : RegDest) (v : Wide) : (s.later w d v).beaconMsgs = s.beaconMsgs := rfl
@[simp] theorem later_tags (s : State) (w : Who) (d : RegDest) (v : Wide) : (s.later w d v).tags = s.tags := rfl
@[simp] theorem later_nextTag (s : State) (w : Who) (d : RegDest) (v : Wide) : (s.later w d v).nextTag = s.nextTag := rfl

@[simp] theorem writeK_cycle (s : State) (w : Who) (n : Nat) (v : Dword) : (s.writeK w n v).cycle = s.cycle := by unfold State.writeK; split <;> rfl
@[simp] theorem writeK_cur (s : State) (w : Who) (n : Nat) (v : Dword) : (s.writeK w n v).cur = s.cur := by unfold State.writeK; split <;> rfl
@[simp] theorem writeK_agenda (s : State) (w : Who) (n : Nat) (v : Dword) : (s.writeK w n v).agenda = s.agenda := by unfold State.writeK; split <;> rfl
@[simp] theorem writeK_fresh (s : State) (w : Who) (n : Nat) (v : Dword) : (s.writeK w n v).fresh = s.fresh := by unfold State.writeK; split <;> rfl
@[simp] theorem writeK_mem (s : State) (w : Who) (n : Nat) (v : Dword) : (s.writeK w n v).mem = s.mem := by unfold State.writeK; split <;> rfl
@[simp] theorem writeK_clusters (s : State) (w : Who) (n : Nat) (v : Dword) : (s.writeK w n v).clusters = s.clusters := by unfold State.writeK; split <;> rfl
@[simp] theorem writeK_dies (s : State) (w : Who) (n : Nat) (v : Dword) : (s.writeK w n v).dies = s.dies := by unfold State.writeK; split <;> rfl
@[simp] theorem writeK_regions (s : State) (w : Who) (n : Nat) (v : Dword) : (s.writeK w n v).regions = s.regions := by unfold State.writeK; split <;> rfl
@[simp] theorem writeK_parts (s : State) (w : Who) (n : Nat) (v : Dword) : (s.writeK w n v).parts = s.parts := by unfold State.writeK; split <;> rfl
@[simp] theorem writeK_host (s : State) (w : Who) (n : Nat) (v : Dword) : (s.writeK w n v).host = s.host := by unfold State.writeK; split <;> rfl
@[simp] theorem writeK_poison (s : State) (w : Who) (n : Nat) (v : Dword) : (s.writeK w n v).poison = s.poison := by unfold State.writeK; split <;> rfl
@[simp] theorem writeK_deadLinks (s : State) (w : Who) (n : Nat) (v : Dword) : (s.writeK w n v).deadLinks = s.deadLinks := by unfold State.writeK; split <;> rfl
@[simp] theorem writeK_beacon (s : State) (w : Who) (n : Nat) (v : Dword) : (s.writeK w n v).beacon = s.beacon := by unfold State.writeK; split <;> rfl
@[simp] theorem writeK_beaconMsgs (s : State) (w : Who) (n : Nat) (v : Dword) : (s.writeK w n v).beaconMsgs = s.beaconMsgs := by unfold State.writeK; split <;> rfl
@[simp] theorem writeK_tags (s : State) (w : Who) (n : Nat) (v : Dword) : (s.writeK w n v).tags = s.tags := by unfold State.writeK; split <;> rfl
@[simp] theorem writeK_nextTag (s : State) (w : Who) (n : Nat) (v : Dword) : (s.writeK w n v).nextTag = s.nextTag := by unfold State.writeK; split <;> rfl

/-! Cores and threads. -/

@[simp] theorem core_setCore_same (s : State) (n : Nat) (c : Core) : (s.setCore n c).core n = c := by simp [State.core, State.setCore]

theorem core_setCore_other (s : State) (n m : Nat) (c : Core) (h : m ≠ n) : (s.setCore n c).core m = s.core m := by
  simp [State.core, State.setCore, smGetD_smSet_other _ _ _ _ _ h]

@[simp] theorem core_modCore_same (s : State) (n : Nat) (f : Core → Core) : (s.modCore n f).core n = f (s.core n) := by
  simp [State.modCore]

theorem core_modCore_other (s : State) (n m : Nat) (f : Core → Core) (h : m ≠ n) : (s.modCore n f).core m = s.core m :=
  core_setCore_other _ _ _ _ h

@[simp] theorem setCore_setCore (s : State) (n : Nat) (c d : Core) : (s.setCore n c).setCore n d = s.setCore n d := by
  simp [State.setCore]

@[simp] theorem modCore_setCore (s : State) (n : Nat) (c : Core) (f : Core → Core) : (s.setCore n c).modCore n f = s.setCore n (f c) := by
  simp [State.modCore]

@[simp] theorem modCore_modCore (s : State) (n : Nat) (f g : Core → Core) :
    (s.modCore n f).modCore n g = s.modCore n fun c => g (f c) := by
  simp [State.modCore]

@[simp] theorem thread_setThread_same (s : State) (w : Who) (t : Thread) : (s.setThread w t).thread w = some t := by
  simp [State.thread, State.setThread, smGet_smSet_same]

theorem modThread_of_thread (s : State) (w : Who) (t : Thread) (f : Thread → Thread) (h : s.thread w = some t) :
    s.modThread w f = s.setThread w (f t) := by
  simp [State.modThread, h]

@[simp] theorem setThread_setThread (s : State) (w : Who) (t u : Thread) : (s.setThread w t).setThread w u = s.setThread w u := by
  simp [State.setThread]

theorem thread_modThread_same (s : State) (w : Who) (f : Thread → Thread) : (s.modThread w f).thread w = (s.thread w).map f := by
  unfold State.modThread
  split <;> simp [*]

theorem thread_modCore (s : State) (w : Who) (n : Nat) (f : Core → Core) (h : ∀ c, (f c).threads = c.threads) :
    (s.modCore n f).thread w = s.thread w := by
  unfold State.thread
  by_cases e : w.core = n
  · subst e
    simp [h]
  · rw [core_modCore_other _ _ _ _ e]

/-! Dies, clusters and partitions. -/

@[simp] theorem die_modDie_same (s : State) (n : Nat) (f : Die → Die) : (s.modDie n f).die n = f (s.die n) := by
  simp [State.die, State.modDie]

theorem die_modDie_other (s : State) (n m : Nat) (f : Die → Die) (h : m ≠ n) : (s.modDie n f).die m = s.die m := by
  simp [State.die, State.modDie, smGetD_smSet_other _ _ _ _ _ h]

@[simp] theorem cluster_modCluster_same (s : State) (n : Nat) (f : Cluster → Cluster) :
    (s.modCluster n f).cluster n = f (s.cluster n) := by
  simp [State.cluster, State.modCluster]

@[simp] theorem part_modPart_same (s : State) (n : Nat) (f : Partition → Partition) : (s.modPart n f).part n = f (s.part n) := by
  simp [State.part, State.modPart]

@[simp] theorem core_modDie (s : State) (n m : Nat) (f : Die → Die) : (s.modDie n f).core m = s.core m := rfl
@[simp] theorem core_modPart (s : State) (n m : Nat) (f : Partition → Partition) : (s.modPart n f).core m = s.core m := rfl
@[simp] theorem core_modCluster (s : State) (n m : Nat) (f : Cluster → Cluster) : (s.modCluster n f).core m = s.core m := rfl
@[simp] theorem core_after (s : State) (n m : Nat) (e : Ev) : (s.after n e).core m = s.core m := rfl
@[simp] theorem core_afterFree (s : State) (n m : Nat) (e : Ev) : (s.afterFree n e).core m = s.core m := rfl
@[simp] theorem die_modCore (s : State) (n m : Nat) (f : Core → Core) : (s.modCore n f).die m = s.die m := rfl
@[simp] theorem part_modCore (s : State) (n m : Nat) (f : Core → Core) : (s.modCore n f).part m = s.part m := rfl
@[simp] theorem thread_modDie (s : State) (n : Nat) (w : Who) (f : Die → Die) : (s.modDie n f).thread w = s.thread w := rfl
@[simp] theorem thread_modPart (s : State) (n : Nat) (w : Who) (f : Partition → Partition) : (s.modPart n f).thread w = s.thread w := rfl
@[simp] theorem thread_after (s : State) (n : Nat) (w : Who) (e : Ev) : (s.after n e).thread w = s.thread w := rfl
@[simp] theorem thread_afterFree (s : State) (n : Nat) (w : Who) (e : Ev) : (s.afterFree n e).thread w = s.thread w := rfl

end Sys2Proof.Machine
end

