-- ==== Sys2Proof/Laws/Issue.lean ====
section
/-!
SUPPORT. What the issue of an instruction comes to, one lemma for each way it can end, and what the operations around it leave alone.
-/
namespace Sys2Proof.Machine

@[simp] theorem forward_cur (s : State) (w : Who) (n : Nat) (f : FwdInstr) : (s.forward w n f).cur = s.cur := by
  unfold State.forward
  generalize List.range n = l
  induction l generalizing s with
  | nil => rfl
  | cons j l ih => rw [List.foldl_cons, ih]; split <;> rfl

@[simp] theorem forward_cycle (s : State) (w : Who) (n : Nat) (f : FwdInstr) : (s.forward w n f).cycle = s.cycle := by
  unfold State.forward
  generalize List.range n = l
  induction l generalizing s with
  | nil => rfl
  | cons j l ih => rw [List.foldl_cons, ih]; split <;> rfl

@[simp] theorem forward_cores (s : State) (w : Who) (n : Nat) (f : FwdInstr) : (s.forward w n f).cores = s.cores := by
  unfold State.forward
  generalize List.range n = l
  induction l generalizing s with
  | nil => rfl
  | cons j l ih => rw [List.foldl_cons, ih]; split <;> rfl

@[simp] theorem forward_mem (s : State) (w : Who) (n : Nat) (f : FwdInstr) : (s.forward w n f).mem = s.mem := by
  unfold State.forward
  generalize List.range n = l
  induction l generalizing s with
  | nil => rfl
  | cons j l ih => rw [List.foldl_cons, ih]; split <;> rfl

@[simp] theorem lead_cur (s : State) (w : Who) (t : Thread) (e : Nat) : (s.lead w t e).cur = s.cur := by
  unfold State.lead State.leaderLeaves
  repeat (first | rfl | split | simp)

@[simp] theorem lead_cycle (s : State) (w : Who) (t : Thread) (e : Nat) : (s.lead w t e).cycle = s.cycle := by
  unfold State.lead State.leaderLeaves
  repeat (first | rfl | split | simp)

@[simp] theorem lead_mem (s : State) (w : Who) (t : Thread) (e : Nat) : (s.lead w t e).mem = s.mem := by
  unfold State.lead State.leaderLeaves
  repeat (first | rfl | split | simp)

theorem lead_alone (s : State) (w : Who) (t : Thread) (e : Nat) (h : t.gang = none) : s.lead w t e = s := by
  simp [State.lead, h]

@[simp] theorem readAhead_cur (s : State) (core i n : Nat) : (s.readAhead core i n).cur = s.cur := by
  induction n generalizing s with
  | zero => rfl
  | succ n ih =>
    unfold State.readAhead
    split
    · rfl
    · dsimp only
      split
      · rw [ih]; rfl
      · rfl

@[simp] theorem readAhead_cycle (s : State) (core i n : Nat) : (s.readAhead core i n).cycle = s.cycle := by
  induction n generalizing s with
  | zero => rfl
  | succ n ih =>
    unfold State.readAhead
    split
    · rfl
    · dsimp only
      split
      · rw [ih]; rfl
      · rfl

@[simp] theorem readAhead_mem (s : State) (core i n : Nat) : (s.readAhead core i n).mem = s.mem := by
  induction n generalizing s with
  | zero => rfl
  | succ n ih =>
    unfold State.readAhead
    split
    · rfl
    · dsimp only
      split
      · rw [ih]; rfl
      · rfl

/-- What popping a register does to the rest of the machine. -/
theorem pop_keeps (s s2 : State) (w : Who) (t : Thread) (n : Nat) (v : Dword) (h : s.pop w t n = .ok s2 v) :
    s2.cur = s.cur ∧ s2.cycle = s.cycle ∧ s2.mem = s.mem := by
  unfold State.pop at h
  split at h
  · cases h; simp
  · split at h
    · cases h; simp
    · split at h
      · split at h
        · cases h
        · split at h
          · cases h
          · split at h <;> cases h
            simp
      · split at h
        · cases h
        · split at h
          · cases h
          · dsimp only at h
            split at h
            · cases h
            · repeat' split at h
              all_goals cases h
              all_goals simp
      · cases h; simp

theorem pops_keeps (s s2 : State) (w : Who) (t : Thread) (l : List Nat) (acc vals : List (Nat × Dword))
    (h : s.pops w t l acc = .ok (s2, vals)) : s2.cur = s.cur ∧ s2.cycle = s.cycle ∧ s2.mem = s.mem := by
  induction l generalizing s acc with
  | nil => simp only [State.pops] at h; cases h; simp
  | cons n l ih =>
    unfold State.pops at h
    split at h
    · exact ih _ _ h
    · split at h
      · rename_i s' v hp
        have h1 := pop_keeps _ _ _ _ _ _ hp
        have h2 := ih _ _ h
        exact ⟨h2.1.trans h1.1, h2.2.1.trans h1.2.1, h2.2.2.trans h1.2.2⟩
      · cases h

/-- The reader of source registers that a body is given. -/
def readOf (s2 : State) (w : Who) (t : Thread) (vals : List (Nat × Dword)) (n : Nat) : Dword :=
  ((vals.find? fun p => p.1 == n).map (·.2)).getD (s2.readG w t n)

/-- An instruction that passes the checks of R86 and whose streams allow it comes to its body. -/
theorem issue_body (u : Use) (s s2 : State) (t : Thread) (vals : List (Nat × Dword))
    (body : State → Thread → (Nat → Dword) → Res) (ht : s.thread s.cur = some t) (hc : useCause u s.cur t = none)
    (ho : ((s.lead s.cur t u.enc).holdPort s.cur t u.src).outStops s.cur t u.dst = none)
    (hp : ((s.lead s.cur t u.enc).holdPort s.cur t u.src).pops s.cur t u.src [] = .ok (s2, vals)) :
    issue u s body =
      .next (finish ((s.lead s.cur t u.enc).holdPort s.cur t u.src) s.cur t (body s2 t (readOf s2 s.cur t vals))) := by
  unfold issue
  simp only [ht, hc, ho, hp]
  rfl

/-- An instruction that fails a check of R86 traps before any effect. -/
theorem issue_cause (u : Use) (s : State) (t : Thread) (c : Nat) (body : State → Thread → (Nat → Dword) → Res)
    (ht : s.thread s.cur = some t) (hc : useCause u s.cur t = some c) :
    issue u s body = .next (s.takeTrap s.cur c (BitVec.ofNat 64 u.enc) t.pc) := by
  unfold issue
  simp only [ht, hc]

/-- An output stream that cannot take the result stops the instruction first (R279). -/
theorem issue_out (u : Use) (s : State) (t : Thread) (r : Res) (body : State → Thread → (Nat → Dword) → Res)
    (ht : s.thread s.cur = some t) (hc : useCause u s.cur t = none)
    (ho : ((s.lead s.cur t u.enc).holdPort s.cur t u.src).outStops s.cur t u.dst = some r) :
    issue u s body = .next (finish ((s.lead s.cur t u.enc).holdPort s.cur t u.src) s.cur t r) := by
  unfold issue
  simp only [ht, hc, ho]

/-- An input stream that gives no element stops the instruction (R279). -/
theorem issue_pop (u : Use) (s : State) (t : Thread) (r : Res) (body : State → Thread → (Nat → Dword) → Res)
    (ht : s.thread s.cur = some t) (hc : useCause u s.cur t = none)
    (ho : ((s.lead s.cur t u.enc).holdPort s.cur t u.src).outStops s.cur t u.dst = none)
    (hp : ((s.lead s.cur t u.enc).holdPort s.cur t u.src).pops s.cur t u.src [] = .error r) :
    issue u s body = .next (finish ((s.lead s.cur t u.enc).holdPort s.cur t u.src) s.cur t r) := by
  unfold issue
  simp only [ht, hc, ho, hp]

/-- Every issue of a slot that holds a thread ends in a next state. -/
theorem issue_next (u : Use) (s : State) (t : Thread) (body : State → Thread → (Nat → Dword) → Res)
    (ht : s.thread s.cur = some t) : ∃ s', issue u s body = .next s' := by
  unfold issue
  simp only [ht]
  repeat' split
  all_goals exact ⟨_, rfl⟩

/-- The issue for a slot that holds no thread. -/
theorem issue_none (u : Use) (s : State) (body : State → Thread → (Nat → Dword) → Res) (h : s.thread s.cur = none) :
    issue u s body = .fault .noThread := by
  unfold issue
  simp only [h]

@[simp] theorem finish_done (s0 s : State) (w : Who) (t : Thread) :
    finish s0 w t (.done s) = s.modThread w fun x => { x with pc := t.nextPc } := rfl
@[simp] theorem finish_jump (s0 s : State) (w : Who) (t : Thread) (pc : Half) :
    finish s0 w t (.jump s pc) = s.modThread w fun x => { x with pc } := rfl
@[simp] theorem finish_trap (s0 : State) (w : Who) (t : Thread) (c : Nat) (v : Dword) :
    finish s0 w t (.trap c v) = s0.takeTrap w c v t.pc := rfl
@[simp] theorem finish_after (s0 s : State) (w : Who) (t : Thread) (c : Nat) (v : Dword) :
    finish s0 w t (.after s c v) = (s.modThread w fun x => { x with pc := t.nextPc }).takeTrap w c v t.nextPc := rfl
@[simp] theorem finish_wait (s0 s : State) (w : Who) (t : Thread) (wt : Wait) :
    finish s0 w t (.wait s wt) = s.modThread w fun x => { x with run := .waiting wt s0.cycle } := rfl
@[simp] theorem finish_left (s0 s : State) (w : Who) (t : Thread) : finish s0 w t (.left s) = s := rfl

/-! Registers. -/

@[simp] theorem readG_zero (s : State) (w : Who) (t : Thread) : s.readG w t 0 = 0 := by simp [State.readG]

theorem readG_holdPort (s : State) (w : Who) (t : Thread) (l : List Nat) (n : Nat) :
    (s.holdPort w t l).readG w t n = s.readG w t n := by
  unfold State.holdPort
  split
  · simp [State.readG]
  · rfl

/-- Registers that no stream is bound to are read as they stand. -/
theorem pop_plain (s : State) (w : Who) (t : Thread) (n : Nat) (h : t.shadow n = true ∨ (s.core w.core).boundGen w.slot n = none) :
    s.pop w t n = .ok s (s.readG w t n) := by
  unfold State.pop
  cases hs : t.shadow n with
  | true => simp
  | false =>
    simp only [hs, Bool.false_eq_true, false_or] at h
    simp [h]

theorem pops_plain (s : State) (w : Who) (t : Thread) (l : List Nat) (acc : List (Nat × Dword))
    (h : ∀ n ∈ l, t.shadow n = true ∨ (s.core w.core).boundGen w.slot n = none)
    (ha : ∀ p ∈ acc, p.2 = s.readG w t p.1) :
    ∃ vals, s.pops w t l acc = .ok (s, vals) ∧ ∀ p ∈ vals, p.2 = s.readG w t p.1 := by
  induction l generalizing acc with
  | nil => exact ⟨acc, rfl, ha⟩
  | cons n l ih =>
    unfold State.pops
    split
    · exact ih acc (fun m hm => h m (List.mem_cons_of_mem _ hm)) ha
    · rw [pop_plain s w t n (h n (by simp))]
      refine ih _ (fun m hm => h m (List.mem_cons_of_mem _ hm)) ?_
      intro p hp
      rcases List.mem_cons.mp hp with rfl | hp
      · rfl
      · exact ha p hp

theorem readOf_plain (s : State) (w : Who) (t : Thread) (vals : List (Nat × Dword))
    (h : ∀ p ∈ vals, p.2 = s.readG w t p.1) : readOf s w t vals = s.readG w t := by
  funext n
  unfold readOf
  cases hf : vals.find? fun p => p.1 == n with
  | none => rfl
  | some p =>
    have h1 := List.find?_some hf
    have h2 := h p (List.mem_of_find?_eq_some hf)
    simp only [beq_iff_eq] at h1
    simp [h2, h1]

/-- A destination that no stream is bound to can take its result. -/
theorem outStop_plain (s : State) (w : Who) (t : Thread) (n : Nat)
    (h : t.shadow n = true ∨ (s.core w.core).boundGen w.slot n = none) : s.outStop w t n = none := by
  unfold State.outStop
  cases hs : t.shadow n with
  | true => rfl
  | false =>
    simp only [hs, Bool.false_eq_true, false_or] at h
    simp [h]

theorem outStops_plain (s : State) (w : Who) (t : Thread) (l : List Nat)
    (h : ∀ n ∈ l, t.shadow n = true ∨ (s.core w.core).boundGen w.slot n = none) : s.outStops w t l = none := by
  unfold State.outStops
  rw [List.findSome?_eq_none_iff]
  exact fun n hn => outStop_plain s w t n (h n hn)

/-- A write of a register that no stream is bound to joins the writes of fixed latency. -/
theorem writeG_plain (s : State) (w : Who) (t : Thread) (n : Nat) (v : Dword) (ht : s.thread w = some t)
    (h : t.shadow n = true ∨ (s.core w.core).boundGen w.slot n = none) :
    s.writeG w n v = if n = 0 then s else s.later w (t.gdest n) (v.zeroExtend 512) := by
  unfold State.writeG
  simp only [ht]
  cases hs : t.shadow n with
  | true => simp
  | false =>
    simp only [hs, Bool.false_eq_true, false_or] at h
    simp [h]

end Sys2Proof.Machine
end

