-- ==== Sys2Proof/Tests/Slice0.lean ====
section
/-!
SUPPORT. Tests. Expected results are worked out by hand from the rules named beside them, and words from the encodings of the spec.
The witnesses show that what a statement supposes can be met.
-/
namespace Sys2Proof.Tests

open Sys2Proof Sys2Proof.Machine Sys2Proof.Claims

set_option Elab.async false

/-! A small machine: a live partition of cluster 0, and one thread in slot 0 of core 0. -/

/-- The machine with a thread, its registers and a change to its core. -/
def machine (t : Thread) (regs : List (Nat × Dword)) (f : Core → Core) : State :=
  { State.reset.loaded with
    cores := [(0, f { Core.fresh false with threads := [(0, t)], groups := [(0, controlGroup 0 0)], nextGid := 1, gfile := regs })] }

/-- The same with the plain thread. -/
def plain (regs : List (Nat × Dword)) : State := machine loadedThread regs id

/-- The machine once what an instruction sent to the register files has been written there (R60). -/
def settle (s : State) : State := { ({ s with cycle := s.cycle + 9 } : State).landAll with cycle := s.cycle }

/-- The machine after an instruction, with its results written. -/
def ran (i : Instr) (s : State) : State := match exec i s with | .next x => settle x | _ => s

/-- A general register of the thread, after an instruction. -/
def gAfter (i : Instr) (regs : List (Nat × Dword)) (n : Nat) : Nat := (smGetD ((ran i (plain regs)).core 0).gfile n 0).toNat

/-- The thread after an instruction. -/
def tAfter (i : Instr) (s : State) : Thread := ((ran i s).thread { core := 0, slot := 0 }).getD Thread.fresh

/-- What an instruction names, taken apart. -/
def useD (i : Instr) : Use := (useOf i).getD { enc := 0, priv := false, wide := false, gs := [], ws := [], src := [], dst := [] }

/-- The machine and the sources once the streams have been read. -/
def popped (i : Instr) (s : State) (t : Thread) : State × List (Nat × Dword) :=
  match (ahead (useD i) s t).pops s.cur t (useD i).src [] with
  | .ok p => p
  | .error _ => (s, [])

/-- Whether an instruction comes to its own effect. -/
def comes (i : Instr) (s : State) (t : Thread) : Bool :=
  (useOf i).isSome && (!isLantern s.cur.core || lanternRuns (useD i).enc) && (!(useD i).priv || t.level != .u)
    && (!(useD i).wide || t.compute)
    && (useD i).gs.all (fun n => decide (t.gbase + n < t.glim) || (t.handler && decide (120 ≤ n)))
    && (useD i).ws.all (fun n => decide (n < t.wcount))
    && ((ahead (useD i) s t).outStops s.cur t (useD i).dst).isNone
    && (match (ahead (useD i) s t).pops s.cur t (useD i).src [] with | .ok _ => true | .error _ => false)

/-- The sources as an instruction sees them. -/
def reads (i : Instr) (s : State) (t : Thread) : Nat → Dword :=
  fun n => (((popped i s t).2.find? fun p => p.1 == n).map (·.2)).getD ((popped i s t).1.readG s.cur t n)

/-- An instruction comes to its own effect where the check says so. -/
theorem issues_of (i : Instr) (s : State) (t : Thread) (ht : s.thread s.cur = some t) (h : comes i s t = true) :
    Issues i s t (ahead (useD i) s t) (popped i s t).1 (reads i s t) := by
  simp only [comes, Bool.and_eq_true, Bool.or_eq_true, Bool.not_eq_true', Option.isNone_iff_eq_none] at h
  obtain ⟨⟨⟨⟨⟨⟨⟨hu, hl⟩, hp⟩, hw⟩, hg⟩, hws⟩, ho⟩, hpop⟩ := h
  have hu' : useOf i = some (useD i) := by
    unfold useD; cases hx : useOf i with
    | none => simp [hx] at hu
    | some u => rfl
  refine ⟨ht, useD i, (popped i s t).2, hu', ?_, ?_, ?_, ⟨?_, ?_⟩, rfl, ho, ?_, rfl⟩
  · intro x; simpa [x] using hl
  · intro x; simpa [x] using hp
  · intro x; simpa [x] using hw
  · intro n hn; have := List.all_eq_true.mp hg n hn; simpa using this
  · intro n hn; have := List.all_eq_true.mp hws n hn; simpa using this
  · unfold popped
    cases hx : (ahead (useD i) s t).pops s.cur t (useD i).src [] with
    | ok p => rfl
    | error e => simp [hx] at hpop

/-! Decoding. The words stand as the encoding tables of the spec lay them out (R79 to R88): every field has both its ends set. -/

/-- A decoder's answer is one instruction and nothing left over. -/
def gives (r : Except DecErr (Instr × List Half)) (i : Instr) : Bool :=
  match r with
  | .ok (j, []) => decide (j = i)
  | _ => false
/-- Each word decodes to its instruction and the instruction encodes to its word. -/
noncomputable def all32 (l : List (Nat × Instr)) : Bool :=
  l.all fun p => gives (decode (word32 p.1)) p.2 && decide (encode p.2 = word32 p.1)
/-- The same of compact instructions. -/
noncomputable def all16 (l : List (Nat × Instr)) : Bool :=
  l.all fun p => gives (decode [BitVec.ofNat 16 p.1]) p.2 && decide (encode p.2 = [BitVec.ofNat 16 p.1])
/-- Every instruction of a list comes to its own effect on the plain thread, with all registers zero. -/
def allIssue (l : List (Nat × Instr)) : Bool := l.all fun p => comes p.2 (plain []) loadedThread
/-- The decoder refuses each word as reserved (R86 check 2). -/
noncomputable def allReserved (l : List Nat) : Bool :=
  l.all fun v => match decode (word32 v) with | .error .reserved => true | _ => false
/-- The decoder refuses each word as an opcode that no instruction claims (R86 check 1). -/
noncomputable def allIllegal (l : List Nat) : Bool :=
  l.all fun v => match decode (word32 v) with | .error .illegal => true | _ => false
/-- The bits of a command from its eight words, word 0 at the lowest address (R87). -/
def cmdOf (ws : List Nat) : BitVec 256 := BitVec.ofNat 256 (ws.foldr (fun w acc => w + acc * 2 ^ 32) 0)
/-- Each command's words decode to it, and it encodes to them. -/
noncomputable def allCmd (l : List (List Nat × Instr)) : Bool :=
  l.all fun p => decide (decodeCmd (cmdOf p.1) = some p.2) && decide (cmdOfHalves (encode p.2) = cmdOf p.1)

/-- Words and what they stand for. -/
def wordsRegisterInteger : List (Nat × Instr) := [
    (0x8116D6D0, .add 69 90 109), (0x8116D6D1, .sub 69 90 109), (0x8116D6D2, .and 69 90 109), (0x8116D6D3, .or 69 90 109),
    (0x8116D6D4, .xor 69 90 109), (0x8116D6D5, .andn 69 90 109), (0x8116D6D6, .orn 69 90 109), (0x8116D6D7, .xnor 69 90 109),
    (0x8116D6D8, .sll 69 90 109), (0x8116D6D9, .srl 69 90 109), (0x8116D6DA, .sra 69 90 109), (0x8116D6DB, .rol 69 90 109),
    (0x8116D6DC, .ror 69 90 109), (0x8116D6DD, .seq 69 90 109), (0x8116D6DE, .slt 69 90 109), (0x8116D6DF, .sltZ 69 90 109),
    (0x8316D6D0, .min 69 90 109), (0x8316D6D1, .max 69 90 109), (0x8316D6D2, .minZ 69 90 109), (0x8316D6D3, .maxZ 69 90 109),
    (0x8316D6D4, .mul 69 90 109), (0x8316D6D5, .mulh 69 90 109), (0x8316D6D6, .mulhZ 69 90 109), (0x8316D6D7, .div 69 90 109),
    (0x8316D6D8, .divZ 69 90 109), (0x8316D6D9, .rem 69 90 109), (0x8316D6DA, .remZ 69 90 109), (0x8316D00B, .clz 69 90),
    (0x8316D00C, .ctz 69 90), (0x8316D00D, .popc 69 90), (0x8316D00E, .bswap 69 90), (0x8316D6DF, .csel 69 90 109)]

theorem test_decode_register_integer : all32 wordsRegisterInteger = true := by decide

theorem witness_issue_register_integer : allIssue wordsRegisterInteger = true := by decide

/-- Words and what they stand for. -/
def wordsImmediateAndBranch : List (Nat × Instr) := [
    (0x8516D5A3, .addi 69 90 1443), (0x8716D5A3, .andi 69 90 1443), (0x8916D5A3, .ori 69 90 1443), (0x8B16D5A3, .xori 69 90 1443),
    (0x8D16D02D, .slli 69 90 45), (0x8D16D06D, .srli 69 90 45), (0x8D16D0AD, .srai 69 90 45), (0x8D16D0ED, .roli 69 90 45),
    (0x8F16D5A3, .slti 69 90 1443), (0x9116D5A3, .sltiZ 69 90 1443), (0x9316A5C3, .lui 69 173507), (0x9516A5C3, .lhi 69 173507),
    (0x9716A5C3, .addpc 69 173507), (0x9916A5C3, .jal 69 173507), (0x9B16D5A3, .jalr 69 90 1443), (0x9D16D5A3, .beq 69 90 1443),
    (0x9F16D5A3, .bne 69 90 1443), (0xA116D5A3, .blt 69 90 1443), (0xA316D5A3, .bge 69 90 1443), (0xA516D5A3, .bltZ 69 90 1443),
    (0xA716D5A3, .bgeZ 69 90 1443)]

theorem test_decode_immediate_and_branch : all32 wordsImmediateAndBranch = true := by decide

theorem witness_issue_immediate_and_branch : allIssue wordsImmediateAndBranch = true := by decide

/-- Words and what they stand for. -/
def wordsLoadsAndStores : List (Nat × Instr) := [
    (0xA916D0A6, .ldB 69 90 166), (0xA916D1A6, .ldH 69 90 166), (0xA916D2A6, .ldW 69 90 166), (0xA916D3A6, .ldD 69 90 166),
    (0xA916D4A6, .ldBZ 69 90 166), (0xA916D5A6, .ldHZ 69 90 166), (0xA916D6A6, .ldWZ 69 90 166), (0xAB16D0A6, .stB 69 90 166),
    (0xAB16D1A6, .stH 69 90 166), (0xAB16D2A6, .stW 69 90 166), (0xAB16D3A6, .stD 69 90 166), (0xAD16D6D0, .ldp 69 90 109),
    (0xAD16D6D1, .stp 69 90 109), (0xAD16D6D2, .ldC 69 90 109), (0xAF16D000, .ldSync 69 90), (0xAF16D001, .ldTake 69 90),
    (0xAF16D002, .stFill 69 90), (0xAF16D003, .stWfill 69 90), (0xAE022804, .feClr 69), (0xAE022805, .feSet 69)]

theorem test_decode_loads_and_stores : all32 wordsLoadsAndStores = true := by decide

theorem witness_issue_loads_and_stores : allIssue wordsLoadsAndStores = true := by decide

/-- Words and what they stand for. -/
def wordsSynchronising : List (Nat × Instr) := [
    (0xB116D000, .lrw 69 90), (0xB116D6D1, .scq 69 90 109), (0xB0022802, .rsvDrop 69), (0xB116D6D3, .amoAdd 69 90 109),
    (0xB116D6D4, .amoAnd 69 90 109), (0xB116D6D5, .amoOr 69 90 109), (0xB116D6D6, .amoXor 69 90 109),
    (0xB116D6D7, .amoMin 69 90 109), (0xB116D6D8, .amoMax 69 90 109), (0xB116D6D9, .amoMinZ 69 90 109),
    (0xB116D6DA, .amoMaxZ 69 90 109), (0xB116D6DB, .amoSwp 69 90 109), (0xB116D6DC, .amoCas 69 90 109),
    (0xB116D6DD, .amoFadd 69 90 109), (0xB0022DAE, .detOpen 69 90), (0xB002280F, .detDone 69), (0xB2000005, .fence .sys),
    (0xB2000100, .acq .th), (0xB2000202, .rel .clu), (0xB2000303, .fenceC .die), (0xB516D000, .lockL 69 90),
    (0xB4022900, .unlockL 69)]

theorem test_decode_synchronising : all32 wordsSynchronising = true := by decide

theorem witness_issue_synchronising : allIssue wordsSynchronising = true := by decide

/-- Words and what they stand for. -/
def wordsStreams : List (Nat × Instr) := [
    (0xB7143020, .bind 69 6 .arrive), (0xB6003001, .unbind 6), (0xB61AD002, .agSet 6 90), (0xB71430A3, .agGet 69 6 10)]

theorem test_decode_streams : all32 wordsStreams = true := by decide

theorem witness_issue_streams : allIssue wordsStreams = true := by decide

/-- Words and what they stand for. -/
def wordsScalarFp : List (Nat × Instr) := [
    (0xB916D6D0, .fadd 69 90 109), (0xB916D6D1, .fsub 69 90 109), (0xB916D6D2, .fmul 69 90 109), (0xB916D6D3, .fdiv 69 90 109),
    (0xB916D004, .fsqrt 69 90), (0xB916D6D5, .fmin 69 90 109), (0xB916D6D6, .fmax 69 90 109), (0xB916D6D7, .feq 69 90 109),
    (0xB916D6D8, .flt 69 90 109), (0xB916D6D9, .fle 69 90 109), (0xB916D00A, .fclass 69 90), (0xB916D00B, .fabs 69 90),
    (0xB916D00C, .fneg 69 90), (0xB916D6DD, .fsgnj 69 90 109), (0xBB16D6D0, .fmadd 69 90 109), (0xBB16D6D1, .fmsub 69 90 109),
    (0xBB16D6D2, .fnmadd 69 90 109), (0xBB16D6D3, .fnmsub 69 90 109), (0xBD16D3A8, .cvt 69 90 .rup .f32 .f16)]

theorem test_decode_scalar_fp : all32 wordsScalarFp = true := by decide

theorem witness_issue_scalar_fp : allIssue wordsScalarFp = true := by decide

/-- Words and what they stand for. -/
def wordsSpecialFunctions : List (Nat × Instr) := [
    (0xBF16D000, .exp2 69 90), (0xBF16D001, .log2 69 90), (0xBF16D002, .rcp 69 90), (0xBF16D003, .rsqrt 69 90),
    (0xBF16D004, .sin 69 90), (0xBF16D005, .cos 69 90), (0xBF16D006, .sint 69 90), (0xBF16D007, .cost 69 90),
    (0xBF16D008, .tanh 69 90), (0xBF16D009, .sigm 69 90), (0xBF16D00A, .erf 69 90)]

theorem test_decode_special_functions : all32 wordsSpecialFunctions = true := by decide

theorem witness_issue_special_functions : allIssue wordsSpecialFunctions = true := by decide

/-- Words and what they stand for. -/
def wordsWideInteger : List (Nat × Instr) := [
    (0xC138F5C0, .wadd 9 12 7 5 .z64), (0xC138F741, .wsub 9 12 7 5 .i4), (0xC138F482, .wmul 9 12 7 5 .i32),
    (0xC138F503, .wmulh 9 12 7 5 .z8), (0xC138F544, .wmin 9 12 7 5 .z16), (0xC138F4C5, .wmax 9 12 7 5 .i64),
    (0xC1381486, .wabs 9 12 5 .i32), (0xC138F407, .wavg 9 12 7 5 .i8), (0xC138F448, .wsll 9 12 7 5 .i16),
    (0xC138F589, .wsrl 9 12 7 5 .z32), (0xC138F5CA, .wsra 9 12 7 5 .z64), (0xC138F74B, .wand 9 12 7 5 .i4),
    (0xC138F48C, .wor 9 12 7 5 .i32), (0xC138F50D, .wxor 9 12 7 5 .z8), (0xC138F54E, .wandn 9 12 7 5 .z16),
    (0xC138F4CF, .wadds 9 12 7 5 .i64)]

theorem test_decode_wide_integer : all32 wordsWideInteger = true := by decide

theorem witness_issue_wide_integer : allIssue wordsWideInteger = true := by decide

/-- Words and what they stand for. -/
def wordsWideFp : List (Nat × Instr) := [
    (0xC338F680, .wfadd 9 12 7 5 .f32), (0xC338F6C1, .wfsub 9 12 7 5 .e8m10), (0xC338F602, .wfmul 9 12 7 5 .f16),
    (0xC338F643, .wfma 9 12 7 5 .bf16), (0xC338F684, .wfmin 9 12 7 5 .f32), (0xC338F6C5, .wfmax 9 12 7 5 .e8m10),
    (0xC3381606, .wfabs 9 12 5 .f16), (0xC3381647, .wfneg 9 12 5 .bf16)]

theorem test_decode_wide_fp : all32 wordsWideFp = true := by decide

theorem witness_issue_wide_fp : allIssue wordsWideFp = true := by decide

/-- Words and what they stand for. -/
def wordsComparesAndMasks : List (Nat × Instr) := [
    (0xC4B39880, .wcmpeq 5 9 12 6 .i32), (0xC4B39901, .wcmplt 5 9 12 6 .z8), (0xC4B39802, .wcmple 5 9 12 6 .i8),
    (0xC4B39A43, .wfcmpeq 5 9 12 6 .bf16), (0xC4B39A84, .wfcmplt 5 9 12 6 .f32), (0xC4B39AC5, .wfcmple 5 9 12 6 .e8m10),
    (0xC4AC6006, .kand 5 6 3), (0xC4AC6007, .kor 5 6 3), (0xC4AC6008, .kxor 5 6 3), (0xC4AC0009, .knot 5 6), (0xC52A000A, .kpop 9 5)]

theorem test_decode_compares_and_masks : all32 wordsComparesAndMasks = true := by decide

theorem witness_issue_compares_and_masks : allIssue wordsComparesAndMasks = true := by decide

/-- Words and what they stand for. -/
def wordsLaneMovement : List (Nat × Instr) := [
    (0xC73816C0, .wbcast 9 12 5 .e8m10), (0xC738E241, .wins 9 12 7 .bf16), (0xC738E202, .wext 9 12 7 .f16),
    (0xC738F703, .wshuf 9 12 7 5 .c8), (0xC738F684, .wrot 9 12 7 5 .f32), (0xC738F4C5, .wzip 9 12 7 5 .i64),
    (0xC7381786, .wunzip 9 12 5 .z4), (0xC738F6C7, .wsel 9 12 7 5 .e8m10)]

theorem test_decode_lane_movement : all32 wordsLaneMovement = true := by decide

theorem witness_issue_lane_movement : allIssue wordsLaneMovement = true := by decide

/-- Words and what they stand for. -/
def wordsReductions : List (Nat × Instr) := [
    (0xC9381540, .wrsum 9 12 5 .z16), (0xC9381481, .wrmin 9 12 5 .i32), (0xC9381502, .wrmax 9 12 5 .z8),
    (0xC9381603, .wrfsum 9 12 5 .f16), (0xC9381644, .wrfmin 9 12 5 .bf16), (0xC9381685, .wrfmax 9 12 5 .f32),
    (0xCB383640, .wcvt 9 12 .i16 5 .bf16), (0xCB38F401, .wnarrow 9 12 7 5 .i8), (0xCB383542, .wwiden 9 12 1 5 .z16),
    (0xCB380283, .wenc 9 12 .f32), (0xCB386284, .wdec 9 12 3 .f32)]

theorem test_decode_reductions : all32 wordsReductions = true := by decide

theorem witness_issue_reductions : allIssue wordsReductions = true := by decide

/-- Words and what they stand for. -/
def wordsWideMemory : List (Nat × Instr) := [
    (0xCC2628A6, .wld 9 69 166), (0xCC2629A6, .wst 9 69 166), (0xCC262AA6, .wldSync 9 69 166), (0xCC262BA6, .wstFill 9 69 166)]

theorem test_decode_wide_memory : all32 wordsWideMemory = true := by decide

theorem witness_issue_wide_memory : allIssue wordsWideMemory = true := by decide

/-- Words and what they stand for. -/
def wordsGangsAndEngines : List (Nat × Instr) := [
    (0xCE022802, .gangForm 69 2), (0xCE000100, .gangEnd), (0xCE000200, .gangBar), (0xD13C0000, .push 9 true .cp),
    (0xD00629A6, .pushm .mx 69 166), (0xD00A2A00, .engWait .vx 69), (0xD00E2B00, .engPoll .cp 69), (0xD2022809, .tcfgSet 69 9),
    (0xD3140109, .tcfgGet 69 9), (0xD2022A02, .accLoad 69 2)]

theorem test_decode_gangs_and_engines : all32 wordsGangsAndEngines = true := by decide

theorem witness_issue_gangs_and_engines : allIssue wordsGangsAndEngines = true := by decide

/-- Words and what they stand for. -/
def wordsMessagesAndTasks : List (Nat × Instr) := [
    (0xD4022DA0, .msgSend 69 90), (0xD4022DA1, .msgSendw 69 90), (0xD5140692, .msgBind 69 true 2 9), (0xD4000093, .msgWait 9),
    (0xD6022800, .taskPush 69), (0xD6022DA1, .taskSend 69 90), (0xD6000002, .retire), (0xD6022DA3, .retireS 69 90),
    (0xD6000004, .taskAbort), (0xD7140005, .tstamp 69), (0xD6022DA6, .detList 69 90), (0xD6022DA7, .detWait 69 90),
    (0xD916D000, .thrSpawn 69 90), (0xD8000100, .thrExit), (0xD8000200, .thrPark), (0xD8022B00, .thrWake 69)]

theorem test_decode_messages_and_tasks : all32 wordsMessagesAndTasks = true := by decide

theorem witness_issue_messages_and_tasks : allIssue wordsMessagesAndTasks = true := by decide

/-- Words and what they stand for. -/
def wordsBarriersAndNests : List (Nat × Instr) := [
    (0xDA022DA0, .barInit 69 90), (0xDA022801, .barArr 69), (0xDA022802, .barWait 69), (0xDA022803, .barAw 69),
    (0xDA004864, .redSend 9 true 2), (0xDA240005, .redRecv 9), (0xDC022DA0, .nestSet 69 90), (0xDD16D001, .nestClaim 69 90),
    (0xDD140002, .nestNext 69), (0xDC022803, .nestEnd 69)]

theorem test_decode_barriers_and_nests : all32 wordsBarriersAndNests = true := by decide

theorem witness_issue_barriers_and_nests : allIssue wordsBarriersAndNests = true := by decide

/-- Words and what they stand for. -/
def wordsContexts : List (Nat × Instr) := [
    (0xDF16D000, .ctxOpen 69 90), (0xDE022801, .ctxClose 69), (0xDF16D6D2, .editIns 69 90 109), (0xDF16D003, .editDel 69 90),
    (0xDF16D6D4, .editChg 69 90 109), (0xDF16D6D5, .ctxFork 69 90 109), (0xDF16D6D6, .ctxRope 69 90 109),
    (0xE116D000, .dmapGet 69 90), (0xE0022DA1, .dmapMov 69 90), (0xE0022DA2, .settle 69 90), (0xE116D6D3, .ctxRd 69 90 109),
    (0xE0022804, .ctxRel 69), (0xE0022DA5, .beamMap 69 90), (0xE0022DA6, .ptbFill 69 90), (0xE0022807, .ptbInv 69),
    (0xE116D6D8, .posXl 69 90 109)]

theorem test_decode_contexts : all32 wordsContexts = true := by decide

theorem witness_issue_contexts : allIssue wordsContexts = true := by decide

/-- Words and what they stand for. -/
def wordsSystem : List (Nat × Instr) := [
    (0xE3140050, .mfs 69 .cyc), (0xE3140862, .mts 69 .ix2), (0xE20015A3, .trap 1443), (0xE2001800, .hret), (0xE2002000, .tret),
    (0xE3142DA3, .hcall 69 1443), (0xE2003000, .nop), (0xE2003800, .wfe), (0xE516D000, .tlbInv 69 90), (0xE4022900, .tlbAll 69),
    (0xE4000101, .tlbAllPart), (0xE4022A00, .istInv 69), (0xE4022BA6, .klog 69 166), (0xE4022C2D, .tsave 69 45),
    (0xE516D500, .trest 69 90)]

theorem test_decode_system : all32 wordsSystem = true := by decide

theorem witness_issue_system : allIssue wordsSystem = true := by decide

/-- Words and what they stand for. -/
noncomputable def wordsCompact : List (Nat × Instr) := [
    (0x04E0, .cMv 9 12), (0x0CE0, .cAdd 9 12), (0x14E0, .cSub 9 12), (0x1CC5, .cAddi 9 69), (0x24C5, .cLi 9 69),
    (0x2CE5, .cLdW 9 12 5), (0x34E5, .cLdD 9 12 5), (0x3CE5, .cStW 9 12 5), (0x44E5, .cStD 9 12 5), (0x4CE0, .cAnd 9 12),
    (0x54AD, .cSll 9 45), (0x5CC5, .cBeqz 9 69), (0x64C5, .cBnez 9 69), (0x6DA3, .cJ 1443), (0x7480, .cRet 9), (0x7800, .cNop)]

theorem test_decode_compact : all16 wordsCompact = true := by decide

theorem witness_issue_compact : allIssue wordsCompact = true := by decide
/-! Words that the spec writes out beside an instruction, and reserved patterns, each refused by its name (R80, R86). -/

theorem test_decode_worked_words_a : all32 [
    (0x80182850, .add 6 5 5), (0xA8142302, .ldD 5 4 2), (0xB2000301, .fenceC .core), (0x92242469, .lui 9 0x2469),
    (0x84244D67, .addi 9 9 0x567), (0xBA284090, .fmadd 10 8 9), (0xBC1C3CA8, .cvt 7 7 .dyn .f32 .f16),
    (0xC2402283, .wfma 2 0 1 0 .f32), (0xAA144200, .stW 5 8 0), (0xAC1C3092, .ldC 7 6 9), (0xAE184000, .ldSync 6 8),
    (0xAE144003, .stWfill 5 8), (0xE20C0010, .mfs 3 .tstamp), (0xE2140822, .mts 5 .mpol), (0xE4182000, .tlbInv 6 4),
    (0xE4002307, .klog 4 7), (0xE4002403, .tsave 4 3), (0xE4142500, .trest 5 4)] = true := by decide

theorem test_decode_worked_words_b : all32 [
    (0xE2001005, .trap 5), (0xE2001800, .hret), (0xE2002000, .tret), (0xE2102801, .hcall 4 1), (0xE2003000, .nop),
    (0xE2003800, .wfe), (0xB0182000, .lrw 6 4), (0xB01C2061, .scq 7 4 6), (0xB0182053, .amoAdd 6 4 5), (0xB2000203, .rel .die),
    (0xB2000104, .acq .pkg), (0xB4142000, .lockL 5 4), (0xB6500000, .bind 20 0 .input), (0xD60070F3, .retireS 14 15),
    (0xD6000002, .retire), (0xE0142003, .ctxRd 5 4 0), (0xE0002804, .ctxRel 5), (0xCE002802, .gangForm 5 2),
    (0xE4002100, .tlbAll 4), (0xE2340014, .mfs 13 .inh), (0x9E340004, .bne 13 0 4), (0x863048FF, .andi 12 9 0xFF),
    (0x9E306FFB, .bne 12 13 0x7FB), (0x8C346860, .srli 13 13 32), (0x8C346820, .slli 13 13 32), (0xD6006000, .taskPush 12)] = true := by decide

/-- Words and what they stand for. -/
noncomputable def wordsMatrixCommands : List (List Nat × Instr) := [
    ([0x10018123, 0x12d05, 0x11111110, 0x80000022, 0x33, 0x44000000, 0x55555540, 0xffffffff], .mxMma 0x8123 true false true 45 5 0x11111110 0x80000022 0x33 0x44000000 0x55555540 0xFFFFFFFF),
    ([0x10008123, 0x22d05, 0x11111110, 0x80000022, 0x33, 0x44000000, 0x55555540, 0xffffffff], .mxMma 0x8123 false true false 45 5 0x11111110 0x80000022 0x33 0x44000000 0x55555540 0xFFFFFFFF),
    ([0x10100007, 0x89abcd40, 0x1234567, 0x1000, 0x2040, 0, 0, 0], .mxLdb 7 0x0123456789ABCD40 0x1000 0x2040),
    ([0x10210008, 0x92106, 0x400, 0x80, 0, 0, 0, 0], .mxLdt 8 true 9 33 6 0x400 0x80),
    ([0x10370009, 0x82007, 0x89abcd40, 0x1234567, 0x76543210, 0xfedcba98, 0x40, 0x3c01], .mxStt 9 true true true 8 32 7 0x0123456789ABCD40 0xFEDCBA9876543210 0x40 0x3C01),
    ([0x10320009, 0x82007, 0, 0, 0x76543210, 0xfedcba98, 0x40, 0], .mxStt 9 false true false 8 32 7 0 0xFEDCBA9876543210 0x40 0),
    ([0x1040000a, 0xa5, 0, 0, 0, 0, 0, 0], .mxZero 10 0xA5),
    ([0x1051000b, 0, 0x1240, 0, 0, 0, 0, 0], .mxQk 11 true 0x1240),
    ([0x1061000c, 3, 0x1240, 0, 0, 0, 0, 0], .mxPv 12 true 3 0x1240)]

theorem test_decode_matrix_commands : allCmd wordsMatrixCommands = true := by decide

/-- Words and what they stand for. -/
noncomputable def wordsVectorCommands : List (List Nat × Instr) := [
    ([0x2000fff0, 0x11, 0x22000000, 0x33, 0x44000000, 0x55, 0x66000000, 0x77], .vxMap 0xFFF0 false (VecOps.mk 0x11 0x22000000 0x33 0x44000000 0x55 0x66000000 0x77)),
    ([0x2011fff1, 0x11, 0x22000000, 0x33, 0x44000000, 0x55, 0x66000000, 0x77], .vxFma 0xFFF1 true (VecOps.mk 0x11 0x22000000 0x33 0x44000000 0x55 0x66000000 0x77)),
    ([0x2020fff2, 0x11, 0x22000000, 0x33, 0x44000000, 0x55, 0x66000000, 0x77], .vxRed 0xFFF2 false (VecOps.mk 0x11 0x22000000 0x33 0x44000000 0x55 0x66000000 0x77)),
    ([0x2031fff3, 0x11, 0x22000000, 0x33, 0x44000000, 0x55, 0x66000000, 0x77], .vxExpsum 0xFFF3 true (VecOps.mk 0x11 0x22000000 0x33 0x44000000 0x55 0x66000000 0x77)),
    ([0x2040fff4, 0x11, 0x22000000, 0x33, 0x44000000, 0x55, 0x66000000, 0x77], .vxNorm 0xFFF4 false (VecOps.mk 0x11 0x22000000 0x33 0x44000000 0x55 0x66000000 0x77)),
    ([0x2051fff5, 0x11, 0x22000000, 0x33, 0x44000000, 0x55, 0x66000000, 0x77], .vxRequant 0xFFF5 true (VecOps.mk 0x11 0x22000000 0x33 0x44000000 0x55 0x66000000 0x77)),
    ([0x20610005, 0x11, 0x22000000, 0x3c01, 0x89abcd40, 0x1234567, 0x76543210, 0xfedcba98], .vxCmpst 5 true 0x11 0x22000000 0x3C01 0x0123456789ABCD40 0xFEDCBA9876543210),
    ([0x2071fff7, 0x11, 0x22000000, 0x33, 0x44000000, 0x55, 0x66000000, 0x77], .vxTopk 0xFFF7 true (VecOps.mk 0x11 0x22000000 0x33 0x44000000 0x55 0x66000000 0x77)),
    ([0x2080fff8, 0x11, 0x22000000, 0x33, 0x44000000, 0x55, 0x66000000, 0x77], .vxKsum 0xFFF8 false (VecOps.mk 0x11 0x22000000 0x33 0x44000000 0x55 0x66000000 0x77)),
    ([0x2091fff9, 0x11, 0x22000000, 0x33, 0x44000000, 0x55, 0x66000000, 0x77], .vxCvt 0xFFF9 true (VecOps.mk 0x11 0x22000000 0x33 0x44000000 0x55 0x66000000 0x77))]

theorem test_decode_vector_commands : allCmd wordsVectorCommands = true := by decide

/-- Words and what they stand for. -/
noncomputable def wordsCopyCommands : List (List Nat × Instr) := [
    ([0x30060001, 0x89abcd40, 0x1234567, 0x76543210, 0xfedcba98, 0x40, 0xffffffff, 0], .cpCopy 1 false true true 0x0123456789ABCD40 0xFEDCBA9876543210 0x40 0xFFFFFFFF),
    ([0x30150001, 0x89abcd40, 0x1234567, 0x76543210, 0xfedcba98, 0x40, 0x1234, 0x100], .cpGather 1 true false true 0x0123456789ABCD40 0xFEDCBA9876543210 0x40 0x1234 0x100),
    ([0x30220001, 0x89abcd40, 0x1234567, 0x76543210, 0xfedcba98, 0x40, 0x1234, 0x100], .cpScatter 1 false true false 0x0123456789ABCD40 0xFEDCBA9876543210 0x40 0x1234 0x100),
    ([0x30340002, 0x89abcd40, 0x1234567, 0x40, 0xdeadbeef, 0, 0, 0], .cpFill 2 true false 0x0123456789ABCD40 0x40 0xDEADBEEF),
    ([0x30380002, 0x1000, 0, 0x40, 0xdeadbeef, 0, 0, 0], .cpFill 2 false true 0x1000 0x40 0xDEADBEEF),
    ([0x30410003, 0x1abcde, 0x89abcd40, 0x1234567, 0x76543210, 0xfedcba98, 0x40, 0], .cpPut 3 true false 0x1ABCDE 0x0123456789ABCD40 0xFEDCBA9876543210 0x40),
    ([0x30520003, 0x1abcde, 0x89abcd40, 0x1234567, 0x76543210, 0xfedcba98, 0x40, 0], .cpGet 3 false true 0x1ABCDE 0x0123456789ABCD40 0xFEDCBA9876543210 0x40),
    ([0x30610004, 0x1abcde, 0x89abcd40, 0x1234567, 9, 0x40, 0, 0], .cpAmo 4 true 0x1ABCDE 0x0123456789ABCD40 9 0x40),
    ([0x30700005, 0x7fe, 0x89abcd40, 0x1234567, 0x40, 0x80, 0, 0], .cpIst 5 0x7FE 0x0123456789ABCD40 0x40 0x80),
    ([0x30800006, 0x2a62d, 0x11, 0x22, 0x89abcd40, 0x2004567, 0x100, 0xffffffff], .cpFrame 6 45 0xA6 2 0x11 0x22 0x456789ABCD40 2 0x100 0xFFFFFFFF)]

theorem test_decode_copy_commands : allCmd wordsCopyCommands = true := by decide
theorem test_decode_reserved : allReserved [0xAA000400, 0xA8000700,
    0xB6000000, 0xB6144000, 0xB6140030, 0xB61400B3, 0xB6200002, 0xB6004801, 0xBC1430AA, 0xBC14300A, 0xBC1435A8, 0xC0000280,
    0xC0000186, 0xC2000080, 0xC4000340, 0xC4000304, 0xC6000343, 0xC60003C7, 0xC8000200, 0xC8000084, 0xCA004040, 0xCA002040,
    0xCA000281, 0xCA004002, 0xCA000303, 0xCA008284, 0xCA004204, 0xCA000304, 0xCE002800, 0xD4000402, 0xDA000834, 0xDE000800,
    0xDE000005, 0xE0000003, 0xE2002801, 0xB2000006, 0xE2040007, 0xD0001A00, 0xD6040002] = true := by decide

theorem test_decode_illegal : allIllegal [0xFE000000, 0xAE000006, 0xB2000400] = true := by decide

/-! Terms that the encoding does not admit, one for each check of `Instr.wf`. -/

theorem test_ill_formed : (List.all [
    .bind 0 1 .input, .agGet 5 0 11, .cvt 5 6 .rne .f32 .f32, .cvt 5 6 .rne .i8 .f32, .cvt 5 6 .rne .f32 .z32,
    .wadd 0 1 2 0 .f32, .wsub 0 1 2 0 .f16, .wmul 0 1 2 0 .bf16, .wmulh 0 1 2 0 .e8m10, .wmin 0 1 2 0 .c8, .wmax 0 1 2 0 .f32,
    .wabs 0 1 0 .z32, .wavg 0 1 2 0 .f32, .wsll 0 1 2 0 .f32, .wsrl 0 1 2 0 .f32, .wsra 0 1 2 0 .f32, .wand 0 1 2 0 .f32,
    .wor 0 1 2 0 .f32, .wxor 0 1 2 0 .f32, .wandn 0 1 2 0 .f32, .wadds 0 1 2 0 .f32, .wfadd 0 1 2 0 .i32, .wfsub 0 1 2 0 .c8,
    .wfmul 0 1 2 0 .z8, .wfma 0 1 2 0 .i4, .wfmin 0 1 2 0 .i16, .wfmax 0 1 2 0 .z4, .wfabs 0 1 0 .i32, .wfneg 0 1 0 .i32,
    .wcmpeq 0 1 2 0 .i4, .wcmplt 0 1 2 0 .z4, .wcmple 0 1 2 0 .f32, .wfcmpeq 0 1 2 0 .i32, .wfcmplt 0 1 2 0 .c8,
    .wfcmple 0 1 2 0 .z64, .wshuf 0 1 2 0 .i4, .wshuf 0 1 2 0 .z4, .wrsum 5 1 0 .i4, .wrmin 5 1 0 .f32, .wrmax 5 1 0 .c8,
    .wrfsum 5 1 0 .i32, .wrfmin 5 1 0 .z8, .wrfmax 5 1 0 .c8, .wcvt 0 1 .i16 0 .i16, .wcvt 0 1 .i16 0 .i32, .wcvt 0 1 .i8 0 .z8,
    .wnarrow 0 1 2 0 .f32, .wwiden 0 1 2 0 .i8, .wwiden 0 1 0 0 .z64, .wenc 0 1 .i8, .wdec 0 1 4 .f32, .wdec 0 1 2 .bf16,
    .wdec 0 1 0 .i8, .gangForm 5 0, .msgBind 0 true 0 3, .msgBind 0 false 1 3, .redSend 1 false 3, .ctxOpen 0 5, .ctxFork 0 5 6,
    .ctxRd 0 5 6, .hcall 0 1] fun i => !Instr.wf i) = true := by decide

theorem test_add_wraps : gAfter (.add 6 5 5) [(5, 0x8000000000000001)] 6 = 2 := by decide

theorem test_issue_add : comes (.add 6 5 5) (plain [(5, 1)]) loadedThread = true := by decide

/-! Steps and issue. -/

/-- The first state of the machine in which a program runs: `add g6, g5, g5` stands at the pc of its one thread. -/
def addFirst : State := State.reset.withFetchWord 32 0x80182850

theorem witness_StepRunsDecoded : addFirst.duty = none ∧ addFirst.issuer = some ({ core := 0, slot := 0 }, loadedThread)
    ∧ loadedThread.next = [] ∧ ¬ isFollower loadedThread ∧ isLantern 0 = false ∧ loadedThread.ahead = []
    ∧ decode (halvesAt addFirst 0 loadedThread.pc) = .ok (.add 6 5 5, []) :=
  ⟨rfl, rfl, rfl, fun ⟨_, h, _⟩ => by simp [loadedThread, Thread.fresh] at h, rfl, rfl, rfl⟩

theorem test_step_runs_decoded : step addFirst = exec (.add 6 5 5) (addFirst.atIssue { core := 0, slot := 0 } { loadedThread with ilen := 4 }) := rfl

theorem witness_StepsDue_reset : State.reset.takeDue = some (.deviceReset, { State.reset with agenda := [] })
    ∧ State.sleeping { State.reset with agenda := [] } .deviceReset = none := ⟨rfl, rfl⟩
/-- The slot that runs in these tests. -/
abbrev w0 : Who := { core := 0, slot := 0 }
/-- Its thread. -/
abbrev th : Thread := loadedThread


theorem witness_StepsDue_sleeping :
    let s : State := { plain [] with dies := [(0, { Die.fresh with retained := true })], agenda := [{ due := 0, ev := .hostWrite 0 0 [] }] }
    s.takeDue = some (.hostWrite 0 0 [], { s with agenda := [] }) ∧ State.sleeping { s with agenda := [] } (.hostWrite 0 0 []) = some 0 :=
  ⟨rfl, rfl⟩

theorem witness_StepsDue_commands : decodeCmd (cmdOf [0x1040000a, 0xa5, 0, 0, 0, 0, 0, 0]) = some (.mxZero 10 0xA5)
    ∧ decodeCmd (cmdOf [0x1040000a, 0x1a5, 0, 0, 0, 0, 0, 0]) = none := ⟨rfl, rfl⟩

/-- No stream is bound in the plain machine. -/
theorem unbound_plain (regs : List (Nat × Dword)) (n : Nat) : Unbound (plain regs) w0 th n := Or.inr rfl

theorem witness_SourceReads_a : useOf (.add 6 5 7) = some (useD (.add 6 5 7)) ∧ (plain []).thread w0 = some th
    ∧ LanternOk (useD (.add 6 5 7)) w0 ∧ LevelOk (useD (.add 6 5 7)) th ∧ WideOk (useD (.add 6 5 7)) th ∧ RegsOk (useD (.add 6 5 7)) th
    ∧ ∀ n ∈ (useD (.add 6 5 7)).src ++ (useD (.add 6 5 7)).dst, Unbound (plain []) w0 th n :=
  ⟨rfl, rfl, fun h => (by cases h), fun h => (by cases h), fun h => (by cases h), ⟨by decide, by decide⟩, fun n _ => unbound_plain [] n⟩

/-- Four sources in one bank: `fmadd g4, g8, g12` (R58). -/
theorem witness_SourceReads_three : (3 ≤ bankReads th (useD (.fmadd 4 8 12)).src 0) ∧ ((plain []).core 0).rot = 0
    ∧ bankReads th (useD (.fmadd 4 8 13)).src 0 = 2 ∧ th.gang = none ∧ th.mirmask = 0 := by decide
theorem test_port_hold : ahead (useD (.fmadd 4 8 12)) (plain []) th = (plain []).modCore 0 (fun c => { c with late := 1, portBusy := 2 }) := rfl
theorem test_no_port_hold : ahead (useD (.fmadd 4 8 13)) (plain []) th = plain [] := rfl

/-! Each check of R86, at its boundary. -/
theorem witness_IssueChecks_lantern : let s : State := { plain [] with cur := { core := 2048, slot := 0 } }
    ¬ LanternOk (useD (.wadd 1 2 3 0 .i8)) s.cur ∧ LanternOk (useD (.add 6 5 7)) s.cur :=
  ⟨fun h => absurd (h rfl) (by decide), fun _ => by decide⟩
theorem witness_IssueChecks_level : ¬ LevelOk (useD .tret) { th with level := .u } ∧ LevelOk (useD .tret) th :=
  ⟨fun h => h rfl rfl, fun _ => (by decide)⟩
theorem witness_IssueChecks_wide : ¬ WideOk (useD (.kpop 5 1)) { th with compute := false } := fun h => absurd (h rfl) (by decide)
theorem witness_IssueChecks_regs : RegsOk (useD (.add 15 5 7)) { th with glim := 16 } ∧ ¬ RegsOk (useD (.add 16 5 7)) { th with glim := 16 }
    ∧ RegsOk (useD (.add 120 5 7)) { th with glim := 16, handler := true } ∧ ¬ RegsOk (useD (.add 119 5 7)) { th with glim := 16, handler := true }
    ∧ RegsOk (useD (.wor 7 0 0 0 .i8)) { th with wcount := 8 } ∧ ¬ RegsOk (useD (.wor 8 0 0 0 .i8)) { th with wcount := 8 } := by
  simp only [RegsOk]; decide
theorem test_user_level_stops_tret : (let t := { th with level := Level.u }
    exec .tret (machine t [] id)) = .next ((machine { th with level := Level.u } [] id).takeTrap w0 cPrivileged 0xE2002000 0) := rfl
theorem test_reg_limit : (let t := { th with level := Level.u, glim := 16 }
    exec (.add 16 5 7) (machine t [] id)) = .next ((machine { th with level := Level.u, glim := 16 } [] id).takeTrap w0 cRegLimit 0x80402870 0) := rfl

/-- A word with a reserved field: `add` has none, so `wadd` with type f32 (R82). -/
theorem witness_IssueChecks_decode : let s := State.reset.withFetchWord 32 (0xC0000000 + 10 * 64)
    s.duty = none ∧ s.issuer = some (w0, th) ∧ decode (halvesAt s 0 th.pc) = .error .reserved := ⟨rfl, rfl, rfl⟩
theorem witness_IssueChecks_illegal : let s := State.reset.withFetchWord 32 0xFE000000
    s.duty = none ∧ s.issuer = some (w0, th) ∧ decode (halvesAt s 0 th.pc) = .error .illegal := ⟨rfl, rfl, rfl⟩
/-- The statement's own results name every instruction of a list. -/
theorem witness_IntegerResults_register : (([.add 6 5 7, .sub 6 5 7, .and 6 5 7, .or 6 5 7, .xor 6 5 7, .andn 6 5 7, .orn 6 5 7, .xnor 6 5 7,
    .sll 6 5 7, .srl 6 5 7, .sra 6 5 7, .rol 6 5 7, .ror 6 5 7, .seq 6 5 7, .slt 6 5 7, .sltZ 6 5 7, .min 6 5 7, .max 6 5 7, .minZ 6 5 7,
    .maxZ 6 5 7, .mul 6 5 7, .mulh 6 5 7, .mulhZ 6 5 7, .div 6 5 7, .divZ 6 5 7, .rem 6 5 7, .remZ 6 5 7, .clz 6 5, .ctz 6 5, .popc 6 5,
    .bswap 6 5, .csel 6 5 7, .cMv 6 5, .cAdd 6 5, .cSub 6 5, .cAnd 6 5] : List Instr).all fun i =>
      (registerResult i).isSome && comes i (plain []) th) = true := by decide

theorem witness_IntegerResults_immediate : (([.addi 6 5 0x567, .andi 6 5 0x400, .ori 6 5 1, .xori 6 5 2, .slli 6 5 63, .srli 6 5 63, .srai 6 5 0,
    .roli 6 5 1, .slti 6 5 0x7FF, .sltiZ 6 5 0x7FF, .lui 6 0x3FFFF, .lhi 6 0x3FFFF, .addpc 6 0x20000, .cAddi 6 0x40, .cLi 6 0x3F, .cSll 6 63] :
    List Instr).all fun i => (immediateResult 0 i).isSome && comes i (plain []) th) = true := by decide

/-- Runs an instruction with g5, g7 and g6 and gives g6. -/
def g6 (p : Instr × Dword × Dword × Dword × Nat) : Bool := gAfter p.1 [(5, p.2.1), (6, p.2.2.2.1), (7, p.2.2.1)] 6 == p.2.2.2.2

/-- R114: results worked out by hand. -/
theorem test_integer_results_a : ([(.add 6 5 7, 0xFFFFFFFFFFFFFFFF, 2, 0, 1), (.sub 6 5 7, 1, 2, 0, 0xFFFFFFFFFFFFFFFF),
    (.and 6 5 7, 0xF0F0, 0xFF00, 0, 0xF000), (.or 6 5 7, 0xF0F0, 0xFF00, 0, 0xFFF0), (.xor 6 5 7, 0xF0F0, 0xFF00, 0, 0x0FF0),
    (.andn 6 5 7, 0xF0F0, 0xFF00, 0, 0x00F0), (.orn 6 5 7, 0, 0xFF00, 0, 0xFFFFFFFFFFFF00FF), (.xnor 6 5 7, 0xF0F0, 0xFF00, 0, 0xFFFFFFFFFFFFF00F),
    (.sll 6 5 7, 3, 0x7F, 0, 0x8000000000000000), (.srl 6 5 7, 0x8000000000000000, 63, 0, 1),
    (.sra 6 5 7, 0x8000000000000000, 63, 0, 0xFFFFFFFFFFFFFFFF), (.rol 6 5 7, 0x8000000000000001, 1, 0, 3),
    (.ror 6 5 7, 3, 1, 0, 0x8000000000000001), (.seq 6 5 7, 5, 5, 0, 1), (.slt 6 5 7, 0xFFFFFFFFFFFFFFFF, 0, 0, 1),
    (.sltZ 6 5 7, 0xFFFFFFFFFFFFFFFF, 0, 9, 0), (.min 6 5 7, 0xFFFFFFFFFFFFFFFF, 3, 0, 0xFFFFFFFFFFFFFFFF),
    (.max 6 5 7, 0xFFFFFFFFFFFFFFFF, 3, 0, 3), (.minZ 6 5 7, 0xFFFFFFFFFFFFFFFF, 3, 0, 3),
    (.maxZ 6 5 7, 0xFFFFFFFFFFFFFFFF, 3, 0, 0xFFFFFFFFFFFFFFFF)] : List (Instr × Dword × Dword × Dword × Nat)).all g6 = true := by decide

/-- R114, R115: the smallest integer divided by minus one wraps, and division by zero gives all ones and the dividend. -/
theorem test_integer_results_b : ([(.mul 6 5 7, 0x100000001, 0x100000001, 0, 0x200000001),
    (.mulh 6 5 7, 0xFFFFFFFFFFFFFFFF, 2, 0, 0xFFFFFFFFFFFFFFFF), (.mulhZ 6 5 7, 0xFFFFFFFFFFFFFFFF, 2, 0, 1),
    (.div 6 5 7, 0xFFFFFFFFFFFFFFF9, 2, 0, 0xFFFFFFFFFFFFFFFD), (.div 6 5 7, 0x8000000000000000, 0xFFFFFFFFFFFFFFFF, 0, 0x8000000000000000),
    (.divZ 6 5 7, 7, 0, 0, 0xFFFFFFFFFFFFFFFF), (.divZ 6 5 7, 0xFFFFFFFFFFFFFFF9, 2, 0, 0x7FFFFFFFFFFFFFFC),
    (.rem 6 5 7, 0xFFFFFFFFFFFFFFF9, 2, 0, 0xFFFFFFFFFFFFFFFF), (.rem 6 5 7, 0x8000000000000000, 0xFFFFFFFFFFFFFFFF, 5, 0),
    (.remZ 6 5 7, 7, 0, 0, 7), (.remZ 6 5 7, 7, 4, 0, 3), (.clz 6 5, 0, 0, 0, 64), (.clz 6 5, 0x0000000100000000, 0, 0, 31),
    (.ctz 6 5, 0, 0, 0, 64), (.ctz 6 5, 0x0000000100000000, 0, 0, 32), (.popc 6 5, 0xF0000000000000F1, 0, 0, 9),
    (.bswap 6 5, 0x0102030405060708, 0, 0, 0x0807060504030201), (.csel 6 5 7, 1, 2, 9, 1), (.csel 6 5 7, 1, 2, 0, 2)] :
    List (Instr × Dword × Dword × Dword × Nat)).all g6 = true := by decide

/-- R117, R118 and the compact forms of R81; the constant 0x01234567 of the spec's example of `lui` and `addi`. -/
theorem test_immediate_results : ([(.addi 6 5 0x567, 0x1234800, 0, 0, 0x1234567), (.andi 6 5 0x7FF, 0xFFFF0000, 0, 0, 0xFFFF0000),
    (.ori 6 5 0x400, 1, 0, 0, 0xFFFFFFFFFFFFFC01), (.xori 6 5 0x7FF, 0, 0, 0, 0xFFFFFFFFFFFFFFFF), (.slli 6 5 63, 3, 0, 0, 0x8000000000000000),
    (.srli 6 5 63, 0x8000000000000000, 0, 0, 1), (.srai 6 5 4, 0x8000000000000000, 0, 0, 0xF800000000000000), (.roli 6 5 4, 0xF000000000000000, 0, 0, 15),
    (.slti 6 5 0x7FF, 0xFFFFFFFFFFFFFFFE, 0, 0, 1), (.sltiZ 6 5 0x7FF, 5, 0, 0, 1), (.lui 6 0x2469, 0, 0, 0, 0x1234800),
    (.lui 6 0x3FFFF, 0, 0, 0, 0xFFFFFFFFFFFFF800), (.lhi 6 0x2B001, 0, 0, 5, 0x16B001), (.addpc 6 0x3FFFF, 0, 0, 0, 0xFFFE), (.addpc 6 0x20, 0, 0, 0, 0x40),
    (.cAddi 6 0x7F, 0, 0, 5, 4), (.cLi 6 0x40, 0, 0, 5, 0xFFFFFFFFFFFFFFC0), (.cMv 6 5, 7, 0, 0, 7), (.cAdd 6 5, 7, 0, 8, 15), (.cSub 6 5, 7, 0, 8, 1),
    (.cAnd 6 5, 6, 0, 3, 2), (.cSll 6 33, 0, 0, 3, 0x600000000)] : List (Instr × Dword × Dword × Dword × Nat)).all g6 = true := by decide

/-- g0 discards, and the thread still goes on (R56). -/
theorem test_g0_discards : (let s := ran (.addi 0 5 3) (plain [(5, 1)])
    (s.core 0).gfile = [(5, 1)] ∧ (tAfter (.addi 0 5 3) (plain [(5, 1)])).pc = 4) := by decide

theorem witness_Registers_write : (plain [(5, 1)]).thread w0 = some th ∧ Unbound (plain [(5, 1)]) w0 th 0 ∧ Unbound (plain [(5, 1)]) w0 th 127
    ∧ Unbound (machine { th with handler := true } [] id) w0 { th with handler := true } 120 :=
  ⟨rfl, Or.inr rfl, Or.inr rfl, Or.inl ⟨rfl, Nat.le_refl _⟩⟩

theorem witness_Registers_frame : ∃ f s', registerResult (.csel 6 5 7) = some (6, f) ∧ useOf (.csel 6 5 7) = some (useD (.csel 6 5 7))
    ∧ Issues (.csel 6 5 7) (plain []) th (ahead (useD (.csel 6 5 7)) (plain []) th) (popped (.csel 6 5 7) (plain []) th).1 (reads (.csel 6 5 7) (plain []) th)
    ∧ (∀ n ∈ (useD (.csel 6 5 7)).src ++ (useD (.csel 6 5 7)).dst, Unbound (plain []) w0 th n) ∧ th.gang = none
    ∧ exec (.csel 6 5 7) (plain []) = .next s' :=
  ⟨_, _, rfl, rfl, issues_of _ _ _ rfl (by decide), fun n _ => unbound_plain [] n, rfl, rfl⟩

/-! Streams. Generator 1 is bound to g20. -/

/-- A generator of doublewords over the local store. -/
def gen (dir : Dir) (l : List Ahead) (done : Bool) : Gen :=
  { Gen.free with
    owner := some 0, base := 0xFFFFFFFFF0000040, stride0 := 8, count0 := 2, count1 := 1, count2 := 1, size := 3, bound := some (20, dir),
    ahead := l, exhausted := done }
/-- The machine with that generator. -/
def streamed (dir : Dir) (l : List Ahead) (done : Bool) (regs : List (Nat × Dword)) : State :=
  machine th regs fun c => { c with gens := [(1, gen dir l done)], lstore := [(16, 7), (17, 8)] }

theorem witness_Streams_bound (dir : Dir) (l : List Ahead) (done : Bool) : ¬ isShadow th 20
    ∧ ((streamed dir l done []).core 0).boundGen 0 20 = some (1, gen dir l done) ∧ (streamed dir l done []).thread w0 = some th
    ∧ (gen dir l done).bound = some (20, dir) ∧ (gen dir l done).exhausted = done ∧ (gen dir l done).ahead = l :=
  ⟨fun h => (by have := h.1; cases this), rfl, rfl, rfl, rfl, rfl⟩
/-- The element of a pop, and the position and number of elements left. -/
def popGives (s : State) : Option (Dword × Nat × Nat) :=
  match s.pop w0 th 20 with
  | .ok x v => some (v, ((x.core 0).gen 1).pos0.toNat, ((x.core 0).gen 1).ahead.length)
  | .stop _ => none
theorem test_stream_in : popGives (streamed .input [{ addr := 0, val := some 9, fault := none }, { addr := 8, val := none, fault := none }] false [])
    = some (9, 1, 1) := by decide
theorem test_stream_exhausted : (streamed .input [] true []).pop w0 th 20 = .stop (.trap cStreamUnderflow 1)
    ∧ (streamed .output [] true []).outStop w0 th 20 = some (.trap cStreamOverflow 1) := ⟨rfl, rfl⟩
theorem witness_Streams_arrive : (gen .arrive [] false).addr.toNat % (gen .arrive [] false).bytes = 0
    ∧ placeOf 0 (gen .arrive [] false).addr = .own 64 ∧ ∀ k, k < (gen .arrive [] false).bytes / 4 → ((streamed .arrive [] false []).core 0).isFull (64 / 4 + k) = true :=
  ⟨by decide, by decide, by decide⟩
theorem test_stream_arrive_empties : (let s := ran (.add 6 20 0) (streamed .arrive [] false [])
    gAfter (.add 6 20 0) [] 6 = 0 ∧ smGetD (s.core 0).gfile 6 0 = 0x800000007 ∧ (s.core 0).isFull 16 = false ∧ (s.core 0).isFull 17 = false) := by decide
theorem test_stream_out_stores : (let s := ran (.add 20 5 5) (streamed .output [] false [(5, 0x100000002)])
    (s.core 0).lread 64 8 = 0x200000004 ∧ smGetD (s.core 0).gfile 20 0 = 0) := by decide
/-! Branches and jumps. The pc is 0x100. -/

/-- A thread at pc 0x100, and one that follows in a gang. -/
abbrev th1 : Thread := { th with pc := 0x100 }
/-- A gang follower. -/
abbrev follower : Thread := { th1 with gang := some { n := 2, member := 1, ended := false } }
/-- The pc after an instruction. -/
def pcAfter (t : Thread) (i : Instr) (regs : List (Nat × Dword)) : Nat := (tAfter i (machine t regs id)).pc.toNat

theorem witness_BranchesAndJumps_branch : ([.beq 5 7 4, .bne 5 7 4, .blt 5 7 4, .bge 5 7 4, .bltZ 5 7 4, .bgeZ 5 7 4, .cBeqz 5 4, .cBnez 5 4] : List Instr).all
    (fun i => (branchCond i).isSome && comes i (machine th1 [(5, 1)] id) th1 && comes i (machine follower [(5, 1)] id) follower) = true := by decide
theorem witness_BranchesAndJumps_jump : ([.jal 1 4, .cJ 4, .jalr 1 5 4, .cRet 5] : List Instr).all
    (fun i => comes i (machine th1 [(5, 1)] id) th1 && comes i (machine follower [(5, 1)] id) follower) = true
    ∧ ¬ isFollower th1 ∧ isFollower follower :=
  ⟨by decide, fun ⟨_, h, _⟩ => (by cases h), ⟨_, rfl, by decide⟩⟩
/-- R121 and R81: 5 holds -1 and 7 holds 1; offsets are halfwords. -/
theorem test_branches : ([(.beq 5 5 4, 0x108), (.beq 5 7 4, 0x104), (.bne 5 7 0x7FF, 0xFE), (.bne 5 5 4, 0x104), (.blt 5 7 4, 0x108), (.blt 7 5 4, 0x104),
    (.bge 7 5 4, 0x108), (.bge 5 7 4, 0x104), (.bltZ 7 5 4, 0x108), (.bltZ 5 7 4, 0x104), (.bgeZ 5 7 0x400, 0xF900), (.bgeZ 7 5 4, 0x104),
    (.cBeqz 6 0x7F, 0xFE), (.cBeqz 5 4, 0x102), (.cBnez 5 4, 0x108), (.cBnez 6 4, 0x102)] : List (Instr × Nat)).all
    (fun p => pcAfter { th1 with ilen := if p.1 matches .cBeqz .. | .cBnez .. then 2 else 4 } p.1 [(5, 0xFFFFFFFFFFFFFFFF), (7, 1)] == p.2) = true := by decide
/-- R119, R120: jumps and links, and a follower that only goes on (R154). -/
theorem test_jumps : ([(.jal 1 0x3FFFF, 0xFE), (.jal 1 0x10, 0x120), (.jalr 1 5 0x7FE, 0x21FE), (.jalr 1 7 0, 0x100), (.cJ 0x7FF, 0xFE), (.cRet 5, 0x2200)] :
    List (Instr × Nat)).all (fun p => pcAfter th1 p.1 [(5, 0x12200), (7, 0x2201)] == p.2) = true
    ∧ pcAfter follower (.jal 1 0x10) [] = 0x104 ∧ gAfter (.jal 1 0x10) [] 1 = 4 := by decide
theorem test_jalr_odd_traps : exec (.jalr 1 7 0) (machine th1 [(7, 0x2201)] id)
    = .next ((machine th1 [(7, 0x2201)] id).takeTrap w0 cMisaligned 0x2201 0x100) := rfl

/-! Scalar floating point. -/

theorem witness_FpArithmetic : ([.fadd 6 5 7, .fsub 6 5 7, .fmul 6 5 7, .fdiv 6 5 7, .fsqrt 6 5, .fmadd 6 5 7, .fmsub 6 5 7, .fnmadd 6 5 7, .fnmsub 6 5 7] :
    List Instr).all (fun i => (fpResult th.frm i).isSome && comes i (plain []) th) = true := by decide
theorem witness_FpComparesAndNans : ([.fmin 6 5 7, .fmax 6 5 7, .feq 6 5 7, .flt 6 5 7, .fle 6 5 7, .fabs 6 5, .fneg 6 5, .fsgnj 6 5 7] :
    List Instr).all (fun i => (fpExact i).isSome && comes i (plain []) th) = true ∧ isNaN fmt32 0x7F800001 = true ∧ isSNaN fmt32 0x7F800001 = true
    ∧ isSNaN fmt32 0xFFC00000 = false ∧ isNaN fmt32 0x7F800000 = false := by decide
/-- R122, R123, R125, R126: by hand, 5.0625 the spec's example of `fmadd`. -/
theorem test_fp_results : ([(.fadd 6 5 7, 0x40000000, 0x3F800000, 0, 0x40400000), (.fsub 6 5 7, 0x3F800000, 0x40400000, 0, 0xC0000000),
    (.fmul 6 5 7, 0x40400000, 0x40000000, 0, 0x40C00000), (.fdiv 6 5 7, 0x3F800000, 0x40800000, 0, 0x3E800000), (.fdiv 6 5 7, 0x3F800000, 0, 0, 0x7F800000),
    (.fsqrt 6 5, 0x40800000, 0, 0, 0x40000000), (.fsqrt 6 5, 0xBF800000, 0, 0, 0x7FC00000), (.fmadd 6 5 7, 0x3D800000, 0x3F800000, 0x40A00000, 0x40A20000),
    (.fmsub 6 5 7, 0x40000000, 0x40400000, 0x3F800000, 0x40A00000), (.fnmadd 6 5 7, 0x40000000, 0x40400000, 0x3F800000, 0xC0E00000),
    (.fnmsub 6 5 7, 0x40000000, 0x40400000, 0x3F800000, 0xC0A00000), (.fmin 6 5 7, 0x80000000, 0, 0, 0x80000000), (.fmax 6 5 7, 0x80000000, 0, 0, 0),
    (.fmin 6 5 7, 0x7FC00000, 0x3F800000, 0, 0x3F800000), (.feq 6 5 7, 0x80000000, 0, 0, 1), (.feq 6 5 7, 0x7FC00000, 0x7FC00000, 0, 0),
    (.flt 6 5 7, 0xC0000000, 0xBF800000, 0, 1), (.fle 6 5 7, 0x3F800000, 0x3F800000, 0, 1), (.fabs 6 5, 0xBF800000, 0, 0, 0x3F800000),
    (.fneg 6 5, 0x3F800000, 0, 0, 0xBF800000), (.fneg 6 5, 0xFFC00001, 0, 0, 0x7FC00000), (.fsgnj 6 5 7, 0x3F800000, 0x80000000, 0, 0xBF800000)] :
    List (Instr × Dword × Dword × Dword × Nat)).all g6 = true := by decide +kernel
/-- The class words that R124 gives as examples: 1.0, 0.1, -0.0 and a signalling NaN. -/
theorem test_fclass : ([(.fclass 6 5, 0x3F800000, 0, 0, 0xF2), (.fclass 6 5, 0x3DCCCCCD, 0, 0, 2), (.fclass 6 5, 0x80000000, 0, 0, 0xF8), (.fclass 6 5, 0x7F800001, 0, 0, 5)] :
    List (Instr × Dword × Dword × Dword × Nat)).all g6 = true := by decide
/-- R68, R112: division by zero accrues DZ, and traps behind the instruction when it is enabled. -/
theorem test_fp_flags : (tAfter (.fdiv 6 5 7) (plain [(5, 0x3F800000)])).fflags = 8
    ∧ (tAfter (.fdiv 6 5 7) (machine { th with fen := 8, level := .u } [(5, 0x3F800000)] id)).cause.toNat = cFpDivzero
    ∧ (tAfter (.fdiv 6 5 7) (machine { th with fen := 8, level := .u } [(5, 0x3F800000)] id)).tpc = 4
    ∧ (tAfter (.fadd 6 5 7) (machine { th with frm := 3 } [(5, 0x3F800000), (7, 0x1)] id)).fflags = 1 := by decide

theorem witness_Conversions : ([.cvt 6 5 .rne .i32 .f32, .cvt 6 5 .dyn .c8 .f16, .cvt 6 5 .rtz .bf16 .c8] : List Instr).all
    (fun i => comes i (machine { th with fmtWord := 0x100 } [] id) { th with fmtWord := 0x100 }) = true
    ∧ (0x100 : Word).toNat / 2 ^ 8 ≠ 0 := by decide
/-- R127, R128: 2.5 to an integer in each rounding, saturation, and widening. -/
theorem test_conversions : ([(.cvt 6 5 .rne .i32 .f32, 0x40200000, 0, 0, 2), (.cvt 6 5 .rup .i32 .f32, 0x40200000, 0, 0, 3), (.cvt 6 5 .rtz .i32 .f32, 0xC0200000, 0, 0, 0xFFFFFFFFFFFFFFFE),
    (.cvt 6 5 .rdn .i64 .f32, 0xC0200000, 0, 0, 0xFFFFFFFFFFFFFFFD), (.cvt 6 5 .rne .i32 .f32, 0x4F000000, 0, 0, 0x7FFFFFFF), (.cvt 6 5 .rne .f32 .f16, 0x3C00, 0, 0, 0x3F800000),
    (.cvt 6 5 .rne .bf16 .f32, 0x3F818000, 0, 0, 0x3F82), (.cvt 6 5 .rne .f32 .i64, 0xFFFFFFFFFFFFFFFF, 0, 0, 0xBF800000)] :
    List (Instr × Dword × Dword × Dword × Nat)).all g6 = true := by decide
theorem test_c8_needs_a_format : exec (.cvt 6 5 .rne .c8 .f32) (machine { th with fmtWord := 0x100 } [] id)
    = .next ((machine { th with fmtWord := 0x100 } [] id).takeTrap w0 cReservedField 0x100 0) := rfl
theorem witness_ExactRounding : fmt16 ∈ formats ∧ 0x3C00 < 2 * fmt16.signW ∧ finiteVal fmt16 0x3C00 = some 1 ∧ finiteVal fmt16 0x8001 = some (-(1 / 16777216))
    ∧ finiteVal fmt16 0x4200 = some 3 ∧ (3 : Rat) ≠ 0 :=
  ⟨by simp [formats], by decide, by decide +kernel, by decide +kernel, by decide +kernel, by decide⟩
/-- The sum 1 + 2^-24 in FP16 is inexact and rounds as each mode says (R96, R97). -/
theorem test_rounding_modes : ([0, 1, 2, 3].map fun rm => fmt16.add rm 0x3C00 0x0001) = [(0x3C00, 1), (0x3C00, 1), (0x3C00, 1), (0x3C01, 1)]
    ∧ ([0, 1, 2, 3].map fun rm => fmt16.mul rm 0x7BFF 0x7BFF) = [(0x7C00, 5), (0x7BFF, 5), (0x7BFF, 5), (0x7C00, 5)] := by decide +kernel

/-! The special-function unit. -/

/-- Sixteen requests that wait, of other slots. -/
def sixteen : List SfuReq := (List.range 16).map fun k => { w := { core := 0, slot := k + 1 }, f := 0, d := 1, x := 0, start := k + 1 }
theorem witness_SpecialFunctions : ([.exp2 6 5, .log2 6 5, .rcp 6 5, .rsqrt 6 5, .sin 6 5, .cos 6 5, .sint 6 5, .cost 6 5, .tanh 6 5, .sigm 6 5, .erf 6 5] :
    List Instr).all (fun i => (sfuOf i).isSome && comes i (plain []) th && comes i (machine th [] fun c => { c with sfu := sixteen }) th) = true
    ∧ (((plain []).core 0).sfu.filter fun r => decide (0 < r.start)).length < 16 ∧ 16 ≤ (sixteen.filter fun r => decide (0 < r.start)).length := by decide
theorem test_sfu_full_queue : exec (.erf 6 5) (machine th [] fun c => { c with sfu := sixteen }) = .next (machine th [] fun c => { c with sfu := sixteen }) := rfl
theorem witness_SpecialFunctions_result : let r : SfuReq := { w := w0, f := 0, d := 6, x := 0x40000000, start := 0 }
    let s := machine { th with run := .waiting (.sfu 0 6 0x40000000) 0 } [] fun c => { c with sfu := [r] }
    (s.core 0).sfu.find? (fun r => r.w == w0) = some r ∧ s.thread w0 = some { th with run := .waiting (.sfu 0 6 0x40000000) 0 } := ⟨rfl, rfl⟩
/-- R132: exact powers of two, exact logarithms and reciprocals, and the special cases. -/
theorem test_sfu_values : (sfuFn 0 0x40000000).1 = 0x40800000 ∧ (sfuFn 0 0xBF800000).1 = 0x3F000000 ∧ (sfuFn 2 0x40000000).1 = 0x3F000000
    ∧ (sfuFn 3 0x40800000).1 = 0x3F000000 ∧ (sfuFn 1 0x41000000).1 = 0x40400000 ∧ sfuFn 2 0 = (0x7F800000, 8) := by decide +kernel

/-! Wide registers. -/

/-- The machine with wide registers. -/
def wideM (t : Thread) (ws : List (Nat × Wide)) (regs : List (Nat × Dword)) : State := machine t regs fun c => { c with wfile := ws }
/-- A wide register after an instruction. -/
def wAfter (t : Thread) (i : Instr) (ws : List (Nat × Wide)) (regs : List (Nat × Dword)) (n : Nat) : Nat :=
  (smGetD ((ran i (wideM t ws regs)).core 0).wfile n 0).toNat
/-- The same byte in each of 64 lanes. -/
def bytes64 (b : Nat) : Wide := BitVec.ofNat 512 ((List.range 64).foldl (fun v i => v + b * 2 ^ (8 * i)) 0)

theorem witness_WideIntegerLanes : ([.wadd 1 2 3 1 .i8, .wsub 1 2 3 0 .z4, .wmul 1 2 3 0 .i16, .wmulh 1 2 3 0 .z64, .wmin 1 2 3 0 .i4, .wmax 1 2 3 0 .z8, .wabs 1 2 0 .i32,
    .wavg 1 2 3 0 .z8, .wsll 1 2 3 0 .z16, .wsrl 1 2 3 0 .i8, .wsra 1 2 3 0 .z8, .wand 1 2 3 0 .i8, .wor 1 2 3 0 .i8, .wxor 1 2 3 0 .i8, .wandn 1 2 3 0 .i8,
    .wadds 1 2 3 7 .i8] : List Instr).all (fun i => (wideInteger i).isSome && i.wf && comes i (plain []) th) = true := by decide
/-- Lanes 0 and 1 by hand: 0x7F + 0x02 wraps, saturates or averages, and so on; mask 1 holds lane 0 alone (R137, R141). -/
theorem test_wide_integers : ([(.wadd 1 2 3 0 .i8, 0x0181), (.wsub 1 2 3 0 .i8, 0xFF7D), (.wmul 1 2 3 0 .i8, 0x00FE), (.wmulh 1 2 3 0 .z8, 0x0000), (.wmin 1 2 3 0 .i8, 0x0002),
    (.wmax 1 2 3 0 .i8, 0x017F), (.wavg 1 2 3 0 .i8, 0x0141), (.wsll 1 2 3 0 .z8, 0x00FC), (.wsrl 1 2 3 0 .z8, 0x001F), (.wsra 1 2 3 0 .i8, 0x001F), (.wand 1 2 3 0 .i8, 0x0002),
    (.wor 1 2 3 0 .i8, 0x017F), (.wxor 1 2 3 0 .i8, 0x017D), (.wandn 1 2 3 0 .i8, 0x007D), (.wadds 1 2 3 0 .i8, 0x017F), (.wabs 1 2 0 .i8, 0x007F),
    (.wadd 1 2 3 1 .i8, 0xEE81)] : List (Instr × Nat)).all
      (fun p => wAfter { th with kregs := [(1, 1)] } p.1 [(1, 0xEEEE), (2, 0x007F), (3, 0x0102)] [] 1 % 65536 == p.2) = true := by decide +kernel
theorem test_wadds_flag : (tAfter (.wadds 1 2 3 0 .i8) (wideM th [(2, 0x7F), (3, 2)] [])).fflags = 64
    ∧ (tAfter (.wadds 1 2 3 0 .i8) (wideM th [(2, 0x7D), (3, 2)] [])).fflags = 0 := by decide +kernel

theorem witness_WideFloatLanes : ([.wfadd 1 2 3 0 .f16, .wfsub 1 2 3 0 .bf16, .wfmul 1 2 3 0 .f32, .wfma 1 2 3 0 .e8m10, .wfmin 1 2 3 0 .f16, .wfmax 1 2 3 0 .f32,
    .wfabs 1 2 0 .f16, .wfneg 1 2 0 .e8m10] : List Instr).all (fun i => (wideFloat th.frm i).isSome && i.wf && comes i (plain []) th) = true := by decide
/-- 1 and 2 in lane 0, on an accumulator of 3 (R142). -/
theorem test_wide_floats : ([(.wfadd 1 2 3 0 .f32, 0x40400000), (.wfsub 1 2 3 0 .f32, 0xBF800000), (.wfmul 1 2 3 0 .f32, 0x40000000), (.wfma 1 2 3 0 .f32, 0x40A00000),
    (.wfmin 1 2 3 0 .f32, 0x3F800000), (.wfmax 1 2 3 0 .f32, 0x40000000), (.wfabs 1 3 0 .f32, 0x40000000), (.wfneg 1 2 0 .f32, 0xBF800000)] : List (Instr × Nat)).all
      (fun p => wAfter th p.1 [(1, 0x40400000), (2, 0x3F800000), (3, 0x40000000)] [] 1 % 2 ^ 32 == p.2) = true := by decide +kernel

theorem witness_WideComparesAndMasks : ([.wcmpeq 1 2 3 0 .i8, .wcmplt 1 2 3 0 .z16, .wcmple 1 2 3 0 .i32, .wfcmpeq 1 2 3 0 .f16, .wfcmplt 1 2 3 0 .f32, .wfcmple 1 2 3 0 .bf16] :
    List Instr).all (fun i => (wideCompare i).isSome && i.wf && comes i (plain []) th) = true
    ∧ ([.kand 1 2 3, .kor 1 2 3, .kxor 1 2 3, .knot 0 1, .kpop 6 1] : List Instr).all (fun i => comes i (plain []) th) = true := by decide
/-- R143: lanes 0 to 2 hold 1, 2, 3 and 1, 3, 2; lanes above hold zeros. -/
theorem test_compares : ([(.wcmpeq 1 2 3 2 .i32, 0x1), (.wcmplt 1 2 3 2 .i32, 0x2), (.wcmple 1 2 3 2 .i32, 0x3), (.wcmpeq 1 2 3 0 .i32, 0xFFF9), (.kand 1 2 3, 5), (.kor 1 2 3, 0xF),
    (.kxor 1 2 3, 0xA), (.knot 1 2, 0xFFFFFFFFFFFFFFF8)] : List (Instr × Nat)).all
      (fun p => (smGetD (tAfter p.1 (wideM { th with kregs := [(2, 7), (3, 0xD)] } [(2, 0x30000000200000001), (3, 0x20000000300000001)] [])).kregs 1 0).toNat == p.2) = true := by decide +kernel
theorem test_kpop_and_k0 : smGetD ((ran (.kpop 6 1) (machine { th with kregs := [(1, 0xF0F0)] } [] id)).core 0).gfile 6 0 = 8
    ∧ (tAfter (.knot 0 1) (plain [])).kregs = [] := by decide +kernel
theorem witness_LaneMoves : ([.wbcast 1 5 0 .f32, .wshuf 1 2 3 0 .i8, .wrot 1 2 5 0 .z4, .wzip 1 2 3 0 .i16, .wunzip 1 2 0 .i64] :
    List Instr).all (fun i => (laneMove i).isSome && i.wf && comes i (plain []) th) = true
    ∧ ([.wsel 1 2 3 4 .i8, .wins 1 5 7 .e8m10, .wext 6 2 5 .i4] : List Instr).all (fun i => i.wf && comes i (plain []) th) = true := by decide
/-- R144 on 32-bit lanes 1, 2, 3, 4 of w2 and 11, 10, 9, 8 of w3. -/
theorem test_lane_moves : ([(.wbcast 1 5 0 .i32, 0x00000003000000030000000300000003), (.wrot 1 2 5 0 .i32, 0x00000000000000000000000000000004), (.wzip 1 2 3 0 .i32, 0x0000000A000000020000000B00000001),
    (.wshuf 1 2 3 0 .i32, 0x00000000000000000000000000000000), (.wshuf 1 3 2 0 .i32, 0x0000000000000008000000090000000A), (.wunzip 1 2 0 .i32, 0x00000000000000000000000300000001),
    (.wsel 1 2 3 1 .i32, 0x0000000800000009000000020000000B), (.wins 1 5 7 .i32, 0x00000007000000000000000000000000)] : List (Instr × Nat)).all
      (fun p => wAfter { th with kregs := [(1, 2)] } p.1 [(2, 0x00000004000000030000000200000001), (3, 0x00000008000000090000000A0000000B)] [(5, 0x3), (7, 7)] 1 % 2 ^ 128 == p.2) = true := by
  decide +kernel
theorem test_wext : smGetD ((ran (.wext 6 2 5 .i8) (wideM th [(2, 0xFF0080)] [(5, 66)])).core 0).gfile 6 0 = 0xFFFFFFFFFFFFFFFF
    ∧ smGetD ((ran (.wext 6 2 5 .z8) (wideM th [(2, 0xFF0080)] [(5, 66)])).core 0).gfile 6 0 = 0xFF := by decide +kernel

theorem witness_Reductions : ([.wrsum 6 2 0 .i8, .wrmin 6 2 1 .z64, .wrmax 6 2 0 .i32] : List Instr).all (fun i => (reduction i).isSome && i.wf && comes i (plain []) th) = true
    ∧ ([.wrfsum 6 2 0 .f16, .wrfmin 6 2 1 .f32, .wrfmax 6 2 0 .bf16] : List Instr).all
      (fun i => (floatReduction th.frm i).isSome && i.wf && comes i (plain []) th) = true := by decide
/-- R145: over lanes 0 and 1 of w2, and over no lane. -/
theorem test_reductions : ([(.wrsum 6 2 2 .i8, 0xFFFFFFFFFFFFFF82), (.wrsum 6 2 2 .z8, 0x182), (.wrmin 6 2 2 .i8, 0xFFFFFFFFFFFFFF83), (.wrmax 6 2 2 .i8, 0xFFFFFFFFFFFFFFFF),
    (.wrmin 6 2 1 .i8, 0x7F), (.wrmax 6 2 1 .z8, 0), (.wrmax 6 2 1 .i8, 0xFFFFFFFFFFFFFF80), (.wrsum 6 2 1 .i64, 0), (.wrfsum 6 2 1 .f32, 0), (.wrfmin 6 2 1 .f32, 0x7F800000),
    (.wrfmax 6 2 1 .f32, 0xFF800000), (.wrfsum 6 3 2 .f16, 0x40400000), (.wrfmin 6 3 2 .f16, 0x3F800000), (.wrfmax 6 3 2 .f16, 0x40000000)] : List (Instr × Nat)).all
      (fun p => (smGetD ((ran p.1 (wideM { th with kregs := [(2, 3)] } [(2, 0x83FF), (3, 0x40003C00)] [])).core 0).gfile 6 0).toNat == p.2) = true := by decide +kernel

theorem witness_LaneConversions : ([.wcvt 1 2 .i32 0 .f32, .wnarrow 1 2 3 0 .i8, .wwiden 1 2 1 0 .f16, .wenc 1 2 .f32, .wdec 1 2 3 .f32] : List Instr).all
    (fun i => i.wf && comes i (plain []) th && comes i (machine { th with fmtWord := 0x100 } [] id) { th with fmtWord := 0x100 }) = true
    ∧ th.fmtWord.toNat / 2 ^ 8 = 0 := by decide
/-- R146: 3 as FP32, saturating narrowing, and both halves of a widening. -/
theorem test_lane_conversions : wAfter th (.wcvt 1 2 .i32 0 .f32) [(2, 3)] [] 1 % 2 ^ 32 = 0x40400000
    ∧ wAfter th (.wnarrow 1 2 3 0 .i8) [(2, 0xFF000080), (3, 0x1)] [] 1 = 0x807F + 2 ^ 256
    ∧ wAfter th (.wwiden 1 2 0 0 .i8) [(2, 0x80FF)] [] 1 % 2 ^ 32 = 0xFF80FFFF
    ∧ wAfter th (.wwiden 1 2 1 0 .i8) [(2, 5 * 2 ^ 256)] [] 1 = 5 := by decide +kernel

/-! Memory. The local region of core 0 begins at LB. -/

/-- The address of a byte of the core's own local store. -/
def lb (off : Nat) : Dword := BitVec.ofNat 64 (0xFFFFFFFFF0000000 + off)
/-- A core without poisoned words. -/
theorem clean_of (s : State) (core o n : Nat) (h : (s.core core).poison = []) : CleanSpan s core o n := by
  intro p hp; rw [h] at hp; cases hp

/-- Each load with the last aligned place of the local store. -/
theorem witness_LocalLoads : ([(.ldB 6 5 0x7F, 393215, 127), (.ldH 6 5 0x80, 393214, -256), (.ldW 6 5 0, 393212, 0), (.ldD 6 5 1, 393208, 8), (.ldBZ 6 5 0, 0, 0),
    (.ldHZ 6 5 0, 2, 0), (.ldWZ 6 5 0, 4, 0), (.cLdW 6 5 7, 32, 28), (.cLdD 6 5 1, 8, 8)] : List (Instr × Nat × Int)).all (fun p =>
      match loadOf p.1 with
      | some (_, n, e, z, _) =>
        let s := plain [(5, lb (p.2.1 - p.2.2).toNat)]
        comes p.1 s th && decide ((effective (reads p.1 s th n) e z).toNat = 0xFFFFFFFFF0000000 + p.2.1) && decide (p.2.1 < 393216) && decide (p.2.1 % z = 0)
      | none => false) = true ∧ isLantern 0 = false := by decide
theorem witness_LocalLoads_clean : CleanSpan (plain []) 0 393208 8 := clean_of _ _ _ _ rfl
theorem witness_LocalLoads_policy : let s := plain [(5, lb 393208), (7, 0x3FFFF)]
    Issues (.ldp 6 5 7) s th (ahead (useD (.ldp 6 5 7)) s th) (popped (.ldp 6 5 7) s th).1 (reads (.ldp 6 5 7) s th)
    ∧ (reads (.ldp 6 5 7) s th 7).toNat % 2 ^ 32 / 2 ^ 18 = 0 ∧ OwnLocal 0 (reads (.ldp 6 5 7) s th 5) 393208 :=
  ⟨issues_of _ _ _ rfl (by decide), by decide, by decide, by decide, by decide⟩
theorem witness_LocalLoads_constant : let s := plain [(5, lb 393208), (7, 0)]
    Issues (.ldC 6 5 7) s th (ahead (useD (.ldC 6 5 7)) s th) (popped (.ldC 6 5 7) s th).1 (reads (.ldC 6 5 7) s th)
    ∧ OwnLocal 0 (nat64 ((reads (.ldC 6 5 7) s th 5).toNat + (reads (.ldC 6 5 7) s th 7).toNat)) 393208 :=
  ⟨issues_of _ _ _ rfl (by decide), by decide, by decide, by decide⟩
/-- The bytes F8 F7 F6 F5 04 03 02 01 stand at LB + 8. -/
theorem test_local_loads : ([(.ldB 6 5 0, 0xFFFFFFFFFFFFFFF8), (.ldBZ 6 5 1, 0xF7), (.ldH 6 5 0, 0xFFFFFFFFFFFFF7F8), (.ldHZ 6 5 1, 0xF5F6), (.ldW 6 5 0, 0xFFFFFFFFF5F6F7F8),
    (.ldWZ 6 5 0, 0xF5F6F7F8), (.ldD 6 5 0, 0x01020304F5F6F7F8), (.cLdW 6 5 1, 0x01020304), (.cLdD 6 5 0, 0x01020304F5F6F7F8), (.ldp 6 5 0, 0x01020304F5F6F7F8),
    (.ldC 6 5 0, 0x01020304F5F6F7F8)] : List (Instr × Nat)).all
      (fun p => (smGetD ((ran p.1 (machine th [(5, lb 8)] fun c => { c with lstore := [(2, 0xF5F6F7F8), (3, 0x01020304)] })).core 0).gfile 6 0).toNat == p.2) = true := by decide +kernel

theorem witness_LocalStores : ([(.stB 6 5 0x7F, 393215, 127), (.stH 6 5 0x80, 393214, -256), (.stW 6 5 0, 393212, 0), (.stD 6 5 1, 393208, 8), (.cStW 6 5 7, 32, 28), (.cStD 6 5 1, 8, 8)] :
    List (Instr × Nat × Int)).all (fun p =>
      match storeOf p.1 with
      | some (_, n, e, z) =>
        let s := plain [(5, lb (p.2.1 - p.2.2).toNat)]
        comes p.1 s th && decide ((effective (reads p.1 s th n) e z).toNat = 0xFFFFFFFFF0000000 + p.2.1) && decide (p.2.1 < 393216) && decide (p.2.1 % z = 0)
      | none => false) = true ∧ comes (.stp 6 5 7) (plain [(5, lb 0), (7, 0x3FFFF)]) th = true := by decide
theorem test_local_stores : ([(.stB 6 5 1, [(2, 0xF5F6EFF8), (3, 0x01020304)]), (.stH 6 5 1, [(2, 0xCDEFF7F8), (3, 0x01020304)]), (.stW 6 5 1, [(2, 0xF5F6F7F8), (3, 0x89ABCDEF)]),
    (.stD 6 5 0, [(2, 0x89ABCDEF), (3, 0x01234567)]), (.stp 6 5 0, [(2, 0x89ABCDEF), (3, 0x01234567)]), (.cStW 6 5 0, [(2, 0x89ABCDEF), (3, 0x01020304)]),
    (.cStD 6 5 0, [(2, 0x89ABCDEF), (3, 0x01234567)])] : List (Instr × List (Nat × Word))).all
      (fun p => decide (((ran p.1 (machine th [(5, lb 8), (6, 0x0123456789ABCDEF)] fun c => { c with lstore := [(2, 0xF5F6F7F8), (3, 0x01020304)] })).core 0).lstore = p.2)) = true := by decide +kernel
/-! Addresses, memory and full/empty bits. -/

/-- A page of 64 KiB at address 0 for space 0 of partition 0, at physical 0x100000, homed at slice 0 (R368). -/
def page : TlbEntry :=
  { part := 0, space := 0, page := 0, bits := 16, frame := 16, gframe := 32, writable := true, writable1 := true, user := true, dpage := false,
    repl := 0, home := 1, harg := 0, tdie := 0 }
/-- The machine with that page. -/
def paged (t : Thread) (regs : List (Nat × Dword)) (e : TlbEntry) (f : Core → Core := id) : State :=
  machine t regs fun c => f { c with tlb := [e] }
/-- An access through the page. -/
def acc (va : Dword) (size : Nat) : Access :=
  { va, pa := 0x100000 + va.toNat, size, pol := 0xFF00, repl := 0, dpage := false, home := 1, harg := 0, tdie := 0 }
/-- A thread of a task, and its group. -/
def taskT : Thread := { th with openMode := false, level := .u, gid := 5 }
def taskG : Group := { controlGroup 0 0 with taskMode := true, level := .u, phase := .running, secure := false }
/-- The machine with a task's thread and the page. -/
def tasked (g : Group) (regs : List (Nat × Dword)) (f : Core → Core := id) : State :=
  paged taskT regs page fun c => f { c with groups := [(5, g)] }

/-- R265 and R267 at their boundaries: `ldp` at LB + 1 with a reserved policy bit, a misaligned address, and one past the local store. -/
theorem witness_Addresses_checks : (let i := Instr.ldp 6 5 7; let s := plain [(5, lb 1), (7, 0x40000)]
      Issues i s th (ahead (useD i) s th) (popped i s th).1 (reads i s th) ∧ accessOf (reads i s th) i = some (lb 1, 8) ∧ badPolicy (reads i s th) i)
    ∧ (let i := Instr.stH 6 5 0; let s := plain [(5, lb 1)]
      Issues i s th (ahead (useD i) s th) (popped i s th).1 (reads i s th) ∧ accessOf (reads i s th) i = some (lb 1, 2) ∧ ¬ badPolicy (reads i s th) i
        ∧ (lb 1).toNat % 2 ≠ 0)
    ∧ (let i := Instr.stB 6 5 0; let s := plain [(5, lb 393216)]
      Issues i s th (ahead (useD i) s th) (popped i s th).1 (reads i s th) ∧ accessOf (reads i s th) i = some (lb 393216, 1) ∧ ¬ badPolicy (reads i s th) i
        ∧ (lb 393216).toNat % 1 = 0 ∧ placeOf 0 (lb 393216) = .bad) :=
  ⟨⟨issues_of _ _ _ rfl (by decide), by decide, (by show _ ≠ _; decide)⟩, ⟨issues_of _ _ _ rfl (by decide), by decide, (fun h => by cases h), by decide⟩,
   ⟨issues_of _ _ _ rfl (by decide), by decide, (fun h => by cases h), by decide, by decide⟩⟩
theorem test_misaligned : exec (.stH 6 5 0) (plain [(5, lb 1)]) = .next ((plain [(5, lb 1)]).takeTrap w0 cMisaligned (lb 1) 0) := rfl
/-- R264: the places of core 18, the third of its cluster. -/
theorem test_places : placeOf 18 0xFFFFFFFFEFFFFFFF = .memory ∧ placeOf 18 (lb 0) = .own 0 ∧ placeOf 18 (lb 393215) = .own 393215
    ∧ placeOf 18 (lb 393216) = .bad ∧ placeOf 18 (lb 0xFFFFFF) = .bad ∧ placeOf 18 (lb 0x1000000) = .window 16 0
    ∧ placeOf 18 (lb 0x1200000) = .own 0 ∧ placeOf 18 (lb 0x1F5FFFF) = .window 31 393215 ∧ placeOf 18 (lb 0x1F60000) = .bad
    ∧ placeOf 18 (lb 0x2000000) = .bad ∧ placeOf 2048 (lb 0) = .bad ∧ placeOf 2048 0 = .memory := by decide
theorem witness_Addresses_translation : tlbFind ((paged th [] page).core 0).tlb 0 0 0xFFFF = some page ∧ tlbFind ((paged th [] page).core 0).tlb 0 0 0x10000 = none
    ∧ page.home = 1 ∧ page.repl ≠ 3 ∧ page.frame * 2 ^ page.bits + 0xFFFF < 2 ^ 39 ∧ (page.frame * 2 ^ page.bits + 0xFFFF) % 2 ^ 36 < 64000000000
    ∧ ({ th with level := Level.h }).level = .h := by decide
theorem test_translation : (paged th [] page).xlate w0 th 0x40 8 true 0xFF00 = .ok (acc 0x40 8)
    ∧ (paged th [] page).xlate w0 th 0x10000 8 true 0xFF00 = .miss
    ∧ (paged th [] { page with user := false }).xlate w0 { th with level := .u } 0x40 8 false 0 = .fault 0x10 0x40
    ∧ (paged th [] { page with writable1 := false }).xlate w0 th 0x40 8 true 0 = .fault 0x11 0x40
    ∧ (paged th [] { page with writable := false }).xlate w0 th 0x40 8 true 0 = .fault 0x63 0x200040 := by decide
/-- R370: an invalid entry, a table, a 64 KiB leaf, and a leaf whose size is not its level's. -/
theorem test_table_entries : pteKind 0xFFFFFFFFFFFFFFFE 1 false = .bad ∧ pteKind 0x00F0000012345001 1 false = .table 0x12345000
    ∧ pteKind 0x00F0000012345001 0 false = .bad ∧ pteKind 0x0000000012340001 0 false = .leaf 0x12340000
    ∧ pteKind 0x0010000000200001 1 true = .leaf 0x200000 ∧ pteKind 0x0010000000210001 1 true = .bad ∧ pteKind 0x0010000000200001 0 false = .bad
    ∧ pteKind 0x0010000000200005 1 true = .bad ∧ pteKind 0x0010000000200005 1 false = .leaf 0x200000 := by decide

/-- A load that the core's L1 serves, and the same data in a thread's own write-combining buffer. -/
def l1Line : SMap CLine := [(0x2000, { data := 0x8877665544332211, mask := BitVec.allOnes 128, cls := 0, use := 0 })]
theorem witness_LoadsAndStores_hit : let i := Instr.ldD 6 5 0; let s := paged th [(5, 0)] page (fun c => { c with l1 := l1Line })
    Issues i s th (ahead (useD i) s th) (popped i s th).1 (reads i s th) ∧ loadOf i = some (6, 5, 0, 8, true) ∧ effective (reads i s th 5) 0 8 = 0
    ∧ placeOf 0 0 = .memory ∧ ((popped i s th).1).xlate w0 th 0 8 false th.mpol = .ok (acc 0 8) ∧ smGet ((popped i s th).1).poison 0x2000 = none
    ∧ (((popped i s th).1).coreBytes w0 th 0x2000).mask &&& maskOf 0 8 = maskOf 0 8 :=
  ⟨issues_of _ _ _ rfl (by decide), rfl, by decide, by decide, by decide, rfl, by decide⟩
theorem witness_LoadsAndStores_stops : let i := Instr.ldD 6 5 0;
    (let s := { paged th [(5, 0)] page with poison := [(0x2000, 0x42)] };
      comes i s th = true ∧ ((popped i s th).1).xlate w0 th 0 8 false th.mpol = .ok (acc 0 8) ∧ smGet ((popped i s th).1).poison 0x2000 = some 0x42)
    ∧ (let t := { th with level := Level.u }; let s := paged t [(5, 0)] { page with user := false };
      comes i s t = true ∧ ((popped i s t).1).xlate w0 t 0 8 false t.mpol = .fault 0x10 0)
    ∧ (let s := plain [(5, 0)]; comes i s th = true ∧ ((popped i s th).1).xlate w0 th 0 8 false th.mpol = .miss ∧ th.gang = none ∧ th.fwd = false) := by
  decide
theorem witness_LoadsAndStores_miss : let i := Instr.ldD 6 5 0; let s := paged th [(5, 0)] page
    comes i s th = true ∧ ∃ s3, ((popped i s th).1).load w0 th 0 8 th.mpol = .miss s3 (acc 0 8) := ⟨by decide, _, rfl⟩
theorem witness_LoadsAndStores_window : let i := Instr.ldD 6 5 0; let s := plain [(5, lb 0x1100008)]
    comes i s th = true ∧ ((popped i s th).1).load w0 th (lb 0x1100008) 8 th.mpol = .window 1 8 := ⟨by decide, rfl⟩
theorem test_load_hit : ([(.ldD 6 5 0, 0x8877665544332211), (.ldW 6 5 1, 0xFFFFFFFF88776655), (.ldH 6 5 1, 0x4433), (.ldBZ 6 5 7, 0x88)] : List (Instr × Nat)).all
    (fun p => (smGetD ((ran p.1 (paged th [(5, 0)] page (fun c => { c with l1 := l1Line }))).core 0).gfile 6 0).toNat == p.2) = true := by decide +kernel
theorem test_load_poison : exec (.ldD 6 5 0) { paged th [(5, 0)] page with poison := [(0x2000, 0x42)] }
    = .next (({ paged th [(5, 0)] page with poison := [(0x2000, 0x42)] } : State).takeTrap w0 0x42 0 0) := rfl
theorem test_load_walks : exec (.ldD 6 5 0) (plain [(5, 0)]) = .next (waits (plain [(5, 0)]) w0 (.retry (.walk 0 0 false)) 0) := rfl

theorem witness_LoadsAndStores_open : let i := Instr.stW 6 5 1; let s := paged th [(5, 0x80)] page
    Issues i s th (ahead (useD i) s th) (popped i s th).1 (reads i s th) ∧ storeOf i = some (6, 5, 1, 4) ∧ effective (reads i s th 5) 1 4 = 0x84
    ∧ placeOf 0 0x84 = .memory ∧ ((popped i s th).1).xlate w0 th 0x84 4 true th.mpol = .ok (acc 0x84 4) ∧ (acc 0x84 4).pa % 4 = 0
    ∧ th.openMode = true ∧ ((popped i s th).1).thread w0 = some th ∧ th.wcb.length < 4 :=
  ⟨issues_of _ _ _ rfl (by decide), rfl, by decide, by decide, by decide, by decide, rfl, rfl, by decide⟩
theorem test_store_combines : (tAfter (.stW 6 5 1) (paged th [(5, 0x80), (6, 0x1234567890ABCDEF)] page)).wcb.map (fun x => (x.lw.line, x.lw.mask.toNat, x.lw.data.toNat))
    = [(0x2001, 0xF0, 0x90ABCDEF00000000)] ∧ (ran (.stW 6 5 1) (paged th [(5, 0x80)] page)).mem = [] := by decide +kernel

/-- The core with a speculative line of group 5. -/
def withLine (c : Core) : Core := { c with spec := [{ gid := 5, lw := { line := 0x2001, data := 0, mask := 0 }, acc := acc 0x80 4, through := false }] }
theorem witness_LoadsAndStores_task : let i := Instr.stW 6 5 1
    let s := tasked taskG [(5, 0x80)] withLine
    Issues i s taskT (ahead (useD i) s taskT) (popped i s taskT).1 (reads i s taskT) ∧ ((popped i s taskT).1).group 0 5 = some taskG ∧ taskG.unbounded = false
    ∧ (((popped i s taskT).1).core 0).spec.any (fun x => x.gid == taskT.gid && x.lw.line == 0x2001) = true
    ∧ ((popped i s taskT).1).xlate w0 taskT 0x84 4 true taskT.mpol = .ok (acc 0x84 4) :=
  ⟨issues_of _ _ _ rfl (by decide), rfl, rfl, by decide, by decide⟩
theorem test_store_speculative : let s : State := tasked taskG [(5, 0x80), (6, 0x1234567890ABCDEF)] withLine
    ((ran (.stW 6 5 1) s).core 0).spec.map (fun x => (x.gid, x.lw.line, x.lw.mask.toNat, x.lw.data.toNat)) = [(5, 0x2001, 0xF0, 0x90ABCDEF00000000)]
    ∧ (ran (.stW 6 5 1) s).mem = [] := by decide +kernel

/-- The last word of the local store, full and empty. -/
theorem witness_LocalFullEmpty : ([.ldSync 6 5, .ldTake 6 5, .stFill 6 5, .stWfill 6 5, .feClr 5, .feSet 5] : List Instr).all (fun i =>
      (syncOf i).isSome && comes i (plain [(5, lb 393212)]) th && comes i (plain [(5, lb 393213)]) th && comes i (plain [(5, 0)]) th) = true
    ∧ OwnLocal 0 (lb 393212) 393212 ∧ 393212 % 4 = 0 ∧ CleanSpan (plain []) 0 393212 4 ∧ full (plain []) 0 98303 = true
    ∧ full (machine th [] fun c => { c with fe := [(98303, false)] }) 0 98303 = false :=
  ⟨by decide, ⟨rfl, by decide, by decide⟩, rfl, clean_of _ _ _ _ rfl, by decide, by decide⟩
theorem witness_LocalFullEmpty_wide : let s := plain [(5, lb 0x40)]
    ([.wld 1 5 0, .wst 1 5 0, .wldSync 1 5 0, .wstFill 1 5 0] : List Instr).all (fun i => comes i s th && decide (effective (reads i s th 5) 0 64 = lb 0x40)) = true
    ∧ OwnLocal 0 (lb 0x40) 0x40 ∧ CleanSpan s 0 0x40 64 ∧ (List.range 16).all (fun k => full s 0 (16 + k)) = true
    ∧ full (machine th [] fun c => { c with fe := [(31, false)] }) 0 31 = false :=
  ⟨by decide, ⟨rfl, by decide, by decide⟩, clean_of _ _ _ _ rfl, by decide, by decide⟩
/-- R269 on the word 0xAAAA5555 at LB + 8 with 7 in g6: g6, the word and its bit afterwards. -/
theorem test_full_empty : ([(.ldSync 6 5, true, 0xAAAA5555, 0xAAAA5555, true), (.ldTake 6 5, true, 0xAAAA5555, 0xAAAA5555, false), (.stFill 6 5, true, 7, 7, true),
    (.stFill 6 5, false, 7, 7, true), (.stWfill 6 5, false, 7, 7, true), (.feClr 5, true, 7, 0xAAAA5555, false), (.feSet 5, false, 7, 0xAAAA5555, true),
    (.ldSync 6 5, false, 7, 0xAAAA5555, false), (.stWfill 6 5, true, 7, 0xAAAA5555, true)] : List (Instr × Bool × Nat × Nat × Bool)).all (fun p =>
      let s := ran p.1 (machine th [(5, lb 8), (6, 7)] fun c => { c with lstore := [(2, 0xAAAA5555)], fe := if p.2.1 then [] else [(2, false)] })
      (smGetD (s.core 0).gfile 6 0).toNat == p.2.2.1 && localNum s 0 8 4 == p.2.2.2.1 && (full s 0 2 == p.2.2.2.2)) = true := by decide +kernel
/-! Special registers, traps and the system forms. -/

def allSprs : List Spr := [.tid, .core, .clus, .die, .dev, .gidx, .gret, .tstamp, .lidx, .detidx, .prio, .inh, .fmtp, .sclp, .mpol, .fmode, .fflags, .gbase,
  .glim, .mirmask, .lvec, .cause, .tpc, .tval, .cyc, .ix0, .ix1, .ix2]
theorem witness_SpecialRegisters : allSprs.all (fun r => comes (.mfs 6 r) (plain []) th && comes (.mts 6 r) (plain [(6, 8)]) th) = true := by decide
/-- R375 at its ends: `gbase` keeps its value, `glim` at 8 and at the window's end, and a mirror that the thread has no room for. -/
theorem witness_SpecialRegisters_values : ReadOnly .cyc ∧ ¬ ReadOnly .tval ∧ sprTakesIt .gbase 0xFFFFF800 th ∧ ¬ sprTakesIt .gbase 1 th
    ∧ sprTakesIt .glim 8 th ∧ sprTakesIt .glim 128 th ∧ ¬ sprTakesIt .glim 7 th ∧ ¬ sprTakesIt .glim 129 th
    ∧ sprTakesIt .mirmask 1 th ∧ ¬ sprTakesIt .mirmask 2 th :=
  ⟨trivial, id, by unfold sprTakesIt; decide, by unfold sprTakesIt; decide, by unfold sprTakesIt; decide, by unfold sprTakesIt; decide, by unfold sprTakesIt; decide,
   by unfold sprTakesIt; decide, by unfold sprTakesIt; decide, by unfold sprTakesIt; decide⟩
/-- R66 and R67: the used bits, with bit 0 of a pc field dropped. -/
theorem test_special_writes : (tAfter (.mts 6 .lvec) (plain [(6, 0xFFFFFFFF)])).lvec = 0xFFFE ∧ (tAfter (.mts 6 .prio) (plain [(6, 6)])).prio = 2
    ∧ (tAfter (.mts 6 .mpol) (plain [(6, 0xFFFFFFFF)])).mpol = 0x3FFFF ∧ (tAfter (.mts 6 .fmode) (plain [(6, 0x1FF0003)])).fen = 0x1FF
    ∧ (tAfter (.mts 6 .fmode) (plain [(6, 0x1FF0003)])).frm = 3 ∧ (tAfter (.mts 6 .glim) (plain [(6, 8)])).glim = 8 := by decide +kernel
theorem test_special_reads : ([(.tid, 3), (.core, 0x123), (.clus, 2), (.die, 1), (.fmode, 0x40001), (.cyc, 99)] : List (Spr × Nat)).all (fun p =>
    let s := { State.reset.loaded with
      cur := { core := 0x123, slot := 3 },
      cores := [(0x123, { Core.fresh false with threads := [(3, { th with frm := 1, fen := 4 })], groups := [(0, controlGroup 0 3)], nextGid := 1, cyc := 99 })] };
    (smGetD ((ran (.mfs 6 p.1) s).core 0x123).gfile 6 0).toNat == p.2) = true := by decide +kernel
theorem test_mts_read_only : exec (.mts 6 .cyc) (plain []) = .next ((plain []).takeTrap w0 cPrivileged (bitsOf (.mts 6 .cyc)) 0) := rfl

theorem witness_TrapDelivery : (plain []).thread w0 = some th ∧ th.gang = none ∧ cPtbMiss < 128
    ∧ TakenLocally { th with lvec := 4 } cPtbMiss ∧ ¬ TakenLocally th cPtbMiss ∧ TakenAtH th cIllegalOpcode ∧ ¬ TakenAtH { th with level := .u } cIllegalOpcode
    ∧ TakenAtH { th with level := .u } cGuestFault :=
  ⟨rfl, rfl, by decide, ⟨Or.inr rfl, rfl, by decide⟩, fun h => absurd h.2.2 (by decide), ⟨fun h => absurd h.2.2 (by decide), Or.inr (by decide)⟩,
   fun h => absurd h.2 (by decide), ⟨fun h => absurd h.2.2 (by decide), Or.inl rfl⟩⟩
/-- R63: a local handler at 4; R384: at S through `strap`, and a task aborted with its record marked; R386: stopped for H. -/
theorem test_trap_local : let t := (((machine { th with lvec := 4, level := .u } [] id).takeTrap w0 cPtbMiss 9 6).thread w0).getD Thread.fresh
    t.pc = 4 ∧ t.handler = true ∧ t.level = .u ∧ t.hregs = [(0, nat64 cPtbMiss), (1, 9), (2, 6)] ∧ t.cause = 0 := by decide +kernel
theorem test_trap_to_s : let s := { machine { th with level := .u } [] id with
        parts := [(0, { Partition.fresh { noSpec with clusters := 1 } with live := true, strap := 0x101 })] };
    let t := ((s.takeTrap w0 cPageFaultLoad 9 6).thread w0).getD Thread.fresh
    t.pc = 0x100 ∧ t.handler = true ∧ t.level = .s ∧ t.tpc = 6 ∧ t.tval = 9 ∧ t.cause.toNat = cPageFaultLoad ∧ smGetD t.hregs 2 0 = 6 := by decide +kernel
/-- R387: an uncorrectable error is delivered at S and reported at H; at S it is one event at H. -/
theorem test_trap_reported : (let s := (machine { th with level := .u } [] id).takeTrap w0 0x71 9 6;
      ((s.thread w0).getD Thread.fresh).level = .s ∧ s.agenda.map (fun x => match x.ev with | .hypervisorEvent e => (e.cause, e.tval) | _ => (0, 0)) = [(0x71, 9)])
    ∧ ((plain []).takeTrap w0 0x71 9 6).agenda.length = 1 := by decide +kernel
theorem witness_TrapDelivery_task : (tasked taskG []).taskOf w0 taskT = some taskG ∧ taskG.secure = false := ⟨rfl, rfl⟩
theorem test_trap_aborts : let s := (tasked taskG []).takeTrap w0 cPageFaultLoad 9 6
    (s.group 0 5).isNone = true ∧ (s.core 0).deque.map (fun r => (r.faulted, r.again)) = [(true, true)]
      ∧ smGetD ((s.thread w0).getD th).hregs 2 0 = BitVec.allOnes 64 := by decide +kernel
theorem test_trap_to_h : let s := (plain []).takeTrap w0 cIllegalOpcode 9 6
    ((s.thread w0).getD Thread.fresh).run = .trapped ∧ s.agenda.length = 1 := by decide +kernel

theorem witness_TrapsAndReturns : ([.trap 9, .hret, .tret] : List Instr).all (fun i => comes i (plain []) th && comes i (machine { th with handler := true } [] id)
    { th with handler := true } && comes i (machine { th with ended := true, hregs := [(2, BitVec.allOnes 64)] } [] id)
      { th with ended := true, hregs := [(2, BitVec.allOnes 64)] }) = true ∧ th.handler = false ∧ th.ended = false := by decide
theorem test_hret : (tAfter .hret (machine { th with handler := true, hregs := [(2, 0x101)] } [] id)).pc = 0x100
    ∧ (tAfter .hret (machine { th with handler := true, hregs := [(2, 0x101)] } [] id)).handler = false
    ∧ (tAfter .tret (machine { th with handler := true, tpc := 0x40 } [] id)).pc = 0x40
    ∧ (tAfter .tret (machine { th with handler := true, tpc := 0x40 } [] id)).level = .u := by decide +kernel
theorem test_trap_code : exec (.trap 9) (plain []) = .next ((goOn (plain []) w0 th).takeTrap w0 cSoftwareTrap 9 4) := rfl

theorem witness_SystemForms : ([.nop, .cNop, .wfe, .klog 6 3, .hcall 6 3, .hcall 0 3, .hcall 126 3] : List Instr).all (fun i => comes i (plain []) th) = true
    ∧ RunHeld th 124 4 ∧ ¬ RunHeld th 125 4 ∧ ∀ k, k < 4 → Unbound (plain []) w0 th (6 + k) := by
  refine ⟨by decide, ?_, ?_, fun _ _ => unbound_plain _ _⟩
  · intro k hk; have := hk; simp only [th, loadedThread]; refine ⟨by omega, Or.inl ?_⟩; show 0 + _ < 128; omega
  · intro h; exact absurd (h 3 (by decide)).1 (by decide)
theorem witness_SystemForms_reply : let t : Thread := { th with run := .waiting (.hcall 6) 0 }
    (machine t [] id).thread w0 = some t ∧ t.run = .waiting (.hcall 6) 0 := ⟨rfl, rfl⟩
theorem test_wfe : (tAfter .wfe (plain [])).run = .waiting .wfe 0 ∧ (tAfter .wfe (machine { th with event := true } [] id)).event = false
    ∧ (tAfter .wfe (machine { th with event := true } [] id)).pc = 4 ∧ (tAfter .cNop (machine { th with ilen := 2 } [] id)).pc = 2 := by decide +kernel
theorem test_klog : ((ran (.klog 6 3) (plain [(6, 77)])).die 0).klogHead = 1 ∧ ((ran (.klog 6 3) (plain [(6, 77)])).die 0).klog.length = 1 := by decide +kernel
theorem test_hcall : exec (.hcall 0 3) (plain []) = .next ((plain []).takeTrap w0 cReservedField (bitsOf (.hcall 0 3)) 0)
    ∧ exec (.hcall 125 3) (plain []) = .next ((plain []).takeTrap w0 cRegLimit (bitsOf (.hcall 125 3)) 0) := ⟨rfl, rfl⟩

theorem witness_Removals : ([.tlbInv 6 5, .tlbAll 6, .tlbAllPart, .istInv 6] : List Instr).all (fun i => comes i (plain [(6, 4095)]) th) = true
    ∧ (reads (.tlbInv 6 5) (plain [(6, 4095)]) th 6).toNat < 4096 ∧ 4096 ≤ (reads (.tlbAll 6) (plain [(6, 4096)]) th 6).toNat
    ∧ ((plain []).part 0).spec.clusters.getLsbD (15 / 16) = true ∧ ((plain []).part 0).spec.clusters.getLsbD (16 / 16) = false
    ∧ comes (.tlbAll 6) (plain [(6, 4096)]) th = true := by decide
/-- One removal to each of 16 cores, one cluster and one die. -/
theorem test_tlb_inv : (match (tAfter (.tlbAll 6) (plain [(6, 4095)])).run with | .waiting (.tlbInv n _) _ => n | _ => 0) = 18
    ∧ (ran (.tlbAll 6) (plain [(6, 4095)])).agenda.length = 18 := by decide +kernel
theorem test_ist_inv : exec (.istInv 6) (plain [(6, 16)]) = .next ((plain [(6, 16)]).takeTrap w0 cPartitionViolation 16 0)
    ∧ exec (.istInv 6) (plain [(6, 2048)]) = .next ((plain [(6, 2048)]).takeTrap w0 cReservedField (bitsOf (.istInv 6)) 0) := ⟨rfl, rfl⟩

/-- Another thread of the core in slot 1, a free slot and a save area in the local store. -/
def twoThreads (c : Core) : Core := { c with threads := [(0, th), (1, { th with pc := 8, glim := 8, gext := 8, galloc := 8, wcount := 0, compute := false })] }
theorem witness_SaveAndRestore : let s := machine th [(6, lb 64)] twoThreads;
    comes (.tsave 6 1) s th = true ∧ comes (.tsave 6 2) s th = true ∧ comes (.tsave 6 0) s th = true ∧ comes (.trest 7 6) s th = true
    ∧ (reads (.tsave 6 1) s th 6) = lb 64 ∧ (s.thread { w0 with slot := 2 }).isNone = true
    ∧ ((s.thread { w0 with slot := 1 }).map (·.savable th.part)) = some true := by decide
/-- An answer that is there. -/
theorem ok_of {ε α : Type} {x : Except ε α} (h : x.toOption.isSome = true) : ∃ a, x = .ok a := by
  cases x with
  | ok a => exact ⟨a, rfl⟩
  | error e => cases h
theorem witness_SaveAndRestore_puts : ∃ s3, (machine th [(6, lb 64)] twoThreads).areaPut w0 th (lb 64)
    (areaPieces ((machine th [(6, lb 64)] twoThreads).areaOf { w0 with slot := 1 } { th with pc := 8, glim := 8, gext := 8, galloc := 8, wcount := 0, compute := false }
      (machine th [(6, lb 64)] twoThreads).nextTag)) = .ok s3 := ok_of (by decide +kernel)
theorem test_tsave_checks : exec (.tsave 6 2) (machine th [(6, lb 64)] twoThreads) = .next ((machine th [(6, lb 64)] twoThreads).takeTrap w0 cReservedField 2 0)
    ∧ exec (.tsave 6 0) (machine th [(6, lb 64)] twoThreads) = .next ((machine th [(6, lb 64)] twoThreads).takeTrap w0 cReservedField 0 0)
    ∧ exec (.tsave 6 1) (machine th [(6, lb 8)] twoThreads) = .next ((machine th [(6, lb 8)] twoThreads).takeTrap w0 cMisaligned (lb 8) 0) := ⟨rfl, rfl, rfl⟩
/-- An area of 12 pieces: 8 registers, no compute, pc 0x40. -/
def areaCore (c : Core) : Core := { c with lstore := [(0, 0x800), (1, 0x000C0040)] }
def areaThread : Thread := { th with glim := 16, gext := 16, galloc := 16, wcount := 0, compute := false }
theorem witness_SaveAndRestore_area : let s := machine areaThread [(6, lb 0)] areaCore;
    (match s.gather w0 areaThread (lb 0) 64 8 with
      | .ok (_, h) => decide (natBits (areaDw h 0) 48 16 = 12)
      | .error _ => false) = true
    ∧ (match s.gather w0 areaThread (lb 0) 64 12 with
      | .ok (s4, l) => let p := areaPlan l
        areaOk l p (areaRanges l p.nranges p.oRange) && p.gens.isEmpty && p.regs == 8
          && ((s4.core 0).areaRoom p (BitVec.ofNat 64 (areaDw l 8)) []).map (·.1) == some 1
      | .error _ => false) = true := by decide +kernel
theorem test_trest : smGetD ((ran (.trest 7 6) (machine areaThread [(6, lb 0)] areaCore)).core 0).gfile 7 0 = 1
    ∧ (((ran (.trest 7 6) (machine areaThread [(6, lb 0)] areaCore)).thread { w0 with slot := 1 }).map (·.pc)) = some 0x40 := by decide +kernel
/-! Reservations, rounds, fences and pins. -/

/-- An access through the page at its words. -/
theorem bank_of (t : Thread) (va : Dword) (n : Nat) (store : Bool) (x : Access) (s : State) (h1 : va.toNat % n = 0) (h2 : placeOf 0 va = .memory)
    (h3 : s.xlate w0 t va n store t.mpol = .ok x) : BankAddr s w0 t va n store x := ⟨h1, h2, h3⟩
/-- A machine that no task is in has no line held. -/
theorem unheld_of (s : State) (line : Nat) (h : s.cores.all (fun c => c.2.groups.all fun g => g.2.holds line == false) = true) : Unheld s line := by
  intro die x hx
  simp only [State.dieGroups, List.mem_flatMap, List.mem_filter, List.mem_map] at hx
  obtain ⟨c, ⟨hc, _⟩, g, hg, rfl⟩ := hx
  simpa using List.all_eq_true.mp (List.all_eq_true.mp h c hc) g hg

def bankForms : List Instr := [.amoAdd 6 5 7, .amoAnd 6 5 7, .amoOr 6 5 7, .amoXor 6 5 7, .amoMin 6 5 7, .amoMax 6 5 7, .amoMinZ 6 5 7, .amoMaxZ 6 5 7, .amoSwp 6 5 7, .amoCas 6 5 7]
theorem witness_Atomics : bankForms.all (fun i => (atomicOf i).isSome && comes i (paged th [(5, 0x48)] page) th && comes i (tasked taskG [(5, 0x48)]) taskT) = true
    ∧ BankAddr (paged th [(5, 0x48)] page) w0 th 0x48 8 true (acc 0x48 8) ∧ ¬ NotSecure (paged th [(5, 0x48)] page) w0 th
    ∧ NotSecure (tasked taskG [(5, 0x48)]) w0 taskT :=
  ⟨by decide, bank_of _ _ _ _ _ _ rfl (by decide) (by decide), fun ⟨_, h, _⟩ => (by cases h), ⟨taskG, rfl, rfl⟩⟩
theorem witness_Atomics_others : ([.lrw 6 5, .scq 6 5 7, .rsvDrop 5, .amoFadd 6 5 7] : List Instr).all (fun i => comes i (paged th [(5, 0x48)] page) th) = true
    ∧ ({ th with rsv := some 0x100048 }).rsv = some ((acc 0x48 8).pa / 8 * 8) ∧ th.rsv ≠ some ((acc 0x48 8).pa / 8 * 8)
    ∧ BankAddr (paged th [(5, 0x48)] page) w0 th 0x4C 4 true (acc 0x4C 4) ∧ (acc 0x4C 4).dpage = false :=
  ⟨by decide, by decide, by decide, bank_of _ _ _ _ _ _ rfl (by decide) (by decide), rfl⟩
/-- A request at the head of the queue of word 0x100048, which holds the bytes 5, 0, 0, 0, 0, 0, 0, 0x80. -/
def queued (op : RsvOp) (b x : Dword) (holder : Option Who) : State :=
  { machine { th with run := .waiting (.rsv 0x100048 op 6 b x) 0 } [] id with
    mem := [(0x100048, 5), (0x10004F, 0x80)],
    dies := [(0, { Die.fresh with rsv := [(0x100048, { holder, since := 0, queue := [{ due := 0, w := w0, far := none, op, d := 6, b, x, acc := acc 0x48 8 }] })] })] }
theorem witness_Atomics_grant : ([.add, .and, .or, .xor, .min, .max, .minZ, .maxZ, .swp, .cas, .lrw] : List RsvOp).all (fun op =>
      let s := queued op 7 5 none; s.rsvHome 0x100048 == some 0 && s.rsvReady 0 0x100048) = true
    ∧ (queued .scq 7 5 (some w0)).rsvReady 0 0x100048 = true ∧ Unheld (queued .scq 7 5 (some w0)) (acc 0x48 8).line :=
  ⟨by decide, by decide, unheld_of _ _ (by decide +kernel)⟩
/-- R270 with 3 in gB: the old word comes back and the new one stands in memory. -/
theorem test_atomics : ([(.add, 0x8000000000000008), (.and, 1), (.or, 0x8000000000000007), (.xor, 0x8000000000000006), (.min, 0x8000000000000005), (.max, 3), (.minZ, 3),
      (.maxZ, 0x8000000000000005), (.swp, 3), (.cas, 3)] : List (RsvOp × Nat)).all (fun p =>
    match exec (.reservationGrant 0x100048) (queued p.1 3 0x8000000000000005 none) with
    | .next s => leNat (memBytes s.mem 0x100048 8) == p.2
        && ((s.thread w0).map (·.run)) == some (.waiting (.answer [(6, 0x8000000000000005)]) 0)
    | _ => false) = true := by decide +kernel
/-- A `cas` that does not match, `lrw`, and the `scq` of the holder. -/
theorem test_reserve : (match exec (.reservationGrant 0x100048) (queued .cas 3 4 none) with
      | .next s => leNat (memBytes s.mem 0x100048 8) == 0x8000000000000005 | _ => false) = true
    ∧ (match exec (.reservationGrant 0x100048) (queued .lrw 0 0 none) with
      | .next s => (s.thread w0).map (·.rsv) == some (some 0x100048) && (smGetD (s.die 0).rsv 0x100048 RsvQueue.empty).holder == some w0 | _ => false) = true
    ∧ (match exec (.reservationGrant 0x100048) (queued .scq 9 0 (some w0)) with
      | .next s => leNat (memBytes s.mem 0x100048 8) == 9 && (s.thread w0).map (·.run) == some (.waiting (.answer [(6, 0)]) 0) | _ => false) = true := by decide +kernel
theorem test_scq_alone : (tAfter (.scq 6 5 7) (paged th [(5, 0x48)] page)).run = .waiting (.answer [(6, 1)]) 0 := by decide +kernel

/-- A page of ordered rounds, and a thread with its part in the round of line 0x2000. -/
def pageD : TlbEntry := { page with dpage := true }
def accD (va : Dword) (size : Nat) : Access := { acc va size with dpage := true }
def partT (done : Bool) : Thread := { th with detidx := 1, parts := [{ line := 0x2000, next := 4, done, tok := 8, again := false }] }
theorem witness_OrderedRounds : ([.amoFadd 6 5 7, .detOpen 5 7, .detDone 5] : List Instr).all (fun i => comes i (paged (partT false) [(5, 0x44), (7, 2)] pageD) (partT false)) = true
    ∧ BankAddr (paged (partT false) [] pageD) w0 (partT false) 0x44 4 true (accD 0x44 4) ∧ (accD 0x44 4).dpage = true
    ∧ BankAddr (paged (partT false) [] pageD) w0 (partT false) (lineVa 0x44) 128 true (accD 0 128)
    ∧ (partT false).partOn (accD 0x44 4).line = some { line := 0x2000, next := 4, done := false, tok := 8, again := false } ∧ (partT false).openMode = true
    ∧ (partT true).partOn (accD 0x44 4).line = some { line := 0x2000, next := 4, done := true, tok := 8, again := false } ∧ th.partOn 0x2000 = none
    ∧ (partT false).detidx.toNat < 2 :=
  ⟨by decide, bank_of _ _ _ _ _ _ rfl (by decide) (by decide), rfl, bank_of _ _ _ _ _ _ (by decide) (by decide) (by decide), by decide, rfl, by decide, rfl, by decide⟩
theorem test_det_round_checks : exec (.amoFadd 6 5 7) (paged th [(5, 0x44)] pageD) = .next ((paged th [(5, 0x44)] pageD).takeTrap w0 cDetRound 0x44 0)
    ∧ exec (.detOpen 5 7) (paged (partT false) [(5, 0x44), (7, 1)] pageD) = .next ((paged (partT false) [(5, 0x44), (7, 1)] pageD).takeTrap w0 cDetRound 0 0)
    ∧ exec (.detOpen 5 7) (paged (partT false) [(5, 0x44), (7, 2)] page) = .next ((paged (partT false) [(5, 0x44), (7, 2)] page).takeTrap w0 cDetRound 0 0) := ⟨rfl, rfl, rfl⟩
theorem test_ordered_update : ((tAfter (.amoFadd 6 5 7) (paged (partT false) [(5, 0x44)] pageD)).parts.map (·.next)) = [5]
    ∧ (ran (.amoFadd 6 5 7) (paged (partT false) [(5, 0x44), (6, 9)] pageD)).agenda.length = 1 := by decide +kernel
/-- A round of two with issuer 1 expected, one of its updates applied. -/
def rounded (ups : List HeldUpd) : State :=
  { plain [] with
    mem := [(0x100046, 0x80), (0x100047, 0x3F)],
    dies := [(0, { Die.fresh with updates := ups, rounds := [(0x2000, { bank := 0, n := 3, expected := 1, applied := 1, opened := [], toks := [(1, 8), (2, 8)], accepted := [], dones := [], doneWho := [] })] })] }
def update (idx seq : Nat) : RoundMsg := { w := w0, line := 0x2000, va := 0, tok := 8, off := 0x44, bank := 0, idx, n := 0, seq, val := 0x40000000, dpage := true }
theorem witness_OrderedRounds_bank : ((rounded []).die 0).rounds.length = 1 ∧ (rounded []).writeBlocked 0 0x2000 none = false
    ∧ (rounded []).roundHome 0x2000 = some 0 ∧ ((plain []).die 0).rounds = []
    ∧ (List.replicate 16 ({ bank := 0, msg := update 2 0 } : HeldUpd)).length = 16
    ∧ ([{ bank := 0, msg := update 1 1 }] : List HeldUpd).find? (fun u => u.msg.line == 0x2000 && u.msg.idx == 1 && u.msg.seq == 1) = some { bank := 0, msg := update 1 1 } := by decide
/-- 1.0 + 2.0 = 3.0 in the word; an update out of turn is held, and with sixteen held it comes again 64 cycles later. -/
theorem test_rounds : (match exec (.roundUpdateArrival (update 1 1)) (rounded []) with | .next s => leNat (memBytes s.mem 0x100044 4) == 0x40400000 | _ => false) = true
    ∧ (match exec (.roundUpdateArrival (update 2 0)) (rounded []) with
      | .next s => leNat (memBytes s.mem 0x100044 4) == 0x3F800000 && ((s.die 0).updates.length == 1) | _ => false) = true
    ∧ (match exec (.roundUpdateArrival (update 2 0)) (rounded (List.replicate 16 { bank := 0, msg := update 2 0 })) with
      | .next s => ((s.die 0).updates.length == 16) && s.agenda.map (·.due) == [64] | _ => false) = true
    ∧ (match exec (.heldUpdateApply 0x2000) (rounded [{ bank := 0, msg := update 1 1 }]) with
      | .next s => leNat (memBytes s.mem 0x100044 4) == 0x40400000 | _ => false) = true
    ∧ (match exec (.roundOpenArrival { update 2 0 with n := 3 }) (plain []) with
      | .next s => (smGet (s.die 0).rounds 0x2000).map (·.n) == some 3 | _ => false) = true := by decide +kernel

theorem witness_FencesAndPins : ([.th, .core, .clu, .die, .pkg, .sys] : List Scope).all (fun c =>
      comes (.fence c) (plain []) th && comes (.acq c) (plain []) th && comes (.rel c) (plain []) th && comes (.fenceC c) (plain []) th) = true
    ∧ comes (.lockL 6 5) (paged th [(5, 0x44)] page) th = true ∧ comes (.unlockL 5) (paged th [(5, 0x44)] page) th = true
    ∧ BankAddr (paged th [] page) w0 th (lineVa 0x44) 128 false (acc 0 128) :=
  ⟨by decide, by decide, by decide, bank_of _ _ _ _ _ _ (by decide) (by decide) (by decide)⟩
theorem test_fences : (tAfter (.fence .th) (plain [])).pc = 4 ∧ (tAfter (.fence .die) (plain [])).run = .waiting (.release .die true true false) 0
    ∧ (tAfter (.acq .core) (plain [])).pc = 4 ∧ ((ran (.fenceC .th) (machine th [] fun c => { c with cc := [(1, { data := 0, mask := 0, cls := 0, use := 0 })] })).core 0).cc.length ≤ 1 := by
  decide +kernel
/-- With a quota of 64 lines all pinned, every line is refused; with one fewer, a line that the space has pinned already is not (R276). -/
def pinned (n : Nat) (l : SMap L2Line) : State :=
  { paged th [(5, 0x44)] page with
    dies := [(0, { Die.fresh with l2 := l })],
    parts := [(0, { Partition.fresh { noSpec with clusters := 1 } with live := true, spaces := [(0, { quota := 1, root := 0, valid := true })], pins := [(0, n)] })] }
theorem test_lock : (tAfter (.lockL 6 5) (pinned 64 [])).run = .waiting (.answer [(6, 1)]) 0
    ∧ (tAfter (.lockL 6 5) (pinned 64 [(0x2000, { slice := 0, cls := 1, use := 0, pins := [0] })])).run = .waiting (.answer [(6, 1)]) 0
    ∧ (tAfter (.lockL 6 5) (pinned 63 [(0x2000, { slice := 0, cls := 1, use := 0, pins := [0] })])).run = .waiting (.answer [(6, 0)]) 0
    ∧ ((ran (.unlockL 5) (pinned 64 [(0x2000, { slice := 0, cls := 1, use := 0, pins := [0] })])).part 0).pinned 0 = 63
    ∧ ((ran (.unlockL 5) (pinned 64 [])).part 0).pinned 0 = 64 := by decide +kernel
/-! Generators, gangs, engines, messages and threads. -/

/-- A generator free to bind at the end of the local store, as an `arrive` stream of words. -/
def genFree : Gen := { Gen.free with base := lb 0x100, size := 2, stride0 := 4, count0 := 2 }
def genM (g : Gen) (regs : List (Nat × Dword)) : State := machine th regs fun c => { c with gens := [(3, g)] }
theorem witness_GeneratorForms : ([.bind 6 3 .arrive, .bind 6 3 .input, .bind 6 3 .output, .bind 0 3 .input, .unbind 3, .agSet 3 5, .agGet 6 3 10, .agGet 6 3 11] : List Instr).all
      (fun i => comes i (genM genFree [(5, lb 64)]) th) = true
    ∧ ((genM genFree []).core 0).boundGen 0 6 = none ∧ ((genM genFree []).core 0).genTaken 0 3 = false
    ∧ ((genM { genFree with owner := some 1 } []).core 0).genTaken 0 3 = true
    ∧ (((genM { genFree with owner := some 0, bound := some (6, .input) } []).core 0).boundGen 0 6).map (·.1) = some 3
    ∧ ¬ ((((genM genFree []).core 0).gen 3).base.toNat < 0xFFFFFFFFF0000000) := by decide
/-- A descriptor in the local store: base 0x1000, stride 8, counts 2, 1, 1, positions 0, size 3. -/
def descCore (bad : Bool) (c : Core) : Core :=
  { c with lstore := [(16, 0x1000), (18, 8), (21, 2), (22, 1), (23, 1), (24, if bad then 2 else 0), (27, 3)] }
theorem witness_GeneratorForms_set : (match (machine th [(5, lb 64)] (descCore false)).gather w0 th (lb 64) 64 1 with
      | .ok (s3, l) => (((s3.core 0).gen 3).ofBytes 0 l).isSome | .error _ => false) = true
    ∧ (match (machine th [(5, lb 64)] (descCore true)).gather w0 th (lb 64) 64 1 with
      | .ok (s3, l) => (((s3.core 0).gen 3).ofBytes 0 l).isNone | .error _ => false) = true := by decide
theorem test_bind : (((ran (.bind 6 3 .arrive) (genM genFree [])).core 0).gen 3).bound = some (6, .arrive)
    ∧ (((ran (.bind 6 3 .arrive) (genM genFree [])).core 0).gen 3).owner = some 0
    ∧ (((ran (.unbind 3) (genM { genFree with owner := some 0, bound := some (6, .arrive) } [])).core 0).gen 3) = Gen.free
    ∧ (((ran (.agSet 3 5) (machine th [(5, lb 64)] (descCore false))).core 0).gen 3).base = 0x1000
    ∧ gAfter (.agGet 6 3 4) [] 6 = 1 := by decide +kernel
theorem test_bind_refused : exec (.bind 0 3 .input) (genM genFree []) = .next ((genM genFree []).takeTrap w0 cReservedField (bitsOf (.bind 0 3 .input)) 0)
    ∧ exec (.bind 6 3 .arrive) (genM { genFree with base := 0 } [])
      = .next ((genM { genFree with base := 0 } []).takeTrap w0 cReservedField (bitsOf (.bind 6 3 .arrive)) 0)
    ∧ exec (.agSet 3 5) (machine th [(5, lb 64)] (descCore true))
      = .next ((machine th [(5, lb 64)] (descCore true)).takeTrap w0 cReservedField (bitsOf (.agSet 3 5)) 0) := ⟨rfl, rfl, rfl⟩
/-- An awaited element at LB + 0x100, whose word is 0xFFFFFFFE. -/
def awaiting (va : Dword) : State :=
  machine th [] fun c => { c with
    lstore := [(64, 0xFFFFFFFE)],
    gens := [(3, { genFree with owner := some 0, sext := true, bound := some (6, .input), ahead := [{ addr := va, val := none, fault := none }] })] }
theorem witness_GeneratorForms_arrival : ((awaiting (lb 0x100)).thread { core := 0, slot := 0 }).isSome = true ∧ OwnLocal 0 (lb 0x100) 0x100
    ∧ 0x100 % genFree.bytes = 0 ∧ genFree.size.toNat < 4 ∧ CleanSpan (awaiting (lb 0x100)) 0 0x100 4 ∧ (lb 0x101).toNat % genFree.bytes ≠ 0 :=
  ⟨by decide, ⟨rfl, by decide, by decide⟩, by decide, by decide, clean_of _ _ _ _ rfl, by decide⟩
theorem test_stream_arrival : (match exec (.streamElementArrival 0 3) (awaiting (lb 0x100)) with
      | .next s => ((s.core 0).gen 3).ahead.map (fun x => (x.val, x.fault)) | _ => []) = [(some 0xFFFFFFFFFFFFFFFE, none)]
    ∧ (match exec (.streamElementArrival 0 3) (awaiting (lb 0x101)) with
      | .next s => ((s.core 0).gen 3).ahead.map (·.fault) | _ => []) = [some cMisaligned] := by decide +kernel

/-- A leader and a follower of a gang of two. -/
def member (k : Nat) : Thread := { th with gang := some { n := 2, member := k, ended := false }, gret := 0x80, gidx := BitVec.ofNat 3 k }
/-- Cores 0 and 1 with a thread each. -/
def twoCores (a b : Thread) : State :=
  { State.reset.loaded with
    cores := [(0, { Core.fresh false with threads := [(0, a)], groups := [(0, controlGroup 0 0)], nextGid := 1 }),
      (1, { Core.fresh false with threads := [(0, b)], groups := [(0, controlGroup 0 0)], nextGid := 1 })] }
def atGate : Thread := { th with run := .waiting (.gangForm 2) 0 }
theorem witness_Gangs : comes (.gangForm 5 1) (plain []) th = true ∧ th.gang = none
    ∧ ([.gangEnd, .gangBar] : List Instr).all (fun i => comes i (plain []) th && comes i (machine (member 0) [] id) (member 0)) = true
    ∧ comes (.gangForm 5 1) (twoCores (member 0) (member 1)) (member 0) = true ∧ (member 0).gang.isSome = true
    ∧ isFollower (member 1) ∧ ¬ isFollower (member 0) ∧ ¬ isFollower th ∧ (twoCores atGate atGate).gangReady w0 = some 2
    ∧ (twoCores (member 0) (member 1)).thread { core := 1, slot := 0 } = some (member 1) ∧ (member 0).run = .ready :=
  ⟨by decide, rfl, by decide, by decide, rfl, ⟨_, rfl, by decide⟩, fun ⟨g, h, h2⟩ => h2 (by cases h; rfl), fun ⟨g, h, _⟩ => (by cases h), by decide, rfl, rfl⟩
theorem test_gang_form : (tAfter (.gangForm 5 1) (plain [(5, 0x81)])).gret = 0x80 ∧ (tAfter (.gangForm 5 1) (plain [(5, 0x81)])).run = .waiting (.gangForm 2) 0
    ∧ (match exec (.gangFormation w0) (twoCores atGate atGate) with
      | .next s => (s.thread { core := 1, slot := 0 }).map (fun x => (x.gang, x.gidx, x.run)) | _ => none) = some (some { n := 2, member := 1, ended := false }, 1, .ready) := by
  decide +kernel
theorem test_gang_ends : (tAfter .gangEnd (machine (member 1) [] id)).pc = 0x80 ∧ (tAfter .gangEnd (machine (member 0) [] id)).pc = 4
    ∧ (tAfter .gangEnd (machine (member 0) [] id)).gang = none ∧ (tAfter .gangBar (machine (member 0) [] id)).run = .waiting .gangBar 0
    ∧ (match exec (.gangTrapNotice w0 1 0x12) (twoCores (member 0) (member 1)) with
      | .next s => (s.thread w0).map (fun x => (x.gang, x.next)) | _ => none) = some (none, [(cGangDisbanded, 0x1201)]) := by decide +kernel

/-- `mx.zero` of tiles 0xA5 with tag 10 in w5, and in the local store at LB + 64. -/
def zeroCmd : BitVec 256 := cmdOf [0x1040000a, 0xa5, 0, 0, 0, 0, 0, 0]
def engM (regs : List (Nat × Dword)) (f : Core → Core) : State := machine th regs fun c => f { c with wfile := [(5, BitVec.ofNat 512 zeroCmd.toNat)], lstore := [(16, 0x1040000a), (17, 0xa5)] }
theorem witness_EngineForms : ([.push 5 false .mx, .push 5 true .mx, .push 5 false .cp, .pushm .mx 5 1, .engWait .vx 6, .engPoll .vx 6, .tcfgSet 6 15, .tcfgGet 6 15, .accLoad 5 3] :
      List Instr).all (fun i => comes i (engM [(5, lb 32)] id) th) = true
    ∧ ¬ word0Bad .mx zeroCmd ∧ word0Bad .cp zeroCmd ∧ effective (lb 32) 1 32 = lb 64 ∧ th.reports .vx = []
    ∧ tileCfgOk 0xA23FF ∧ ¬ tileCfgOk 0x1A23FF ∧ ((engM [] id).core 0).claimer = none ∧ ((engM [] id).core 0).mx.all = [] := by
  refine ⟨by decide, ?_, ?_, by decide, rfl, ?_, ?_, by decide, by decide⟩
  · show ¬ (_ ∨ _); decide
  · show _ ∨ _; decide
  · unfold tileCfgOk; decide
  · unfold tileCfgOk; decide
theorem witness_EngineForms_reports : let r : Report := { seq := 0, done := some 7, lines := [] }; ({ th with repVx := [r] }).reports .vx = r :: []
    ∧ (engM [] id).gather w0 th (lb 64) 32 1 ≠ .error (.trap 0 0) := ⟨rfl, by intro h; cases h⟩
theorem test_push : ((ran (.push 5 false .mx) (engM [] id)).core 0).mx.queue.map (fun c => (c.bits == zeroCmd, c.seq)) = [(true, 0)]
    ∧ ((ran (.pushm .mx 5 1) (engM [(5, lb 32)] id)).core 0).mx.queue.map (·.bits == zeroCmd) = [true]
    ∧ ((tAfter (.push 5 false .mx) (engM [] id)).repMx).length = 1 := by decide +kernel
theorem test_push_malformed : (ran (.push 5 false .cp) (engM [] id)).agenda.map (fun x => match x.ev with | .hypervisorEvent e => (e.cause, e.tval) | _ => (0, 0))
    = [(cCmdMalformed, 0x1040000a)] := by decide +kernel
theorem test_reports : gAfter (.engWait .vx 6) [] 6 = 0x8000000000000000 ∧ gAfter (.engPoll .cp 6) [] 6 = 0x8000000000000000
    ∧ (smGetD ((ran (.engPoll .vx 6) (machine { th with repVx := [{ seq := 0, done := none, lines := [] }] } [] id)).core 0).gfile 6 0) = 0x8000000000000001
    ∧ (smGetD ((ran (.engWait .vx 6) (machine { th with repVx := [{ seq := 0, done := some 7, lines := [] }] } [] id)).core 0).gfile 6 0) = 7 := by decide +kernel
theorem test_tcfg : ((ran (.tcfgSet 6 15) (plain [(6, 0xA23FE)])).core 0).tileCfg 15 = 0xA23FE ∧ gAfter (.tcfgGet 6 15) [] 6 = 0xA23FF := by decide +kernel
theorem test_tcfg_refused : exec (.tcfgSet 6 15) (plain [(6, 0x1A23FF)]) = .next ((plain [(6, 0x1A23FF)]).takeTrap w0 cTileCfg 0x1A23FF 0) := rfl
/-- R98: entry 255 must be a NaN, and is zero here. -/
theorem witness_EngineForms_accord : (match (engM [] id).gather w0 th (lb 128) 64 16 with
    | .ok (s3, l) => (accordBad (accordOf l)).isSome && (s3.core 0).mx.all.isEmpty && (s3.core 0).vx.all.isEmpty | .error _ => false) = true := by decide +kernel

/-- A destination word: core 3, class 2, three registers; and one of another device. -/
def dest3 : Dword := 0x220003
theorem witness_Messages_send : ([.msgSend 5 6, .msgSendw 5 6] : List Instr).all (fun i => (sendOf i).isSome && comes i (plain [(5, dest3)]) th && comes i (tasked taskG [(5, dest3)]) taskT) = true
    ∧ ¬ destBad dest3 ∧ destBad 0x800 ∧ destBad 0x100000000 ∧ RunHeld th 125 3 ∧ ¬ RunHeld th 126 3
    ∧ ((plain []).part 0).spec.clusters.getLsbD ((destOf dest3).dst / 16) = true ∧ ((plain []).part 0).spec.clusters.getLsbD (16 / 16) = false
    ∧ (plain []).taskOf w0 th = none ∧ (destOf dest3).far = false ∧ ((plain []).msgClass 3 2).lane = []
    ∧ (destOf 0x8000000000220003).far = true ∧ (plain []).mayReach 0 (destOf 0x8000000000220003).dev = true := by
  refine ⟨by decide, by unfold destBad; decide, by unfold destBad; decide, by unfold destBad; decide, ?_, ?_, by decide, by decide, rfl, by decide, rfl, by decide, by decide⟩
  · intro k hk; refine ⟨by omega, Or.inl ?_⟩; show 0 + _ < 128; omega
  · intro h; exact absurd (h 2 (by decide)).1 (by decide)
theorem test_send : (ran (.msgSend 5 6) (plain [(5, dest3), (6, 1), (7, 2), (8, 3)])).agenda.map (fun x => match x.ev with | .messageArrival m => (m.dst, m.cls, m.words) | _ => (0, 0, []))
      = [(3, 2, [1, 2, 3])]
    ∧ (tAfter (.msgSendw 5 6) (plain [(5, dest3)])).run = .waiting .report 0
    ∧ ((ran (.msgSend 5 6) (tasked taskG [(5, dest3)])).group 0 5).map (·.held.length) = some 1 := by decide +kernel
theorem test_send_refused : exec (.msgSend 5 6) (plain [(5, 0x800)]) = .next ((plain [(5, 0x800)]).takeTrap w0 cReservedField (bitsOf (.msgSend 5 6)) 0)
    ∧ exec (.msgSend 5 126) (plain [(5, dest3)]) = .next ((plain [(5, dest3)]).takeTrap w0 cRegLimit (bitsOf (.msgSend 5 126)) 0)
    ∧ exec (.msgSend 5 6) (plain [(5, 16)]) = .next ((plain [(5, 16)]).takeTrap w0 cPartitionViolation 16 0) := ⟨rfl, rfl, rfl⟩
/-- A class bound to slot 0 with two registers from g20, and a message for it. -/
def boundCls (named armed ready : Bool) (held : List Held) : MsgClass :=
  { MsgClass.empty with slot := some 0, reg := 20, n := 2, named, armed, ready, held }
def msgM (k : MsgClass) (regs : List (Nat × Dword)) : State := machine th regs fun c => { c with classes := [(2, k)] }
def msg2 : Msg := { src := { core := 7, slot := 5 }, origin := 0, dst := 0, cls := 2, words := [11, 12, 13], report := false, copy := none }
theorem witness_Messages_classes : ([.msgBind 20 false 1 2, .msgBind 0 false 1 2, .msgBind 20 false 1 15, .msgWait 2, .detWait 5 6] : List Instr).all
      (fun i => comes i (msgM (boundCls true true false [{ num := 0, msg := msg2 }]) [(5, 0x2050007)]) th) = true
    ∧ ((msgM MsgClass.empty []).msgClass 0 2).slot.isSome = false ∧ ¬ (th.glim - th.gbase ≤ 126 + 1) ∧ th.glim - th.gbase ≤ 127 + 1
    ∧ ((msgM (boundCls false true true []) []).msgClass 0 2).ready = true ∧ ((msgM MsgClass.empty []).msgClass 0 2).slot ≠ some 0 := by decide
/-- R343: sender 7.5 of class 2 is 0x0205_0007. -/
theorem witness_Messages_named : let v := 0x2050007; let k := boundCls true true false [{ num := 0, msg := msg2 }]
    ¬ (2 ^ 28 ≤ v ∨ v / 2 ^ 22 % 4 ≠ 0 ∨ v / 2 ^ 11 % 2 ^ 5 ≠ 0) ∧ v / 2 ^ 24 % 16 = 2 ∧ v % 2 ^ 11 = 7 ∧ v / 2 ^ 16 % 2 ^ 6 = 5
    ∧ (7 * 64 + 5, 0) ∉ k.taken ∧ k.held.find? (fun h => senderKey h.msg == 7 * 64 + 5 && h.num == 0) = some { num := 0, msg := msg2 }
    ∧ k.held.find? (fun h => senderKey h.msg == 7 * 64 + 5 && h.num == 1) = none := by decide
theorem test_msg_bind : ((ran (.msgBind 20 true 1 2) (msgM MsgClass.empty [])).msgClass 0 2).slot = some 0 ∧ ((ran (.msgBind 20 true 1 2) (msgM MsgClass.empty [])).msgClass 0 2).n = 2
    ∧ ((ran (.msgBind 20 true 1 2) (msgM MsgClass.empty [])).msgClass 0 2).named = true
    ∧ ((ran (.msgBind 0 true 1 2) (msgM (boundCls false true false []) [])).msgClass 0 2).slot = none := by decide +kernel
theorem test_msg_wait : ((ran (.msgWait 2) (msgM (boundCls false false true []) [])).msgClass 0 2).armed = true
    ∧ (tAfter (.msgWait 2) (msgM (boundCls false true false []) [])).run = .waiting (.msg 2) 0
    ∧ (tAfter (.detWait 5 6) (msgM (boundCls true true false []) [(5, 0x2050007)])).run = .waiting (.named 2 { core := 7, slot := 5 } 0) 0
    ∧ ((ran (.detWait 5 6) (msgM (boundCls true true false [{ num := 0, msg := msg2 }]) [(5, 0x2050007)])).msgClass 0 2).held = []
    ∧ smGetD ((ran (.detWait 5 6) (msgM (boundCls true true false [{ num := 0, msg := msg2 }]) [(5, 0x2050007)])).core 0).gfile 21 0 = 12 := by decide +kernel
theorem test_msg_refused : exec (.msgWait 2) (msgM MsgClass.empty []) = .next ((msgM MsgClass.empty []).takeTrap w0 cMsgUnbound 2 0)
    ∧ exec (.msgWait 2) (msgM (boundCls true true false []) []) = .next ((msgM (boundCls true true false []) []).takeTrap w0 cReservedField 2 0)
    ∧ exec (.msgBind 20 false 1 15) (plain []) = .next ((plain []).takeTrap w0 cReservedField 15 0) := ⟨rfl, rfl, rfl⟩
theorem witness_Messages_arrival : ((msgM MsgClass.empty []).core 0).gated = false ∧ ((msgM MsgClass.empty []).msgClass 0 2).held.length < 4
    ∧ ((msgM (boundCls false true false []) []).msgClass 0 2).armed = true ∧ (msgM (boundCls false true false []) []).thread w0 = some th ∧ th.run = .ready
    ∧ ∀ i, i < 2 → Unbound (msgM (boundCls false true false []) []) w0 th (20 + i) := ⟨rfl, by decide, rfl, rfl, rfl, fun _ _ => Or.inr rfl⟩
/-- An arrival at an armed class stands in g20 and g21; one that nobody is bound to is held; a held one is deposited once its class is armed. -/
theorem test_arrival : (let s := ran (.messageArrival msg2) (msgM (boundCls false true false []) []);
      (s.core 0).gfile = [(20, 11), (21, 12)] ∧ (s.msgClass 0 2).ready = true ∧ (s.msgClass 0 2).armed = false)
    ∧ (match exec (.messageArrival msg2) (msgM MsgClass.empty []) with
      | .next s => (s.msgClass 0 2).held == [{ num := 0, msg := msg2 }] && (s.core 0).gfile == [] | _ => false) = true
    ∧ (let s := ran (.heldMessageDeposit 0 2) (msgM (boundCls false true false [{ num := 0, msg := msg2 }]) []);
      (s.core 0).gfile = [(20, 11), (21, 12)] ∧ (s.msgClass 0 2).held = []) := by decide +kernel

/-- A control thread, which may spawn one compute thread of 16 registers and 4 wide ones at 0x100. -/
def ctlT : Thread := { th with compute := false, wcount := 0, glim := 64, gext := 64, galloc := 64 }
def spawnWord : Dword := 0x01100100
theorem witness_ThreadForms : ([.thrSpawn 6 5, .thrExit, .thrPark, .thrWake 5, .nestNext 6] : List Instr).all
      (fun i => comes i (machine ctlT [(5, spawnWord)] id) ctlT && comes i (plain []) th) = true
    ∧ ctlT.compute = false ∧ (let v := spawnWord.toNat; v / 2 ^ 28 % 16 = 0 ∧ v / 2 ^ 24 % 16 = 1 ∧ v / 2 ^ 16 % 256 = 16 ∧ v % 2 = 0)
    ∧ ((machine ctlT [] id).core 0).freeSlots.head? = some 1 ∧ roomFor ((machine ctlT [] id).core 0).windows 16 8 2048 = some 64
    ∧ roomFor ((machine ctlT [] id).core 0).wgroups 4 1 256 = some 0 ∧ ((machine ctlT [] id).group 0 0).isSome = true
    ∧ th.wakePending = false ∧ ({ th with nestL := 3, nestC0 := 2, nestC1 := 2 }).nestL ≠ 0 := by decide
theorem test_spawn : smGetD ((ran (.thrSpawn 6 5) (machine ctlT [(5, spawnWord)] id)).core 0).gfile 6 0 = 1
    ∧ ((ran (.thrSpawn 6 5) (machine ctlT [(5, spawnWord)] id)).thread { core := 0, slot := 1 }).map (fun x => (x.pc, x.gbase, x.glim, x.wcount)) = some (0x100, 64, 80, 4)
    ∧ smGetD ((ran (.thrSpawn 6 5) (machine ctlT [(5, spawnWord)] id)).core 0).gfile 66 0 = spawnWord := by decide +kernel
theorem test_spawn_refused : exec (.thrSpawn 6 5) (plain []) = .next ((plain []).takeTrap w0 cReservedField (bitsOf (.thrSpawn 6 5)) 0)
    ∧ exec (.thrSpawn 6 5) (machine ctlT [(5, 0x01070100)] id) = .next ((machine ctlT [(5, 0x01070100)] id).takeTrap w0 cReservedField 0x01070100 0) := ⟨rfl, rfl⟩
theorem test_park : (tAfter .thrPark (plain [])).run = .parked 0 ∧ (tAfter .thrPark (plain [])).pc = 4 ∧ (tAfter .thrPark (machine { th with wakePending := true } [] id)).run = .ready
    ∧ (tAfter .thrPark (machine { th with wakePending := true } [] id)).wakePending = false
    ∧ (tAfter (.thrWake 5) (plain [(5, 0)])).wakePending = true ∧ ((ran .thrExit (plain [])).thread w0).isNone = true := by decide +kernel
theorem test_nest_next : (let t := tAfter (.nestNext 6) (machine { th with nestL := 3, nestC0 := 2, nestC1 := 2, ix0 := 0 } [] id); (t.nestL, t.ix0, t.ix1, t.ix2)) = (2, 1, 0, 0)
    ∧ (let t := tAfter (.nestNext 6) (machine { th with nestL := 2, nestC0 := 2, nestC1 := 2, ix0 := 1 } [] id); (t.nestL, t.ix0, t.ix1, t.ix2)) = (1, 0, 1, 0)
    ∧ (let t := tAfter (.nestNext 6) (machine { th with nestL := 1, nestC0 := 2, nestC1 := 2, ix0 := 1, ix1 := 1 } [] id); (t.nestL, t.ix0, t.ix1, t.ix2)) = (0, 0, 0, 1) := by
  decide +kernel
/-- The iteration fetcher's counter on the line at 0x100000: counts 2, 3, 4 in chunks of 5 for 1. -/
def nestM (c : Core) : Core := { c with lstore := [(16, 2), (17, 3), (18, 4), (19, 5), (20, 1)] }
theorem witness_ThreadForms_nest : ([.nestClaim 6 5, .nestEnd 5, .nestSet 5 7] : List Instr).all (fun i => comes i (paged th [(5, 0), (7, lb 64)] page nestM) th) = true
    ∧ BankAddr (paged th [(5, 0), (7, lb 64)] page nestM) w0 th 0 128 true (acc 0 128) ∧ ¬ NotSecure (paged th [(5, 0), (7, lb 64)] page nestM) w0 th
    ∧ ∃ p, (paged th [(5, 0), (7, lb 64)] page nestM).gather w0 th (lb 64) 1 20 = .ok p :=
  ⟨by decide, bank_of _ _ _ _ _ _ rfl (by decide) (by decide), fun ⟨_, h, _⟩ => (by cases h), ok_of (by decide +kernel)⟩
theorem test_nest_set : ((ran (.nestSet 5 7) (paged th [(5, 0), (7, lb 64)] page nestM)).core 0).flights.map (fun f => (f.lw.line, f.lw.data.toNat))
      = [(0x2000, 24 + 2 * 2 ^ 64 + 3 * 2 ^ 96 + 4 * 2 ^ 128 + 5 * 2 ^ 160 + 2 ^ 192)]
    ∧ ((ran (.nestEnd 5) (paged th [(5, 0)] page)).core 0).flights.map (fun f => (f.lw.line, f.lw.data.toNat, f.lw.mask.toNat)) = [(0x2000, 0, 0xFF)] := by decide +kernel

theorem witness_BarriersAndReductions : ([.barInit 5 6, .barArr 5, .barWait 5, .barAw 5, .redSend 4 true 2, .redRecv 4] : List Instr).all (fun i => comes i (plain [(5, 15)]) th) = true
    ∧ ¬ barBad 15 ∧ barBad 16 ∧ (plain []).arriving w0 15 = false ∧ smGet ((plain []).barrier 0 15).arrived 0 = none :=
  ⟨by decide, by unfold barBad; decide, by unfold barBad; decide, by decide, rfl⟩
/-- Barrier 5 of cluster 0: two of three have come. -/
def barM (b : Barrier) (regs : List (Nat × Dword)) (t : Thread) : State := { machine t regs id with clusters := [(0, { Cluster.fresh with barriers := [(5, b)] })] }
def bar23 : Barrier := { x := 3, cur := 2, carried := 0, phase := 4, arrived := [] }
theorem witness_BarriersAndReductions_unit : let s := barM bar23 [] { th with run := .waiting (.barrier 5 none true) 0 };
    (∀ x ∈ s.agenda, ∀ v, x.ev ≠ .barrierArrival 0 5 v) ∧ (s.barrier 0 5).carried = 0 ∧ (s.barrier 0 5).cur < (s.barrier 0 5).x ∧ s.barWaitOf w0 5 = some (none, true)
    ∧ (barM bar23 [] { th with run := .waiting (.barrier 5 (some 4) true) 0 }).barWaiters 0 5 = [w0] :=
  ⟨fun x hx => (by cases hx), rfl, by decide, by decide, by decide⟩
theorem test_barrier_forms : (tAfter (.barInit 5 6) (plain [(5, 15), (6, 4096)])).run = .waiting (.barInit 15 4096) 0
    ∧ (tAfter (.barArr 5) (plain [(5, 15)])).pc = 4 ∧ (tAfter (.barWait 5) (barM { bar23 with arrived := [(0, 3)] } [(5, 5)] th)).pc = 4
    ∧ (tAfter (.barWait 5) (barM { bar23 with arrived := [(0, 4)] } [(5, 5)] th)).run = .waiting (.barrier 5 (some 4) false) 0 := by decide +kernel
theorem test_barrier_refused : exec (.barInit 5 6) (plain [(5, 15), (6, 4097)]) = .next ((plain [(5, 15), (6, 4097)]).takeTrap w0 cReservedField 15 0)
    ∧ exec (.barArr 5) (plain [(5, 16)]) = .next ((plain [(5, 16)]).takeTrap w0 cReservedField (bitsOf (.barArr 5)) 0) := ⟨rfl, rfl⟩
theorem test_barrier_unit : (match exec (.barrierArrival 0 5 w0) (barM bar23 [] th) with
      | .next s => ((s.barrier 0 5).cur, (s.barrier 0 5).phase, s.agenda.length) | _ => (9, 9, 9)) = (0, 5, 1)
    ∧ (match exec (.barrierArrival 0 5 w0) (barM { bar23 with cur := 1 } [] th) with
      | .next s => ((s.barrier 0 5).cur, (s.barrier 0 5).phase, s.agenda.length) | _ => (9, 9, 9)) = (2, 4, 0) := by decide +kernel
/-- A tree whose root and one participant is core 0. -/
def redM (tr : RedTree) : State :=
  { plain [] with
    dies := [(0, { Die.fresh with red := [(0, tr)] })],
    parts := [(0, { Partition.fresh { noSpec with clusters := 1 } with live := true, redEnts := [(0, { root := true, part := true, parent := 0 })] })] }
theorem witness_BarriersAndReductions_tree : (redM { sent := [], total := none }).redTreeOk 0 0 = true ∧ (((redM { sent := [], total := none }).part 0).redEnt 0).part = true
    ∧ (((redM { sent := [], total := none }).part 0).redEnt 0).root = true ∧ ((redM { sent := [], total := some (7, false) }).redTree 0 0).total = some (7, false)
    ∧ (((redM { sent := [(0, { v := 3, op := 0, f32 := false })], total := none }).parts.filter fun x => (redM { sent := [(0, { v := 3, op := 0, f32 := false })], total := none }).redDone 0 x.1)).length = 1 := by
  decide +kernel
theorem test_reduction_tree : ((ran (.redRecv 4) (redM { sent := [], total := some (7, false) })).core 0).wfile = [(4, 7)]
    ∧ (((ran (.redSend 4 true 2) (redM { sent := [], total := none })).redTree 0 0).sent.map (·.1)) = [0]
    ∧ (match exec (.reductionRoundComplete 0) (redM { sent := [(0, { v := 3, op := 0, f32 := false })], total := none }) with
      | .next s => (s.redTree 0 0).total | _ => none) = some (3, false) := by decide +kernel
theorem test_red_send_refused : exec (.redSend 4 true 2) (plain []) = .next ((plain []).takeTrap w0 cReservedField (bitsOf (.redSend 4 true 2)) 0) := rfl
/-! Tasks and editable contexts. -/

/-- A record of entry 0x40 with 16 registers and no footprint at LB + 64, with the flags of R76 given. -/
def recCore (flags : Word) (c : Core) : Core := { c with lstore := [(16, 0x40), (17, flags), (20, 3)], wfile := [] }
def recM (flags : Word) (regs : List (Nat × Dword)) : State := machine th regs (recCore flags)
theorem witness_TaskForms : ([.taskPush 5, .taskSend 6 5, .retire, .retireS 5 6, .taskAbort, .tstamp 6, .detList 5 6] : List Instr).all
      (fun i => comes i (recM 0x1000 [(5, lb 64), (6, 1)]) th) = true
    ∧ (match (recM 0x1000 []).gather w0 th (lb 64) 64 1 with
      | .ok (s3, l) => decide (copyOf (lb 64) l = { addr := lb 64, bits := BitVec.ofNat 512 (0x40 + 0x1000 * 2 ^ 32 + 3 * 2 ^ 128), faulted := false, again := false })
          && !s3.isDetCore 0 && (s3.taskOf w0 th).isNone && recordValid (copyOf (lb 64) l) none && decide ((s3.core 0).deque.length < 256)
      | .error _ => false) = true
    ∧ (match (recM 0x1008 []).gather w0 th (lb 64) 64 1 with
      | .ok (_, l) => decide ((copyOf (lb 64) l).bits.toNat / 2 ^ 35 % 2 = 1) | .error _ => false) = true := by decide +kernel
theorem witness_TaskForms_task : comes .taskAbort (tasked taskG []) taskT = true ∧ ((tasked taskG []).taskOf w0 taskT) = some taskG
    ∧ (2 ^ 16 ≤ 0x10000 ∨ 0x80 / 2 ^ 7 % 2 = 1) ∧ ¬ (0xFF7F / 2 ^ 7 % 2 = 1) ∧ th.num = 0 := ⟨by decide, rfl, by decide, by decide, rfl⟩
theorem test_task_push : ((ran (.taskPush 5) (recM 0x1000 [(5, lb 64)])).core 0).deque.map (fun r => (r.addr, r.bits.toNat % 2 ^ 64)) = [(lb 64, 0x0000100000000040)]
    ∧ ((ran (.taskSend 6 5) (recM 0x1000 [(5, lb 64), (6, 1)])).agenda.map (fun x => match x.ev with | .messageArrival m => (m.dst, m.cls, m.copy.isSome) | _ => (0, 0, false)))
      = [(1, 15, true)] := by decide +kernel
theorem test_task_checks : (exec (.taskSend 6 5) (recM 0x1000 [(5, lb 64), (6, 2048)]) = .next ((recM 0x1000 [(5, lb 64), (6, 2048)]).takeTrap w0 cReservedField (bitsOf (.taskSend 6 5)) 0))
    ∧ exec (.taskSend 6 5) (recM 0x1000 [(5, lb 64), (6, 16)]) = .next ((recM 0x1000 [(5, lb 64), (6, 16)]).takeTrap w0 cPartitionViolation 16 0)
    ∧ exec (.taskPush 5) (recM 0x1000 [(5, lb 8)]) = .next ((recM 0x1000 [(5, lb 8)]).takeTrap w0 cMisaligned (lb 8) 0)
    ∧ exec .taskAbort (plain []) = .next ((plain []).takeTrap w0 cReservedField (bitsOf .taskAbort) 0) := ⟨rfl, rfl, rfl, rfl⟩
theorem test_retire : ((ran .retire (plain [])).thread w0).isNone = true ∧ ((ran .taskAbort (tasked taskG [])).group 0 5).isNone = true
    ∧ (tAfter (.tstamp 6) (plain [])).run = .waiting (.answer [(6, BitVec.allOnes 64)]) 0
    ∧ (tAfter (.tstamp 6) (tasked { taskG with tstamp := 77 } [])).run = .waiting (.answer [(6, 77)]) 0 := by decide +kernel
theorem test_retire_s : ((ran (.retireS 5 6) (machine { th with openMode := false, gid := 5, level := .u } [(5, lb 64), (6, 0x7F)]
      fun c => { recCore 0x1000 c with groups := [(5, { taskG with slots := [0] })] })).group 0 5).bind (fun g => g.succ.map (·.2)) = some 0x7F := by decide +kernel

/-- An open context in place 5 of die 0: blocks of 4 tokens, two layers, seven tokens in two blocks, at edit 9. -/
def ctx5 : Ctx :=
  { handle := 0x8005, part := 0, space := 0, layers := 2, lgb := 2, thresh := 0, store := 0x1000, cap := 4, width := 32, dk := 1, dv := 1, embed := 0, nemb := 16,
    table := [{ entry := 0, flags := 0x1000, clusters := 1, die := 0, fpo := 0, fmt := 0, scl := 0 }, { entry := 0, flags := 0x1000, clusters := 1, die := 0, fpo := 0, fmt := 0, scl := 0 }],
    trans := [page], counter := 9, chain := [{ phys := 0, fill := 4 }, { phys := 1, fill := 3 }], segs := [],
    img0 := { valid := true, version := 9, ord := 0, chain := [{ phys := 0, fill := 4 }, { phys := 1, fill := 3 }], segs := [] },
    img1 := { valid := false, version := 0, ord := 0, chain := [], segs := [] }, frames := [], places := [], waves := [], ord := 0, edits := [], answers := [], born := 0, reports := [], shared := [] }
def ctxM (c : Ctx) (regs : List (Nat × Dword)) (f : Core → Core := id) : State := { paged th regs page f with dies := [(0, { Die.fresh with ctxs := [(5, c)] })] }
theorem witness_ContextForms : ([.ctxOpen 6 5, .ctxFork 6 5 7, .ctxClose 5, .editIns 6 5 7, .editChg 6 5 7, .editDel 6 5, .ctxRope 6 5 8, .dmapGet 6 5, .dmapMov 5 7, .settle 5 7, .ctxRd 6 5 7,
      .ctxRel 5, .beamMap 8 7, .ptbFill 5 7, .ptbInv 5, .posXl 6 5 7] : List Instr).all (fun i => comes i (ctxM ctx5 [(5, 0x800500000000), (8, lb 64)]) th) = true
    ∧ ¬ NotSecure (ctxM ctx5 []) w0 th ∧ lowIn 0x800500000000 = 0 ∧ handleIn 0x800500000003 = 0x8005
    ∧ ((ctxM ctx5 []).ctxOf 0 0x8005).isSome = true ∧ ((ctxM ctx5 []).ctxOf 0 0x10005).isSome = false
    ∧ (ctx5.imageFor 9).isSome = true ∧ chainTotal ctx5.chain = 7 ∧ ctx5.counter = 9 :=
  ⟨by decide, fun ⟨_, h, _⟩ => (by cases h), by decide, by decide, by decide, by decide, by decide, by decide, rfl⟩
/-- The edits in their forms: sent after the release in open mode, held by a task. -/
theorem test_edit_forms : (tAfter (.editIns 6 5 7) (plain [(5, 0x800500000003), (7, 99)])).run = .waiting (.seqRel .ins 6 0x800500000003 99 []) 0
    ∧ ((ran (.editDel 6 5) (tasked taskG [(5, 0x800500000003)])).group 0 5).map (·.held.length) = some 1
    ∧ (tAfter (.ctxOpen 6 5) (plain [(5, 0x100)])).run = .waiting (.seqRel .opn 6 0x100 0 []) 0
    ∧ (tAfter (.settle 5 7) (plain [(5, 0x800502010009), (7, 0)])).run = .waiting (.seq .settle 0 0x800502010009 0) 0 := by decide +kernel
theorem test_context_checks : exec (.editIns 6 5 7) (plain [(7, 0x100000000)]) = .next ((plain [(7, 0x100000000)]).takeTrap w0 cReservedField 0x100000000 0)
    ∧ exec (.ctxOpen 0 5) (plain []) = .next ((plain []).takeTrap w0 cReservedField (bitsOf (.ctxOpen 0 5)) 0)
    ∧ exec (.ctxClose 5) (plain [(5, 1)]) = .next ((plain [(5, 1)]).takeTrap w0 cReservedField 1 0)
    ∧ exec (.ptbInv 5) (plain [(5, 0x800500000000)]) = .next ((plain [(5, 0x800500000000)]).takeTrap w0 cCtxInvalid 0x800500000000 0) := ⟨rfl, rfl, rfl, rfl⟩
/-- R322: position 5 is slot 1 of the second block, which stands in physical block 1. -/
def ptb5 : PtbEntry := { handle := 0x8005, first := 4, fill := 3, idx := 1, phys := 1, vlo := 9, vhi := 12 }
theorem witness_ContextForms_ptb : Serves ptb5 (handleIn 0x800500000006) (lowIn 0x800500000006) 9 ∧ ¬ Serves ptb5 (handleIn 0x800500000007) (lowIn 0x800500000007) 9 :=
  ⟨⟨by decide, by decide, by decide, by decide, by decide⟩, fun h => absurd h.2.2.1 (by decide)⟩
theorem test_pos_xl : smGetD ((ran (.posXl 6 5 7) (ctxM ctx5 [(5, 0x800500000005), (7, 10)] fun c => { c with ptb := [ptb5] })).core 0).gfile 6 0 = 0x100010001 := by decide +kernel
theorem test_pos_xl_miss : exec (.posXl 6 5 7) (ctxM ctx5 [(5, 0x800500000005), (7, 9)]) = .next ((ctxM ctx5 [(5, 0x800500000005), (7, 9)]).takeTrap w0 cPtbMiss 5 0)
    ∧ exec (.posXl 6 5 7) (ctxM ctx5 [(5, 0x800500000007), (7, 9)]) = .next ((ctxM ctx5 [(5, 0x800500000007), (7, 9)]).takeTrap w0 cEditRange 0x800500000007 0)
    ∧ exec (.posXl 6 5 7) (ctxM ctx5 [(5, 0x800500000005), (7, 10)]) = .next ((ctxM ctx5 [(5, 0x800500000005), (7, 10)]).takeTrap w0 cEditRange 0x800500000005 0) := ⟨rfl, rfl, rfl⟩
theorem test_beam_map : ((List.range 3).map fun j => smGetD ((ran (.beamMap 8 7) (machine th [(8, lb 64), (7, 5)] fun c =>
    { c with lstore := [(16, 8), (17, 9), (18, 10)], beam := [(1, 3)] })).core 0).beam j 0) = [8, 3, 10] := by decide +kernel
theorem test_ctx_rel : (tAfter (.ctxRel 5) (machine { th with leases := [{ num := 0, die := 0, idx := 5, frame := 1, copy := 0, addr := 0x2000, stamp := 9, prior := false }] } [(5, 0x2000)] id)).leases = [] := by decide +kernel

/-- A deletion of the token at 5, and an edit of a context that is not open. -/
def del5 : EditReq := { issued := 0, kind := .del, w := none, core := 0, space := 0, part := 0, opnd := 0x800500000005, tok := 0, factors := [] }
theorem witness_SequencerSteps : ((ctxM ctx5 []).ctxOf del5.part (handleIn del5.opnd)).isSome = true ∧ ((plain []).ctxOf del5.part (handleIn del5.opnd)).isNone = true ∧ del5.w = none
    ∧ ctx5.edits = [] ∧ ctx5.chain[1]? = some { phys := 1, fill := 3 } ∧ ctx5.b = 4
    ∧ (match (ctxM ctx5 []).editTry 0 5 ctx5 del5 with | .done _ n => n == 10 | _ => false) = true
    ∧ (match (ctxM ctx5 []).planEdit 0 5 ctx5 del5 [] 1 1 with | .ok p => p.chain == [{ phys := 0, fill := 4 }, { phys := 1, fill := 2 }] | _ => false) = true := by decide +kernel
theorem witness_SequencerSteps_max : ((ctxM { ctx5 with counter := 2 ^ 48 - 1 } []).ctxOf del5.part (handleIn del5.opnd)).map (·.2.2.counter) = some (2 ^ 48 - 1)
    ∧ ({ ctx5 with edits := [{ del5 with opnd := 0x800500000001 }] }).edits ≠ [] ∧ ({ del5 with opnd := 0x800500000001 } : EditReq) ≠ del5 := by decide
theorem test_edit_apply : (match exec (.editApply del5) (ctxM ctx5 []) with
    | .next s => (smGet (s.die 0).ctxs 5).map (fun c => (c.counter, c.chain.map (·.fill))) | _ => none) = some (10, [4, 2]) := by decide +kernel
/-- Records of layers 1 and 2 of block 0 at edit 9; the first names the second. -/
def place1 (win : Bool) : Place := { stamp := 9, j := 0, task := { addr := 0x8000, bits := 0, faulted := false, again := false }, byPred := false, window := win, st := .prepared }
def place2 : Place := { place1 false with task := { addr := 0x8100, bits := 0, faulted := false, again := false }, byPred := true }
def wave9 : Wave := { stamp := 9, chain := ctx5.chain, st := [(65536, 2)] }
def report1 : ReportMsg := { w := none, core := 0, part := 0, opnd := 0x800500000000, moved := false, tstamp := 0x90100, lidx := 0 }
theorem witness_SequencerSteps_places : (let c := { ctx5 with places := [(0, place1 false)], waves := [] }; (ctxM c []).windowReady 0 5 c 0 (place1 false) = true ∧ c.keyOf { die := 0, idx := 5, layer := 1, phys := 0, k := 0 } = 0
      ∧ (ctxM c []).windowReady 0 5 c 0 (place1 true) = false ∧ (c.reported report1).isSome = true ∧ (ctx5.reported report1).isSome = false)
    ∧ (let c := { ctx5 with places := [(0, place1 true)], waves := [wave9] }; c.pushReady 0 (place1 true) = true ∧ c.pushReady 0 (place1 false) = false
      ∧ (c.layerEnt 1).map (fun e => pushCore e 0) = some 0 ∧ (ctxM c []).partOf 0 = some 0 ∧ (ctxM c []).isDetCore 0 = false)
    ∧ ctx5.placeLayer 2 = ctx5.placeLayer 0 + 1 ∧ ctx5.placePhys 2 = ctx5.placePhys 0 ∧ (0x8100 : Dword) ≠ 0x8000
    ∧ (ctxM { ctx5 with places := [(0, place1 false)] } []).reportWaits report1 [] none = false := by decide +kernel
theorem test_record_push : (match exec (.recordPush { die := 0, idx := 5, layer := 1, phys := 0, k := 0 }) (ctxM { ctx5 with places := [(0, place1 true)], waves := [wave9] } []) with
      | .next s => (s.core 0).deque.map (·.addr) | _ => []) = [0x8000]
    ∧ (match exec (.commitNotice 5 0x8000 (some 0x8100)) (ctxM { ctx5 with places := [(0, { place1 true with st := .pushed }), (2, place2)] } []) with
      | .next s => (smGet (s.die 0).ctxs 5).map (fun c => c.places.map fun p => (p.1, p.2.byPred, p.2.st)) | _ => none) = some [(0, false, .pushed), (2, false, .named)]
    ∧ (match exec (.dmapReport report1) (ctxM { ctx5 with places := [(0, place1 true)] } []) with
      | .next s => (smGet (s.die 0).ctxs 5).map (·.places.length) | _ => none) = some 0 := by decide +kernel
/-! Commands at work. -/

/-- A command of slot 0 that has not begun. -/
def atWork (claim : Bool) : Running :=
  waitingCmd { seq := 0, bits := 0, w := w0, gid := 0, taskMode := false, rm := 0, fmtWord := 0, space := 0, level := .s, part := 0, pol := 0xFF00, claim, cfg := 0,
                fmtRest := false } 0 0 none
/-- The machine with it in the execution position of an engine, and local words. -/
def unitOf : Unit3 := { Unit3.empty with exec := some (atWork true) }
def workM (l : SMap Word) (f : Core → Core := id) : State :=
  machine th [] fun c => f { c with mx := unitOf, vx := unitOf, cp := unitOf, lstore := l, groups := [(0, { controlGroup 0 0 with claim := true })], tlb := [page] }
/-- Words of the local store after a command. -/
def wordsOf (i : Instr) (s : State) (off n : Nat) : List Nat := (List.range n).map fun j => localNum (ran i s) 0 (off + 4 * j) 4
/-- What a command reports as it begins: its cause, and whether it has begun. -/
def errOf (i : Instr) (s : State) (k : Engine) : Option Nat := (((ran i s).core 0).unit k).exec.bind (·.err)

theorem begins_work (l : SMap Word) (k : Engine) : Begins (workM l) k (atWork true) := ⟨by cases k <;> rfl, ⟨0, 0, rfl⟩, rfl⟩
theorem calm_work (l : SMap Word) : Calm (workM l) (atWork true) := ⟨rfl, fun h => (by cases h)⟩
def vops (n dst a b ctl x : Word) : VecOps := { n, dst, a, b, ctl, x, y := 0 }

theorem witness_CommandOutcomes : ([.mxMma 0 false false false 1 0 0 2 1 0 64 0xFFFFFFFF, .mxLdb 0 0 0 64, .mxLdt 0 false 8 1 0 0 64, .mxStt 0 false false false 8 1 0 0 0 64 0, .mxZero 0 1,
      .mxQk 0 false 0, .mxPv 0 false 0 0, .vxMap 0 false (vops 1 0 0 0 0 0), .vxFma 0 false (vops 1 0 0 0 0 0), .vxRed 0 false (vops 1 0 0 0 0 0),
      .vxExpsum 0 false (vops 1 0 0 0 0 0), .vxNorm 0 false (vops 1 0 0 0 0 0), .vxRequant 0 false (vops 1 0 0 0 0 0), .vxCmpst 0 false 1 0 0 0 0,
      .vxTopk 0 false (vops 1 0 0 0 1 0), .vxKsum 0 false (vops 1 0 0 0 0 0), .vxCvt 0 false (vops 1 0 0 0 0 0), .cpCopy 0 false false false 0 0 4 0xFFFFFFFF,
      .cpGather 0 false false false 0 0 0 1 2, .cpScatter 0 false false false 0 0 0 1 2, .cpFill 0 false false 0 4 0, .cpPut 0 false false 1 0 0 4, .cpGet 0 false false 1 0 0 4,
      .cpAmo 0 false 1 0 0 0, .cpIst 0 0 0 0 64, .cpFrame 0 0 1 0 0 1 0 0 0 0] : List Instr).all (fun i => (workOf i).isSome) = true
    ∧ ((workM []).core 0).vx.exec = some (atWork true) ∧ ((plain []).core 0).vx.exec = none ∧ (atWork true).begun = false := by decide
/-- A command with S waits for its local word; one of a page that is not there fails ENGINE_PAGE_FAULT; one of a line that a secure task of another core has written begins again. -/
theorem test_command_holds : (((ran (.vxMap 0 true (vops 1 0 0 0 11 0)) (machine th [] fun c =>
      { c with vx := { unitOf with exec := some { atWork true with cmd := { (atWork true).cmd with bits := 0x10000 } } }, fe := [(0, false)] })).core 0).vx.exec).map (·.hold) = some (.word 0) := by decide +kernel
theorem test_command_begins : (((ran (.vxMap 7 false (vops 2 0 8 0 11 0)) (workM [(2, 5)])).core 0).vx.exec).map (·.begun) = some true
    ∧ (ran (.vxMap 7 false (vops 2 0 8 0 11 0)) (workM [(2, 5)])).agenda.map (fun x => (x.due, match x.ev with | .commandCompletion c k => (c, k) | _ => (9, .cp))) = [(17, 0, .vx)]
    ∧ exec (.vxMap 7 false (vops 2 0 8 0 11 0)) (plain []) = .next (plain []) := ⟨by decide +kernel, by decide +kernel, rfl⟩

theorem witness_VectorCommands : Begins (workM []) .vx (atWork true) ∧ Calm (workM []) (atWork true) ∧ vecOk (vops 98304 0 0 0 0 0) false false
    ∧ ¬ vecOk (vops 98305 0 0 0 0 0) false false ∧ ¬ vecOk (vops 0 0 0 0 0 0) false false ∧ Area 393212 1 4 ∧ ¬ Area 393212 2 4 ∧ ¬ Area 2 1 4 :=
  ⟨begins_work _ _, calm_work _, by unfold vecOk; decide, by unfold vecOk; decide, by unfold vecOk; decide, by unfold Area; decide, by unfold Area; decide, by unfold Area; decide⟩
theorem witness_VectorCommands_cvt : laneOf (BitVec.ofNat 4 0x089) = some .bf16 ∧ laneOf (BitVec.ofNat 4 (0x089 / 2 ^ 4)) = some .f16 ∧ (rndOf (BitVec.ofNat 3 (0x089 / 2 ^ 8))).isSome = true := by decide
/-- 1.0, 2.0, 3.0 and -4.0 at 0: R184 to R186; the long accumulator leaves a negative term out (R105). -/
def data4 : SMap Word := [(0, 0x3F800000), (1, 0x40000000), (2, 0x40400000), (3, 0xC0800000)]
theorem test_vectors : wordsOf (.vxMap 0 false (vops 4 64 0 0 11 0)) (workM data4) 64 4 = [0x3F800000, 0x40000000, 0x40400000, 0xC0800000]
    ∧ wordsOf (.vxMap 0 false (vops 4 64 0 0 12 0x40000000)) (workM data4) 64 4 = [0x40000000, 0x40800000, 0x40C00000, 0xC1000000]
    ∧ wordsOf (.vxFma 0 false (vops 4 64 0 4 1 0)) (workM data4) 64 4 = [0x40400000, 0x40C00000, 0x41100000, 0xC1400000]
    ∧ wordsOf (.vxRed 0 false (vops 4 64 0 0 0 0)) (workM data4) 64 1 = [0x40000000]
    ∧ wordsOf (.vxRed 0 false (vops 4 64 0 0 1 0)) (workM data4) 64 1 = [0xC0800000] ∧ wordsOf (.vxRed 0 false (vops 4 64 0 0 2 0)) (workM data4) 64 1 = [0x40400000]
    ∧ wordsOf (.vxRed 0 false (vops 4 64 0 0 7 0)) (workM data4) 64 1 = [0x40C00000] := by decide +kernel
/-- R191: the two largest with their indexes; R193: bf16 1.0 and -2.0 as f16. -/
theorem test_top_two : wordsOf (.vxTopk 0 false (vops 4 64 0 0 2 0)) (workM data4) 64 4 = [0x40400000, 2, 0x40000000, 1]
    ∧ wordsOf (.vxCvt 0 false (vops 2 64 0 0 0x089 0)) (workM [(0, 0xC0003F80)]) 64 1 = [0xC0003C00]
    ∧ wordsOf (.vxNorm 0 false (vops 1 64 0 4 0 0x3F800000)) (workM [(0, 0), (1, 0x3F800000)]) 64 1 = [0]
    ∧ wordsOf (.vxExpsum 0 false (vops 1 64 0 128 0 0)) (workM [(0, 0x40400000)]) 128 2 = [0x40400000, 0x3F800000] := by decide +kernel
theorem test_vector_limits : errOf (.vxMap 0 false (vops 0 64 0 0 11 0)) (workM []) .vx = some cCmdMalformed ∧ errOf (.vxMap 0 false (vops 1 64 0 0 13 0)) (workM []) .vx = some cCmdMalformed
    ∧ errOf (.vxMap 0 false (vops 2 393212 0 0 11 0)) (workM []) .vx = some cLocalBound ∧ errOf (.vxMap 0 false (vops 1 393212 0 0 11 0)) (workM []) .vx = none
    ∧ errOf (.vxTopk 0 false (vops 4 64 0 0 5 0)) (workM []) .vx = some cCmdMalformed := by decide +kernel
theorem witness_VectorCommands_cmpst : (match runsTo ((List.range 1).mapM fun j => ldGlobal (0 + nat64 (2 * j)) 2)
      { start { workM [(0, 0x3F800000)] with mem := [(0x100001, 0x3C)] } (atWork true) with flags := 0 } with
    | (.ok old, _) => blockMoved 0 [0x3C00] old == false | _ => false) = true := by decide +kernel

theorem witness_MatrixCommands : Begins (workM []) .mx (atWork true) ∧ Calm (workM []) (atWork true) ∧ (atWork true).cmd.claim = true ∧ (atWork false).cmd.claim = false
    ∧ (workOf (.mxZero 0 1)).isSome = true ∧ ((workM []).core 0).tileCfg 0 = 0xA23FF ∧ cfgInt 0xA23FF = false ∧ cfgRows 0xA23FF = 32 ∧ cfgCols 0xA23FF = 32
    ∧ cfgLane (cfgA 0xA23FF) = .f16 ∧ ((workM []).core 0).blockBad 0 .f16 false = false :=
  ⟨begins_work _ _, calm_work _, rfl, rfl, rfl, by decide, by decide, by decide, by decide, by decide, by decide +kernel⟩
theorem test_tiles : ((ran (.mxLdt 0 false 8 2 3 0 64) (workM [(0, 0x40003C00), (16, 0xBC00)])).core 0).tile 3 0 1 = 0x40000000
    ∧ ((ran (.mxLdt 0 false 8 2 3 0 64) (workM [(0, 0x40003C00), (16, 0xBC00)])).core 0).tile 3 1 0 = 0xBF800000
    ∧ ((ran (.mxZero 0 8) (workM [] fun c => { c with tiles := [(1024, 5), (3072, 7)] })).core 0).tiles = [(1024, 5)]
    ∧ wordsOf (.mxStt 0 false false false 8 1 3 0 64 64 0) (workM [] fun c => { c with tiles := [(3072, 0x3F800000), (3073, 0xC0000000)] }) 64 1 = [0xC0003C00] := by decide +kernel
/-- One element of each: 1.0 by 2.0, in a plain block without scales, added to 0.5. -/
theorem test_mma : ((ran (.mxMma 0 false false false 1 3 0 64 1 0 64 0xFFFFFFFF) (workM [(0, 0x3C00)] fun c =>
      { c with tiles := [(3072, 0x3F000000)], wbuf := [(65, 0x40)] })).core 0).tile 3 0 0 = 0x40200000 := by decide +kernel
theorem test_matrix_limits : errOf (.mxZero 0 0) (workM []) .mx = some cCmdMalformed ∧ errOf (.mxLdb 0 32 0 64) (workM []) .mx = some cCmdMalformed
    ∧ errOf (.mxZero 0 1) (machine th [] fun c => { c with mx := { Unit3.empty with exec := some (atWork false) } }) .mx = some cTileCfg := by decide +kernel

/-- A descriptor at 0 of one query and one key of 32 elements without rotation (R178, R179): q[0] = 1.0 and k[0] = 2.0 in f16, code 1. -/
def attData : SMap Word := [(0, 0x100), (1, 0x200), (2, 0x300), (3, 0x400), (4, 0x800), (5, 0x900), (6, 0x904), (7, 0x200), (8, 1), (10, 0x3F800000), (12, 0x908), (13, 0x90C),
  (14, 0xFFFFFFFF), (64, 0x3C00), (128, 0x4000), (512, 1), (578, 0xFF800000), (579, 1)]
/-- Entry 1 of accord slot 0 is 1.0. -/
def attM : State := workM attData fun c => { c with accord := [(1, 0x1FC00)] }
theorem witness_AttentionFrames : Begins (workM []) .mx (atWork true)
    ∧ (match runsTo (workQk 0) (start attM (atWork true)) with | (.ok _, _) => true | _ => false) = true
    ∧ (match runsTo (workPv 0 0) (start attM (atWork true)) with | (.ok _, _) => true | _ => false) = true := ⟨begins_work _ _, by decide +kernel, by decide +kernel⟩
theorem test_attention : wordsOf (.mxQk 0 false 0) attM 0x900 3 = [0x40000000, 0, 0x40000000] ∧ ((ran (.mxPv 0 false 0 0) attM).core 0).tile 0 0 0 = 0x40000000 := by decide +kernel

theorem witness_CopyCommands : Begins (workM []) .cp (atWork true) ∧ Calm (workM []) (atWork true) ∧ LocalOff 64 ∧ ¬ LocalOff 66 ∧ ¬ LocalOff 0x100000000
    ∧ shapeOk ((workM []).core 0) 0xFFFFFFFF ∧ (atWork true).cmd.taskMode = false :=
  ⟨begins_work _ _, calm_work _, by unfold LocalOff; decide, by unfold LocalOff; decide, by unfold LocalOff; decide, Or.inl rfl, rfl⟩
theorem witness_CopyCommands_runs : runsIn 393208 8 1 1 0 0 ∧ ¬ runsIn 393208 12 1 1 0 0 := by
  refine ⟨⟨by decide, by decide, fun i1 i2 h1 h2 => ?_⟩, fun h => absurd (h.2.2 0 0 (by decide) (by decide)).2 (by decide)⟩
  constructor <;> omega
theorem test_copies : wordsOf (.cpCopy 0 false false false 0 64 8 0xFFFFFFFF) (workM data4) 64 3 = [0x3F800000, 0x40000000, 0]
    ∧ wordsOf (.cpGather 0 false false false 0 64 128 2 2) (workM (data4 ++ [(32, 3), (33, 1)])) 64 2 = [0xC0800000, 0x40000000]
    ∧ wordsOf (.cpScatter 0 false false false 0 64 128 2 2) (workM (data4 ++ [(32, 3), (33, 1)])) 64 4 = [0, 0x40000000, 0, 0x3F800000]
    ∧ wordsOf (.cpFill 0 false false 64 8 0x55) (workM data4) 64 3 = [0x55, 0x55, 0] ∧ full (ran (.cpFill 0 false true 64 8 0x55) (workM [])) 0 17 = false
    ∧ full (ran (.cpFill 0 false true 64 8 0x55) (workM [])) 0 18 = true := by decide +kernel
theorem test_copy_limits : errOf (.cpCopy 0 false false false 0 66 8 0xFFFFFFFF) (workM []) .cp = some cCmdMalformed
    ∧ errOf (.cpFill 0 false false 393208 12 0) (workM []) .cp = some cLocalBound ∧ errOf (.cpFill 0 true true 0 4 0) (workM []) .cp = some cCmdMalformed
    ∧ errOf (.cpPut 0 false false 9 0 0 4) (workM []) .cp = some cPartitionViolation ∧ errOf (.cpIst 0 16 0 0 64) (workM []) .cp = some cPartitionViolation
    ∧ errOf (.cpFrame 0 0 1 3 0 1 0 0 0 0) (workM []) .cp = some cCmdMalformed ∧ errOf (.cpFrame 0 0 1 0 0 1 0 0 0 0) (workM []) .cp = some cCtxInvalid := by decide +kernel
/-- A put to another device that the partition may reach goes over the link with its bytes. -/
theorem test_put : (ran (.cpPut 0 false false 9 0x1000 0 4) { workM data4 with
      parts := [(0, { Partition.fresh { noSpec with clusters := 1, devices := [9] } with live := true })], host := { State.reset.loaded.host with prov := { device := 1, fenced := [], beacon := true } } }).beacon.length = 1 := by
  decide +kernel
/-! Hand-overs, accesses under way, and the device. -/

/-- A record of one thread at halfword 0x40 with 16 registers, four wide ones and timestamp 3, at 0x10040. -/
def recR : RecCopy := { addr := 0x10040, bits := BitVec.ofNat 512 (0x40 + 16 * 2 ^ 40 + 2 ^ 48 + 3 * 2 ^ 64 + 0x77 * 2 ^ 192), faulted := false, again := false }
/-- One that is not valid: seven registers. -/
def recBad : RecCopy := { recR with bits := BitVec.ofNat 512 (0x40 + 7 * 2 ^ 40) }
/-- Core 0 of a live partition without a thread. -/
def idleM (f : Core → Core) : State := { State.reset.loaded with cores := [(0, f (Core.fresh false))] }
/-- What a step leaves. -/
def stepOf (i : Instr) (s : State) : State := ran i s
theorem witness_DispatchAndCommit : OnlyRecord (idleM fun c => { c with deque := [recR] }) 0 recR ∧ ValidOne recR ∧ ¬ ValidOne recBad ∧ fieldOf recR 56 1 = 0 ∧ fieldOf recR 384 64 = 0
    ∧ (((idleM fun c => { c with deque := [recR] }).fits 0 recR).isSome) = true ∧ (idleM id).nextPick 0 = none :=
  ⟨⟨rfl, rfl, rfl, rfl⟩, by unfold ValidOne; decide +kernel, by unfold ValidOne; decide +kernel, by decide +kernel, by decide +kernel, by decide +kernel, by decide⟩
/-- R77: its thread waits for the footprint at 0x80, with g1 = 0 and g2 from the record; then it runs. -/
theorem test_dispatch : (let s := stepOf (.taskDispatch 0) (idleM fun c => { c with deque := [recR] });
      (s.thread w0).map (fun t => (t.pc, t.run, t.glim, t.wcount, t.tstamp)) = some (0x80, .waiting .footprint 0, 16, 4, 3) ∧ smGetD (s.core 0).gfile 2 0 = 0x77
        ∧ (s.core 0).deque = []
        ∧ ((stepOf (.footprintFetchDone 0 0) s).thread w0).map (·.run) = some .ready ∧ ((stepOf (.footprintFetchDone 0 0) s).group 0 0).map (·.phase) = some .running)
    ∧ (let s := stepOf (.taskDispatch 0) (idleM fun c => { c with deque := [recBad] }); (s.core 0).deque = [] ∧ (s.core 0).detached.map (·.cause) = [cReservedField]) := by decide +kernel
/-- A footprint of one word at 0x20 from the page. -/
def recF : RecCopy := { recR with bits := BitVec.ofNat 512 (recR.bits.toNat + 0x40 * 2 ^ 256 + 4 * 2 ^ 320 + 0x20 * 2 ^ 344) }
def fetchM : State :=
  { idleM fun c => { c with fe := [(8, false)], tlb := [{ page with space := 1 }], groups := [(5, { newGroup recF true 0 1 0 [0] false with phase := .fetch })] } with mem := [(0x100040, 0xEE)] }
theorem witness_DispatchAndCommit_footprint : (fetchM.group 0 5).map (·.phase) = some .fetch ∧ (fetchM.ranges 0 recF).map (fun x => (x.off, x.len)) = [(0x20, 4)]
    ∧ (match fetchM.unitRead 0 0 (fetchM.coreSpace 0) (0x40 + nat64 (4 * 0)) 4 true with | .ok x => x.2 == [0xEE, 0, 0, 0] | _ => false) = true := by decide +kernel
theorem test_footprint : localNum (stepOf (.footprintFetchDone 0 5) fetchM) 0 0x20 4 = 0xEE ∧ full (stepOf (.footprintFetchDone 0 5) fetchM) 0 8 = true := by decide +kernel
theorem test_launch : ((stepOf (.launchMessage 0 8) (idleM id)).core 0).detached.map (·.cause) = [cReservedField]
    ∧ ((stepOf (.launchRecordPlace 0 recR) (idleM id)).core 0).deque = [recR] := by decide +kernel
theorem witness_DispatchAndCommit_launch : (match ({ idleM (fun c => { c with tlb := [page] }) with mem := [] } : State).unitRead 0 0 0 0x40 64 false with | .ok _ => true | _ => false) = true
    ∧ (idleM id).isDetCore 0 = false ∧ ¬ detFlag recR ∧ ((idleM id).core 0).deque.length < 256 ∧ (0x40 : Dword).toNat % 64 = 0 :=
  ⟨by decide +kernel, by decide, by unfold detFlag; decide +kernel, by decide, by decide⟩
/-- An idle core 0 with core 1 as its victim. -/
def stealM (deq : List RecCopy) : State :=
  { State.reset.loaded with cores := [(0, { Core.fresh false with victims := [1], asked := (Core.fresh false).shape, stealing := true }), (1, { Core.fresh false with deque := deq })] }
theorem witness_DispatchAndCommit_steal : (stealM [recR]).idle 0 = true ∧ (stealM [recR]).stealable 1 0 ((stealM [recR]).core 0).asked = some (recR, 0)
    ∧ (stealM []).stealable 1 0 ((stealM []).core 0).asked = none := by decide +kernel
theorem test_steal : ((stepOf (.stealRequest 0) (stealM [recR])).core 1).deque = [] ∧ (stepOf (.stealRequest 0) (stealM [recR])).agenda.map (·.ev) = [.stealReply 0 (some recR)]
    ∧ (stepOf (.stealRequest 0) (stealM [])).agenda.map (·.ev) = [.stealReply 0 none]
    ∧ ((stepOf (.stealReply 0 none) (stealM [])).core 0).backoff = some 1024 ∧ ((stepOf (.stealReply 0 (some recR)) (stealM [])).core 0).granted = some recR := by decide +kernel
/-- A group whose last thread has retired, with a successor that keeps its footprint. -/
def succM (r : RecCopy) (m : Half) : State :=
  idleM fun c => { c with
    nextGid := 6, threads := [(0, { taskT with run := .waiting .retired 0, glim := 16, gext := 16, galloc := 16, wcount := 4, kregs := [(1, 9)] })],
    groups := [(5, { taskG with slots := [0], phase := .succeeding, succ := some (r, m) })] }
theorem witness_DispatchAndCommit_successor : (succM recR 0x47).succReady 0 5 = true ∧ ((succM recR 0x47).group 0 5).bind (·.succ) = some (recR, 0x47)
    ∧ (((succM recR 0x47).core 0).succBerth 5 [0] recR 0x47).isSome = true ∧ (0x47 : Half).toNat / 256 = 0 ∧ (5 < ((succM recR 0x47).core 0).nextGid) := by decide +kernel
theorem test_successor : (let s := stepOf (.successorStart 0 5) (succM recR 0x47); (s.group 0 5).isNone = true
      ∧ (s.group 0 6).map (·.phase) = some .running ∧ (s.thread w0).map (fun t => (t.gid, t.pc, t.inh, t.kregs)) = some (6, 0x80, 0x47, [(1, 9)]))
    ∧ (let s := stepOf (.successorStart 0 5) (succM recBad 0x47); (s.core 0).detached.map (·.cause) = [cReservedField] ∧ (s.group 0 5).isNone = true) := by decide +kernel
theorem witness_DispatchAndCommit_detached : (idleM fun c => { c with detached := [{ cause := 0x30, tval := 7, record := none }] }).detachedReady 0 = true := by decide
theorem test_detached : ((stepOf (.detachedCauseStart 0) (idleM fun c => { c with detached := [{ cause := 0x30, tval := 7, record := some 0x40 }] })).thread w0).map
    (fun t => (t.level, t.handler, t.cause, t.tval, smGetD t.hregs 2 0, smGetD t.hregs 3 0)) = some (.s, true, 0x30, 7, BitVec.allOnes 64, 0x40) := by decide +kernel
/-- A secure task that has retired, with a speculative line and a message held, and another that has read its line. -/
def commitM : State :=
  idleM fun c => { c with
    spec := [{ gid := 5, lw := { line := 0x2001, data := 7, mask := 1 }, acc := acc 0x80 1, through := false }],
    groups := [(5, { taskG with phase := .retired, secure := true, wsig := sigAdd 0 0x2001, held := [.msg msg2] }), (6, { taskG with tstamp := 9, rsig := sigAdd 0 0x2001 })] }
theorem witness_DispatchAndCommit_commit : (commitM.commitPick 0).map (fun x => (x.1, x.2.1)) = some (0, 5) ∧ (commitM.group 0 6).map (·.uncommitted) = some true := by decide +kernel
theorem test_commit : (let s := stepOf (.taskCommit 0) commitM; (s.core 0).spec.length = 0 ∧ (s.core 0).flights.map (fun f => f.lw.line) = [0x2001]
    ∧ (s.core 0).effects.map (·.1) = [.msg msg2] ∧ (s.die 0).nextCommit = 4 ∧ (s.group 0 5).isNone = true ∧ (s.group 0 6).isNone = true) := by decide +kernel
theorem witness_DispatchAndCommit_effects : (idleM fun c => { c with effects := [(.msg msg2, [])] }).effectWaits 0 (.msg msg2) [] = false
    ∧ (idleM fun c => { c with effects := [(.push recR, [])] }).effectWaits 0 (.push recR) [] = false := by decide
theorem test_effects : (stepOf (.heldEffectSend 0) (idleM fun c => { c with effects := [(.msg msg2, []), (.push recR, [])] })).agenda.map (·.ev) = [.messageArrival msg2]
    ∧ ((stepOf (.heldEffectSend 0) (idleM fun c => { c with effects := [(.push recR, [])] })).core 0).deque = [recR] := by decide +kernel
/-- Two threads of one core, each waiting for a message that only the other has sent before. -/
def knotM : State :=
  machine th [] fun c => { c with
    classes := [(2, { MsgClass.empty with senders := [{ core := 0, slot := 1 }] }), (3, { MsgClass.empty with senders := [w0] })],
    threads := [(0, { th with run := .waiting (.msg 2) 5 }), (1, { th with pc := 12, run := .waiting (.msg 3) 6 })] }
theorem witness_DispatchAndCommit_knot : knotM.waitTable = [(.thread w0, 5, [.thread { core := 0, slot := 1 }]), (.thread { core := 0, slot := 1 }, 6, [.thread w0])]
    ∧ (plain []).waitTable = [] := by decide +kernel
theorem test_deadlock : exec .deadlockWalk (plain []) = .next (plain [])
    ∧ ((stepOf .deadlockWalk knotM).agenda.map fun x => match x.ev with | .hypervisorEvent e => (e.cause, e.tpc) | _ => (0, 0)) = [(cDeadlock, 12)] := ⟨rfl, by decide +kernel⟩

/-- A load waiting for the bytes at 0x100040, and its window, and a form on a local word. -/
def waiting (w : Wait) (f : Core → Core := id) : State := { machine { th with run := .waiting w 0 } [] f with mem := [(0x100040, 0x80)] }
theorem witness_AccessSteps : let s := waiting (.load (acc 0x40 1) (.g 6 1 true));
    ((s.thread w0).map (·.run)) = some (.waiting (.load (acc 0x40 1) (.g 6 1 true)) 0) ∧ s.loadBlocked 0 0 0x2000 (some (0, 0)) = false ∧ s.dieHas 0 (acc 0x40 1) = true
    ∧ (s.takePort 1).isSome = true ∧ (plain []).waitOf w0 = none := by decide +kernel
theorem test_memory_return : (smGetD ((stepOf (.memoryReturn w0 none) (waiting (.load (acc 0x40 1) (.g 6 1 true)))).core 0).gfile 6 0) = 0xFFFFFFFFFFFFFF80
    ∧ (smGetD ((stepOf (.memoryReturn w0 none) (waiting (.load (acc 0x40 1) (.g 6 1 false)))).core 0).gfile 6 0) = 0x80
    ∧ ((stepOf (.memoryReturn w0 none) (waiting (.load (acc 0x40 1) (.g 6 1 true)))).thread w0).map (fun t => (t.run, t.pc)) = some (.ready, 4) := by decide +kernel
theorem test_window : ((stepOf (.windowAccess w0) (waiting (.winLoad 1 8 4 (.g 6 4 true)) )).thread w0).map (·.run) = some (.waiting (.answer [(6, 0)]) 0)
    ∧ localNum (stepOf (.windowAccess w0) (waiting (.winStore 1 8 4 0x1234))) 1 8 4 = 0x1234
    ∧ full (stepOf (.windowAccess w0) (waiting (.sync .feClr 1 8 0 0))) 1 2 = false
    ∧ (smGetD ((stepOf (.windowAccess w0) (waiting (.sync .ldTake 0 8 6 0) fun c => { c with lstore := [(2, 9)] })).core 0).gfile 6 0) = 9
    ∧ ((stepOf (.agentAnswer w0) (waiting (.answer [(6, 5)]))).core 0).gfile = [(6, 5)] := by decide +kernel
theorem witness_AccessSteps_combined : let x : WcbLine := { lw := { line := 0x2001, data := 7, mask := 1 }, first := 0, acc := acc 0x80 1 };
    (¬ (x.first + 256 ≤ (plain []).cycle)) ∧ x.first + 256 ≤ ({ plain [] with cycle := 256 } : State).cycle := by decide
theorem test_combined : (let s := { machine { th with wcb := [{ lw := { line := 0x2001, data := 7, mask := 1 }, first := 0, acc := acc 0x80 1 }] } [] id with cycle := 256 };
      ((stepOf (.wcbDrainTimeout w0 0x2001) s).core 0).flights.map (fun f => f.lw.line) = [0x2001] ∧ ((stepOf (.wcbDrainTimeout w0 0x2001) s).thread w0).map (·.wcb.length) = some 0
        ∧ ((stepOf (.wcbDrainTimeout w0 0x2001) { s with cycle := 255 }).core 0).flights.length = 0) := by decide +kernel
/-- A host store of one byte, and one of a task's line. -/
def hostByte : DWrite := { src := .host, die := 0, id := 0, lw := { line := 0x2000, data := 0xAB, mask := 1 } }
theorem witness_AccessSteps_write : (plain []).homeOf 0x2000 = 0 ∧ Lone (plain []) 0 0x2000 ∧ (plain []).writeBlocked 0 0x2000 none = false ∧ smGet ((plain []).die 0).rounds 0x2000 = none := ⟨by decide, rfl, by decide, rfl⟩
theorem test_direct_write : memGet (stepOf (.directWrite hostByte) (plain [])).mem 0x100000 = 0xAB ∧ memGet (stepOf (.directWrite hostByte) (plain [])).mem 0x100001 = 0 := by decide +kernel
theorem witness_AccessSteps_flight : (machine th [] fun c => { c with flights := [{ id := 3, sent := 0, w := w0, lw := hostByte.lw, acc := acc 0 1 }] }).copySlice 0 (acc 0 1) = none := by decide
theorem test_flight : (let s := stepOf (.directWrite { hostByte with src := .thread w0, id := 3 }) (machine th [] fun c => { c with flights := [{ id := 3, sent := 0, w := w0, lw := hostByte.lw, acc := acc 0 1 }] });
    memGet s.mem 0x100000 = 0xAB ∧ (s.core 0).flights.length = 0) := by decide +kernel
def heldM (cyc : Nat) : State :=
  { machine { th with rsv := some 0x100040, rsvVa := 0x40 } [] id with cycle := cyc, dies := [(0, { Die.fresh with rsv := [(0x100040, { holder := some w0, since := 0, queue := [] })] })] }
theorem witness_AccessSteps_revoke : (heldM 4096).rsvHome 0x100040 = some 0 ∧ ¬ ((heldM 4096).cycle < 0 + 4096) ∧ (heldM 4095).cycle < 0 + 4096 := by decide
theorem test_revoke : ((stepOf (.reservationRevoke 0x100040) (heldM 4096)).thread w0).map (fun t => (t.rsv, t.next)) = some (none, [(cRsvRevoked, 0x40)])
    ∧ ((stepOf (.reservationRevoke 0x100040) (heldM 4095)).thread w0).map (·.rsv) = some (some 0x100040) := by decide +kernel
theorem test_ist : smGetD ((stepOf (.instructionStoreWrite 0 2 (BitVec.ofNat 512 0xBEEF0001)) (plain [])).core 0).ist 65 0 = 0xBEEF
    ∧ ((stepOf (.istInvArrival 0 w0) (waiting .istInv)).thread w0).map (·.run) = some (.waiting (.answer []) 0) := by decide +kernel

/-- A read of die 1's memory from die 0, and a request for ownership. -/
def readReq (own : Bool) : DirReq := { die := 1, home := 0, line := 0x2000, own, w := some { core := 256, slot := 0 }, policy := 0, norep := false, slice := some 0, hslice := 0, cls := 1 }
theorem witness_DirectorySteps : Lone (plain []) 0 0x2000 ∧ NoWriteBack (plain []) 1 0x2000 ∧ (plain []).readBlocked 0 0x2000 none = false ∧ ((plain []).die 1).copies = []
    ∧ 0 < (smGetD (plain []).regions (0x2000 / 512) Region.fresh).effective 0 ∧ (plain []).snoopRoom 0 0x2000 = true ∧ (readReq false).die ≠ (readReq false).home :=
  ⟨rfl, fun x hx => (by cases hx), by decide, rfl, by decide, by decide, by decide⟩
theorem test_directory_read : (let s := stepOf (.directoryRead (readReq false)) (plain []); (smGet (s.die 1).copies 0x2000).map (fun c => c.state) = some (some .e)
      ∧ (s.dirEntry 0 0x2000).holders = [(1, .e)] ∧ s.agenda.length = 1)
    ∧ ((stepOf (.directoryOwnership (readReq true)) (plain [])).dirEntry 0 0x2000).busy.map (fun t => (t.req.own, t.req.die)) = some (true, 1) := by decide +kernel
/-- Dies 2 and 1 hold the line, die 2 as owner; die 1 asks for ownership. -/
def ownedM (busy : Option Trans) : State :=
  { plain [] with dies := [
      (0, { Die.fresh with dir := [(0x2000, { holders := [(2, .o), (1, .s)], busy, queue := [] })] }),
      (1, { Die.fresh with copies := [(0x2000, { data := 7, state := some .s, pend := 0, pdata := 0, valid := BitVec.allOnes 128, slice := 0, cls := 1, use := 0 })] }),
      (2, { Die.fresh with copies := [(0x2000, { data := 7, state := some .o, pend := 0, pdata := 0, valid := BitVec.allOnes 128, slice := 0, cls := 1, use := 0 })] })] }
theorem witness_DirectorySteps_owned : (ownedM none).homeOf 0x2000 = 0 ∧ ((ownedM none).dirEntry 0 0x2000).busy = none ∧ (ownedM none).writeBlocked 2 0x2000 none = false
    ∧ NoWriteBack (ownedM none) 2 0x2000 := ⟨by decide, rfl, by decide, fun x hx => (by cases hx)⟩
theorem test_invalidations : (stepOf (.directoryOwnership (readReq true)) (ownedM none)).agenda.map (·.ev) = [.invalidation 2 0x2000]
    ∧ (let s := stepOf (.invalidation 2 0x2000) (ownedM (some { req := readReq true, agent := none, acks := 1, due := 0, back := false })); (smGet (s.die 2).copies 0x2000).isNone = true
      ∧ memGet s.mem 0x100000 = 7 ∧ (s.dirEntry 0 0x2000).holders.map (·.1) = [1] ∧ s.agenda.map (·.ev) = [.ownershipGrant 1 0x2000])
    ∧ (let s := stepOf (.ownershipGrant 1 0x2000) (ownedM (some { req := readReq true, agent := none, acks := 0, due := 0, back := false })); (s.dirEntry 0 0x2000).holders = [(1, .m)]
      ∧ (smGet (s.die 1).copies 0x2000).map (·.state) = some (some .m)) := by decide +kernel
theorem test_epoch : (stepOf (.replicationEpochEnd 0) { plain [] with regions := [(0, { pol := 0, degree := 1, r := 64, w := 0, c := 1 }), (1, { pol := 0, degree := 4, r := 2, w := 3, c := 0 })] }).regions
    = [(0, { pol := 0, degree := 2, r := 0, w := 0, c := 0 }), (1, { pol := 0, degree := 2, r := 0, w := 0, c := 0 })] := by decide +kernel
theorem test_remote : (stepOf (.remoteAccess (.put 9 3 0 0x40 [1])) { plain [] with host := { (plain []).host with prov := { device := 1, fenced := [], beacon := true } } }).beacon
    = [(9, .reply 3 false [])] := by decide +kernel
theorem witness_DirectorySteps_remote : (plain []).exportLines 0 0x40 0 [1] [] = none ∧ ∀ r, ((plain []).core 0).cp.exec = some r → r.begun = false ∨ r.remote = false :=
  ⟨by decide +kernel, fun r h => (by cases h)⟩

/-- A thread whose load at 0x40 misses, in a space whose table stands at guest 0x20000. -/
def walkM (walkers : SMap Walk) : State :=
  { machine { th with run := .waiting (.retry (.walk 0 0x40 false)) 0 } [] id with
    parts := [(0, { Partition.fresh { noSpec with clusters := 1, s2root := 0x30000 } with live := true, spaces := [(0, { quota := 0, root := 0x20000, valid := true })] })],
    dies := [(0, { Die.fresh with walkers })] }
theorem witness_WalkSteps : ((walkM []).missing 0).map (·.1) = [w0] ∧ ((walkM []).die 0).walkQ = []
    ∧ (match (walkM []).walkStart 0 (Walk.new 0 0 0x40 [w0]) with | .more x => x.started && x.serves 0 0 0x40 && x.readAddr == 0x30000 && (whereIs x.readAddr matches .stored 0x30000 false) | _ => false) = true
    ∧ (plain []).missing 0 = [] ∧ ((plain []).die 0).nextWalk.isNone = true := by decide +kernel
theorem test_walk_starts : (stepOf (.pageWalk 0) (walkM [])).agenda.map (·.ev) = [.walkReadReturn 0 0] ∧ ((stepOf (.pageWalk 0) (walkM [])).die 0).walkers.length = 1
    ∧ exec (.pageWalk 0) (plain []) = .next (plain []) := ⟨by decide +kernel, by decide +kernel, rfl⟩
/-- An entry of zeros ends a walk with a page fault of stage 2 at H. -/
theorem test_walk_ends : (let s := stepOf (.walkReadReturn 0 0) (stepOf (.pageWalk 0) (walkM [])); (s.die 0).walkers.length = 0
    ∧ (s.agenda.filterMap fun x => match x.ev with | .hypervisorEvent e => some e.cause | _ => none) = [cGuestFault]) := by decide +kernel
def inv0 (level : Nat) (done : Option Nat) : TlbInvMsg := { level, target := 0, part := 0, space := some 0, va := some 0x40, bits := 16, w := w0, done, mark := 0 }
theorem witness_WalkSteps_removal : invPending (inv0 0 (some 0)) ((plain []).core 0) = false ∧ ((idleM id).core 0).threads = [] ∧ (waiting (.tlbInv 3 [])).waitOf w0 = some (.tlbInv 3 []) := by decide
theorem test_removal : ((stepOf (.tlbInvArrival (inv0 0 none)) (paged th [] page)).core 0).tlb = [] ∧ ((stepOf (.tlbInvArrival { inv0 0 none with va := some 0x10000 }) (paged th [] page)).core 0).tlb = [page]
    ∧ ((stepOf (.tlbInvArrival (inv0 3 none)) (waiting (.tlbInv 3 []))).thread w0).map (·.run) = some (.waiting (.tlbInv 2 []) 0) := by decide +kernel

/-- A window write: two doublewords to class 2 of core 3. -/
def winData : BitVec 512 := BitVec.ofNat 512 (3 + 2 * 2 ^ 16 + 2 * 2 ^ 20 + 11 * 2 ^ 64 + 12 * 2 ^ 128)
theorem witness_HostSteps : (plain []).host.posted = [] ∧ ((plain []).part 0).live = true ∧ (plain []).member 0 3 = true ∧ (plain []).member 0 16 = false
    ∧ (plain []).hostReach 0 0x100000 1 = false ∧ (plain []).hostReach 128 0x100000 1 = true ∧ th.run ≠ .trapped := by decide
theorem test_host_window : (stepOf (.hostWindowWrite 0 64 winData) (plain [])).agenda.map (fun x => match x.ev with | .messageArrival m => (m.dst, m.cls, m.words) | _ => (0, 0, [])) = [(3, 2, [11, 12])]
    ∧ ((stepOf (.hostWindowWrite 0 32 winData) (plain [])).die 0).klogHead = 1 ∧ (stepOf (.hostWindowWrite 0 32 winData) (plain [])).agenda.length = 0 := by decide +kernel
/-- A partition that exports the 64 KiB at 0x100000. -/
def exportM : State := { plain [] with parts := [(0, { Partition.fresh { noSpec with clusters := 1, exports := [(0x100000, 0x10000)] } with live := true })], mem := [(0x100004, 9)] }
theorem witness_HostSteps_export : exportM.hostReach 0 0x10FFFF 1 = true ∧ exportM.hostReach 0 0x10FFFF 2 = false ∧ (hostLines 0x100000 [0xAB]).map (·.length) = some 1
    ∧ exportM.outWriting .host 0 = false ∧ exportM.homeOf 0x2000 = 0 := by decide +kernel
theorem test_host_access : (stepOf (.hostWrite 0 0x100000 [0xAB, 0xCD]) exportM).agenda.map (·.ev)
      = [.directWrite { src := .host, die := 0, id := 0, lw := { line := 0x2000, data := 0xCDAB, mask := 3 } }]
    ∧ (stepOf (.hostRead 0 0x100003 3) exportM).host.reads = [some [0, 9, 0]] ∧ (stepOf (.hostRead 0 0x110000 1) exportM).host.reads = [none]
    ∧ ((stepOf (.hostWrite 0 0x110000 [1]) exportM).die 0).klogHead = 1 := by decide +kernel
def hEvent (cause n : Nat) : HEvent := { cause, tval := 0, tpc := 0, word := 0, d := 6, n, args := [] }
theorem test_events : (stepOf (.hypervisorEvent (hEvent 0x30 0)) (plain [])).host.events = [hEvent 0x30 0]
    ∧ ((stepOf (.hypervisorPreempt w0) (tasked taskG [])).core 0).deque.length = 1 ∧ ((stepOf (.hypervisorPreempt w0) (tasked taskG [])).group 0 5).isNone = true
    ∧ ((stepOf (.hypervisorResume w0 .resume) (machine { th with run := .trapped } [] id)).thread w0).map (·.run) = some .ready
    ∧ ((stepOf (.hypervisorResume w0 (.clearMark 0x10040)) (idleM fun c => { c with deque := [{ recR with faulted := true }] })).core 0).deque = [recR]
    ∧ ((stepOf (.hypervisorResume w0 (.dropRecord 0x10040)) (idleM fun c => { c with deque := [{ recR with faulted := true }] })).core 0).deque = [] := by decide +kernel

theorem witness_BootSteps : ({ State.reset with host := { HostIf.fresh with boot := .waiting } } : State).host.boot = .waiting ∧ State.reset.host.boot ≠ .waiting
    ∧ ((plain []).part 0).live = true ∧ ((plain []).part 0).off = false ∧ ((plain []).part 1).live = false := by decide
theorem test_power_loss : (stepOf .powerLoss exportM).mem = [] ∧ (stepOf .powerLoss exportM).parts = [] ∧ ((stepOf (.partitionEnd 0) (plain [])).part 0).live = false
    ∧ ((stepOf (.partitionPowerOff 0) (plain [])).part 0).off = true ∧ ((stepOf (.partitionPowerOff 0) (plain [])).core 0).threads.length = 0
    ∧ (stepOf .stagingReleaseWrite { exportM with mem := [(5, 1), (0x10000000, 2)] }).mem = [(0x10000000, 2)] := by decide +kernel
/-- An image of a partition of cluster 1 at 0x1000: kind 3, 64 bytes of instructions at 64, entry 0, span 1. -/
def newPart : PartSpec := { noSpec with part := 1, clusters := 2, imgBase := 0x1000, imgLen := 128, s2root := 0x30000 }
theorem witness_BootSteps_image : (plain []).mayCreate newPart = true ∧ (plain []).mayCreate { newPart with clusters := 1 } = false ∧ newPart.imgBase + newPart.imgLen ≤ 2 ^ 28
    ∧ (imageHeader (leBytes 64 (3 + 64 * 2 ^ 64 + 64 * 2 ^ 96 + 2 ^ 288))).valid 128 = true ∧ ((PartSpec.cores newPart).filter (plain []).startable).head? = some 16 := by decide +kernel

theorem witness_ControlWrites : (plain []).member 0 15 = true ∧ (plain []).member 0 16 = false ∧ (plain []).fixedHeld 0 = false ∧ ((plain []).part 0).detPend = [] ∧ ((plain []).redTree 0 0).sent = []
    ∧ ((plain []).part 0).redPend = [] := by decide
theorem test_control_writes : (((stepOf (.partitionCoreEntryWrite 0 15 0x1040003) (plain [])).part 0).coreEnt 15).rot = 4
    ∧ (((stepOf (.partitionCoreEntryWrite 0 15 0x1040003) (plain [])).part 0).coreEnt 15).space = 3
    ∧ smGet ((stepOf (.spaceEntryWrite 0 5 0x0020000000007001) (plain [])).part 0).spaces 5 = some { quota := 2, root := 0x7000, valid := true }
    ∧ ((stepOf (.detsetWrite 0 32 1) (plain [])).part 0).detp = true ∧ ((stepOf (.detsetWrite 0 0 0x18000) (plain [])).part 0).detset.toNat = 0x8000
    ∧ smGet ((stepOf (.reductionEntryWrite 0 15 0x10007) (plain [])).part 0).redEnts 15 = some { root := false, part := true, parent := 7 }
    ∧ ((stepOf (.registerWrite 0 0x38 0x12345) (plain [])).part 0).strap = 0x2345 ∧ ((stepOf (.registerWrite 0 0x28 0x7F) (plain [])).part 0).spill = 0x40
    ∧ (stepOf (.powerToleranceWrite 99) (plain [])).host.tolerance = 99 := by decide +kernel

/-- A core at rest for 64 cycles with a tolerance of 2. -/
def restM (cyc : Nat) : State := { machine { th with run := .parked 0 } [] id with cycle := cyc, host := { (plain []).host with tolerance := 2 } }
theorem witness_PowerAndErrors : (restM 64).gateDue 0 = true ∧ (restM 63).gateDue 0 = false ∧ ((plain []).core 0).gated = false ∧ ((plain []).die 0).retained = false ∧ (plain []).retainDue 0 = false := by decide
theorem test_power : ((stepOf (.coreClockGate 0) (restM 64)).core 0).gated = true ∧ ((stepOf (.coreClockGate 0) (restM 64)).die 0).klogHead = 1 ∧ ((stepOf (.coreClockGate 0) (restM 63)).core 0).gated = false
    ∧ exec (.telemetrySample 0) (plain []) = .next (plain []) := ⟨by decide +kernel, by decide +kernel, by decide +kernel, rfl⟩
theorem test_errors : (stepOf (.retryResult (.hbm 0x2000 none) false) (plain [])).poison = [(0x2000, 0x71)] ∧ ((stepOf (.retryResult (.localWord 0 9 none) false) (plain [])).core 0).poison = [(2, 0x70)]
    ∧ (stepOf (.retryResult (.coreUnit 3 0 none) false) (plain [])).host.excluded = [3] ∧ (stepOf (.retryResult (.hbm 0x2000 none) true) (plain [])).poison = []
    ∧ ((stepOf (.retryResult (.hbm 0x2000 (some w0)) false) (plain [])).agenda.filterMap fun x => match x.ev with | .hypervisorEvent e => some e.cause | _ => none) = [0x71] := by decide +kernel

/-- An admitted instruction and a command, with every kind of what may follow. -/
theorem witness_EncodeDecode : (Instr.add 69 90 109).wf = true ∧ (encode (.add 69 90 109)).length = 2 ∧ (encode (.cNop)).length = 1 ∧ (encode (.mxZero 10 0xA5)).length = 16
    ∧ decode (word32 0x8116D6D0 ++ [7]) = .ok (.add 69 90 109, [7]) := ⟨rfl, rfl, rfl, rfl, rfl⟩
theorem witness_DecodeEncode : decode (word32 0x8116D6D0 ++ [7]) = .ok (.add 69 90 109, [7]) ∧ decodeCmd zeroCmd = some (.mxZero 10 0xA5) := ⟨rfl, rfl⟩
theorem witness_MemoryCanonical : Memory.wf (plain []).mem = true ∧ ∃ s', step (plain []) = .next s' := ⟨by decide, _, rfl⟩

/-! Further witnesses: the clauses of a statement that none of those above meets. -/

/-- A load through the cluster window that is on its way. -/
def crossing1 : State :=
  { machine { th with run := .waiting (.winLoad 1 8 4 (.g 6 4 true)) 0 } [] id with agenda := [{ due := 0, ev := .windowAccess w0 }] }
theorem witness_StepsDue_late : crossing1.duty = none ∧ crossing1.issuer = none
    ∧ crossing1.takeLate = some (.windowAccess w0, { crossing1 with agenda := [] }) := ⟨by decide +kernel, rfl, rfl⟩
theorem witness_SourceReads_rotation : ((machine th [] fun c => { c with rot := 8 }).core 0).rot ≠ 0 ∧ 3 ≤ bankReads th (useD (.fmadd 4 8 12)).src 0 := by decide

/-- A result of fixed latency that is on its way, and a return that has reached the file. -/
def sending (k : WriteKind) (due : Nat) (t : Thread) (d : RegDest) (v : Wide) : State :=
  machine t [] fun c => { c with writes := [{ due, slot := 0, kind := k, regs := [(d, v)] }] }
theorem witness_Registers_land : ([0, 1] : List Nat).all (fun due => (sending .fixed due th (.file 6) 7).thread w0 == some th
      && ((sending .fixed due th (.file 6) 7).core 0).writes == [fixedWrite due 0 [(homeOf th 6, (7 : Dword).zeroExtend 512)]]) = true
    ∧ (plain []).cycle = 0
    ∧ (let t : Thread := { th with run := .waiting .landing 3 }
       let s := sending .ret 9 t (.reg 6) 7
       s.thread w0 = some t ∧ t.run = .waiting .landing 3 ∧ Unbound s w0 t 6 ∧ (s.core 0).writes = [{ due := 9, slot := 0, kind := .ret, regs := [(.reg 6, (7 : Dword).zeroExtend 512)] }]) :=
  ⟨by decide +kernel, rfl, rfl, rfl, Or.inr rfl, by decide +kernel⟩
/-- R60, R72: a return is written and its thread is in rotation again; a result is written in its cycle and not before. -/
theorem test_landing : (let s := (sending .ret 9 { th with run := .waiting .landing 3 } (.reg 6) 7).land 0;
      (s.core 0).gfile = [(6, 7)] ∧ ((s.thread w0).getD Thread.fresh).run = .ready)
    ∧ (((sending .fixed 0 th (.file 6) 7).land 0).core 0).gfile = [(6, 7)] ∧ (((sending .fixed 1 th (.file 6) 7).land 0).core 0).gfile = [] := by decide +kernel

/-- A generator over another core's local store, and one over words that are empty. -/
def genFar (dir : Dir) : Gen := { gen dir [] false with base := 0xFFFFFFFFF1100040 }
def streamedFar (dir : Dir) : State := machine th [(5, 9)] fun c => { c with gens := [(1, genFar dir)] }
theorem witness_Streams_empty : full (machine th [] fun c => { c with gens := [(1, gen .arrive [] false)], fe := [(17, false)] }) 0 (16 + 1) = false
    ∧ (gen .arrive [] false).taken = [] ∧ (gen .arrive [] false).bytes = 8 := by decide
theorem witness_Streams_far : placeOf 0 (genFar .arrive).addr = .window 1 64 ∧ (genFar .arrive).addr.toNat % (genFar .arrive).bytes = 0
    ∧ CleanSpan (streamedFar .arrive) 1 64 8
    ∧ (match (streamedFar .output).store w0 th (genFar .output).addr 8 9 th.mpol with | .window c off => (c, off) | _ => (0, 0)) = (1, 64) :=
  ⟨by decide, by decide, clean_of _ _ _ _ rfl, by decide⟩
/-- R265: the store of an element goes through the window, with its thread out of rotation. -/
theorem test_stream_out_far : (let s := (streamedFar .output).writeG w0 20 9;
      s.agenda.map (·.ev) = [.windowAccess w0] ∧ s.waitOf w0 = some (.outStore 1 64 8 9)) := by decide
theorem witness_SpecialFunctions_full : let s := machine th [] fun c => { c with ist := [(0, 0xBF16), (1, 0xD000)], sfu := sixteen }
    (sfuOf (.exp2 69 90)).isSome = true ∧ th.next = [] ∧ ¬ isFollower th ∧ th.ahead = [] ∧ halvesAt s 0 th.pc = [0xBF16, 0xD000]
    ∧ decode [0xBF16, 0xD000] = .ok (.exp2 69 90, []) := by
  refine ⟨rfl, rfl, fun ⟨_, h, _⟩ => (by simp [th, loadedThread, Thread.fresh] at h), rfl, ?_, rfl⟩; decide
theorem witness_SpecialRegisters_flags : let s := machine th [] fun c =>
      { c with writes := [fixedWrite 0 0 [(.flags, (1 : BitVec 9).zeroExtend 512)], fixedWrite 0 0 [(.orFlags, (4 : BitVec 9).zeroExtend 512)]] }
    s.thread w0 = some th ∧ (s.core 0).writes = [fixedWrite 0 w0.slot [(.flags, (1 : BitVec 9).zeroExtend 512)], fixedWrite 0 w0.slot [(.orFlags, (4 : BitVec 9).zeroExtend 512)]]
    ∧ comes (.mts 6 .fflags) s th = true := ⟨rfl, rfl, by decide⟩
/-- R387: a lasting link error stops a thread at U for H. -/
theorem witness_TrapDelivery_link : TakenAtH { th with level := .u } cLinkLasting ∧ th.run = .ready ∧ ((tasked taskG []).core 0).deque.length < 256 :=
  ⟨⟨fun h => absurd h.2.2 (by decide), Or.inr (Or.inl rfl)⟩, rfl, by decide⟩

theorem turn_of (s : State) (home line : Nat) (ev : Ev) (h : smGetD (s.die home).dir line DirEntry.empty = DirEntry.empty) : ItsTurn s home line ev := by
  have e : s.dirEntry home line = DirEntry.empty := h
  exact ⟨by rw [e]; rfl, Or.inl ⟨by rw [e]; rfl, Or.inl (by rw [e]; rfl)⟩⟩
/-- The holder of word 0x100048, whose drop of it is at the bank. -/
def dropping : State :=
  { queued .drop 0 0 (some w0) with
    cores := [(0, { Core.fresh false with threads := [(0, { th with run := .waiting (.rsv 0x100048 .drop 0 0 0) 3, rsv := some 0x100048 })] })] }
theorem witness_Atomics_turn : ItsTurn (queued .add 7 5 none) 0 0x2000 (.reservationGrant 0x100048) ∧ ItsTurn dropping 0 0x2000 (.reservationGrant 0x100048)
    ∧ dropping.rsvHome 0x100048 = some 0 ∧ dropping.rsvReady 0 0x100048 = true ∧ Unheld dropping 0x2000
    ∧ comes (.rsvDrop 5) (paged { th with rsv := some 0x100048 } [(5, 0x48)] page) { th with rsv := some 0x100048 } = true :=
  ⟨turn_of _ _ _ _ rfl, turn_of _ _ _ _ rfl, rfl, by decide, unheld_of _ _ (by decide +kernel), by decide⟩
/-- R271: the drop of the holder frees the word. -/
theorem test_drop : (match exec (.reservationGrant 0x100048) dropping with
    | .next s => ((smGetD (s.die 0).rsv 0x100048 RsvQueue.empty).holder.isNone && (s.thread w0).map (·.run) == some (.waiting (.answer []) 0)) | _ => false) = true := by
  decide +kernel

/-- A thread whose `det.open` the bank has recorded before its wait was abandoned; one whose `det.done` it has. -/
def againT (done : Bool) : Thread := { partT done with parts := [{ line := 0x2000, next := 4, done, tok := 8, again := true }] }
theorem witness_OrderedRounds_again : ([.detOpen 5 7, .detDone 5] : List Instr).all (fun i => comes i (paged (againT false) [(5, 0x44), (7, 2)] pageD) (againT false)) = true
    ∧ BankAddr (paged (againT false) [] pageD) w0 (againT false) (lineVa 0x44) 128 true (accD 0 128)
    ∧ (againT false).partOn 0x2000 = some { line := 0x2000, next := 4, done := false, tok := 8, again := true }
    ∧ (againT true).partOn 0x2000 = some { line := 0x2000, next := 4, done := true, tok := 8, again := true }
    ∧ (∀ p, (partT true).partOn 0x2000 = some p → p.again = false ∨ p.done = true) :=
  ⟨by decide, bank_of _ _ _ _ _ _ (by decide) (by decide) (by decide), rfl, rfl, fun p h => by cases h; exact Or.inl rfl⟩
/-- R202: such an instruction issues again without DET_ROUND. -/
theorem test_again : ((tAfter (.detOpen 5 7) (paged (againT false) [(5, 0x44), (7, 2)] pageD)).parts.map (fun p => (p.again, p.done))) = [(false, false)]
    ∧ (tAfter (.detDone 5) (paged (againT true) [(5, 0x44)] pageD)).run = .waiting (.roundDone 0x2000) 0 := by decide +kernel
theorem witness_OrderedRounds_turn : (∃ x, smGet ((rounded []).die 0).rounds 0x2000 = some x ∧ smGet x.toks 1 = some 8 ∧ smGet x.toks 2 = some 8
      ∧ (∀ k, smGet x.dones x.expected ≠ some k ∨ k ≠ x.applied) ∧ x.expected < x.n ∧ (update 1 1).idx = x.expected ∧ (update 1 1).seq = x.applied)
    ∧ ItsTurn (rounded []) 0 0x2000 (.roundUpdateArrival (update 1 1)) ∧ ItsTurn (rounded []) 0 0x2000 (.heldUpdateApply 0x2000) :=
  ⟨⟨_, rfl, rfl, rfl, fun k => Or.inl (by intro h; cases h), by decide, rfl, rfl⟩, turn_of _ _ _ _ rfl, turn_of _ _ _ _ rfl⟩

/-- The line of the pins, not pinned and pinned by space 0 of partition 0. -/
def l2Pin (p : List Nat) : SMap L2Line := [(0x2000, { slice := 0, cls := 1, use := 0, pins := p })]
theorem witness_FencesAndPins_full : (64 * 1 ≤ ((pinned 64 []).part 0).pinned 0) ∧ ¬ 64 * 1 ≤ ((pinned 63 []).part 0).pinned 0
    ∧ (0 ∈ (smGetD ((pinned 63 (l2Pin [0])).die 0).l2 0x2000 { slice := 0, cls := 1, use := 0, pins := [] }).pins)
    ∧ (let p := (smGetD ((pinned 63 (l2Pin [77])).die 0).l2 0x2000 { slice := 0, cls := 1, use := 0, pins := [] }).pins; 0 ∉ p ∧ p ≠ [])
    ∧ BankAddr (pinned 63 (l2Pin [0])) w0 th (lineVa 0x44) 128 false (acc 0 128) ∧ (acc 0 128).homeDie = 0 ∧ (acc 0 128).line = 0x2000
    ∧ 4096 * th.part + th.spc = 0 ∧ comes (.lockL 6 5) (pinned 63 (l2Pin [0])) th = true ∧ comes (.unlockL 5) (pinned 63 (l2Pin [0])) th = true :=
  ⟨by decide, by decide, by decide, by decide, bank_of _ _ _ _ _ _ (by decide) (by decide) (by decide), rfl, rfl, rfl, by decide, by decide⟩

/-! Commands, messages, tasks and contexts at the further cases of their statements. -/

/-- A command that names a tile, and one (`mx.qk`) that does not. -/
theorem witness_EngineForms_tiles : tileNamed zeroCmd ∧ ¬ word0Bad .mx zeroCmd ∧ ¬ tileNamed 0x10500000 ∧ ¬ word0Bad .mx 0x10500000 ∧ ctlT.compute = false
    ∧ comes (.pushm .mx 5 1) (machine ctlT [(5, lb 32)] fun c => { c with lstore := [(16, 0x1040000a), (17, 0xa5)] }) ctlT = true
    ∧ (match (machine ctlT [(5, lb 32)] fun c => { c with lstore := [(16, 0x1040000a), (17, 0xa5)] }).gather w0 ctlT (lb 64) 32 1 with
      | .ok (_, l) => BitVec.ofNat 256 (leNat l) == zeroCmd | _ => false) = true := by
  refine ⟨?_, ?_, ?_, ?_, rfl, by decide, by decide +kernel⟩
  · unfold tileNamed; decide
  · show ¬ (_ ∨ _); decide
  · unfold tileNamed; decide
  · show ¬ (_ ∨ _); decide
/-- R55, R86: a control thread may not push a command that names a tile. -/
theorem test_pushm_tile : exec (.pushm .mx 5 1) (machine ctlT [(5, lb 32)] fun c => { c with lstore := [(16, 0x1040000a), (17, 0xa5)] })
    = .next ((machine ctlT [(5, lb 32)] fun c => { c with lstore := [(16, 0x1040000a), (17, 0xa5)] }).takeTrap w0 cNoWideState (bitsOf (.pushm .mx 5 1)) 0) := rfl
/-- A queue with a place and a command outside it whose thread has gone on. -/
theorem witness_EngineForms_entry : let c : Cmd := (atWork false).cmd; let u : Unit3 := { Unit3.empty with outside := [c] }
    let s := machine th [] fun x => { x with vx := u }
    ((s.core 0).unit .vx).outside = [c] ∧ ((s.core 0).unit .vx).queue.length < 2 ∧ (∀ x, s.waitOf c.w ≠ some (.queue x)) :=
  ⟨rfl, by decide, fun x h => by cases h⟩
theorem witness_EngineForms_complete : let r := { atWork false with begun := true }
    let t : Thread := { th with repVx := [{ seq := r.cmd.seq, done := none, lines := [] }] }
    let s := machine t [] fun x => { x with vx := { Unit3.empty with exec := some r } }
    ((s.core 0).unit .vx).exec = some r ∧ r.begun = true ∧ r.remote = false ∧ r.err = none ∧ r.flags = 0 ∧ (s.core 0).flights = []
    ∧ r.cmd.w.core = 0 ∧ s.thread r.cmd.w = some t ∧ t.run = .ready ∧ (∃ x ∈ t.reports .vx, x.seq = r.cmd.seq) :=
  ⟨rfl, rfl, rfl, rfl, rfl, rfl, rfl, rfl, rfl, _, List.mem_singleton.mpr rfl, rfl⟩

/-- A deposit on its way to the registers of a bound class. -/
def landingM : State := let s := msgM (boundCls false false false []) []; s.modCore 0 fun c => { c with writes := [depositWrite s 0 (some 2) (boundCls false false false []) msg2] }
theorem witness_Messages_landing : let k := boundCls false false false []
    landingM.thread w0 = some th ∧ th.run = .ready ∧ k.reg ≠ 0 ∧ (∀ i, i < k.n → Unbound landingM w0 th (k.reg + i))
    ∧ (landingM.core 0).writes = [depositWrite landingM 0 (some 2) k msg2] := ⟨rfl, rfl, by decide, fun _ _ => Or.inr rfl, rfl⟩
theorem test_deposit_lands : (let s := landingM.land 0; (s.core 0).gfile = [(20, 11), (21, 12)] ∧ (s.core 0).writes = [] ∧ (s.msgClass 0 2).ready = true
    ∧ (s.thread w0).map (·.event) = some true) := by decide +kernel

/-- A record of 64 registers without and with a second range, and one of a shape that R76 refuses. -/
theorem witness_TaskForms_succ : let ok : RecCopy := { recR with bits := BitVec.ofNat 512 (0x40 + 16 * 2 ^ 40 + 2 ^ 48) }
    let two : RecCopy := { ok with bits := ok.bits ||| BitVec.ofNat 512 (2 ^ 56) }
    fieldOf ok 56 1 = 0 ∧ recordValid ok none = true ∧ recordValid recBad none = false ∧ fieldOf recBad 56 1 = 0
    ∧ fieldOf two 56 1 = 1 ∧ fieldOf (unpinned two) 56 1 = 0 ∧ recordValid two (some (fpRange 0 0)) = true
    ∧ recordValid two (some (fpRange 2 0)) = false ∧ 0x7F / 2 ^ 7 % 2 = 0 ∧ 0x7F / 2 ^ 6 % 2 = 1 ∧ ({ th with num := 1 } : Thread).num ≠ 0 := by
  decide +kernel
theorem witness_TaskForms_range2 : comes (.retireS 5 6) (recM 0x1010000 [(5, lb 64), (6, 1)]) th = true
    ∧ (match (recM 0x1010000 []).gather w0 th (lb 64) 64 1 with
      | .ok (_, l) => decide (fieldOf (copyOf (lb 64) l) 56 1 = 1) && decide (fieldOf (copyOf (lb 64) l) 192 64 = 0)
      | .error _ => false) = true := by decide +kernel
/-- R299: a thread other than 0 only ends. -/
theorem test_retire_s_other : exec (.retireS 5 6) (machine { th with num := 1 } [(5, lb 64), (6, 1)] id)
    = .next ((machine { th with num := 1 } [(5, lb 64), (6, 1)] id).endThread w0 { th with num := 1 } false) := rfl

/-- A task that holds a lease of its thread 0. -/
def leased (num : Nat) : Group := { taskG with leases := [{ num, die := 0, idx := 5, frame := 1, copy := 0, addr := 0x2000, stamp := 9, prior := false }] }
theorem witness_ContextForms_lease : comes (.ctxRel 5) (tasked (leased 0) [(5, 0x2000)]) taskT = true ∧ (tasked (leased 0) []).taskOf w0 taskT = some (leased 0)
    ∧ ((leased 0).leases.find? fun l => l.addr == 0x2000 && l.num == taskT.num).isSome = true
    ∧ ((leased 1).leases.find? fun l => l.addr == 0x2000 && l.num == taskT.num).isNone = true := ⟨by decide, rfl, by decide, by decide⟩
/-- R263: `ctx.rel` gives back a lease of its own thread only. -/
theorem test_ctx_rel_task : ((ran (.ctxRel 5) (tasked (leased 0) [(5, 0x2000)])).group 0 5).map (·.leases.length) = some 0
    ∧ ((ran (.ctxRel 5) (tasked (leased 1) [(5, 0x2000)])).group 0 5).map (·.leases.length) = some 1 := by decide +kernel
/-- An edit at the last stamp. -/
theorem witness_SequencerSteps_last : let c := { ctx5 with counter := 2 ^ 48 - 1 }; let s := ctxM c []
    c.edits = [] ∧ c.counter = 2 ^ 48 - 1 ∧ del5.kind = .del ∧ del5.w = none ∧ s.ctxOf del5.part (handleIn del5.opnd) = some (0, 5, c)
    ∧ (s.modCtx 0 5 fun c => { c with edits := [] }).rowHeld 0 0 0 false c 3 = false := ⟨rfl, rfl, rfl, rfl, by decide, by decide +kernel⟩

/-! The commands at the further cases of their statements. -/

/-- A page of global memory that a command of the open mode reads, with one line of it listed. -/
def readM (k : Nat) : State := { workM [] with mem := [(0x100000 + 64 * k, 0x5A)] }
def acc64 (i : Nat) : Access := acc (nat64 (64 * i)) 64
theorem witness_MatrixCommands_ldb : ([0, 1] : List Nat).all (fun i => (readM 1).xlateNow 0 0 0 (0 + nat64 (64 * i)) 64 false false 0xFF00 == .ok (acc64 i)
      && (smGet (readM 1).poison (acc64 i).line).isNone && !(readM 1).readHeld 0 (acc64 i) (some (0, 0))) = true
    ∧ (0 : Dword).toNat < 0xFFFFFFFFF0000000 ∧ bytesSeen (readM 1) (atWork true) (acc64 1) 64 = 0x5A := by decide +kernel
theorem readable_of (s : State) (va : Dword) (n : Nat) (a : Access) (h0 : va.toNat < 0xFFFFFFFFF0000000) (h1 : s.xlateNow s.cur.core 0 0 va n false false 0xFF00 = .ok a)
    (h2 : smGet s.poison a.line = none) (h3 : s.readHeld (dieOf s.cur.core) a (some (s.cur.core, 0)) = false) : Readable s (atWork true) va n a :=
  ⟨h0, h1, h2, h3⟩
theorem witness_Readable : ∀ i, i < 128 / 64 → Readable (readM 1) (atWork true) (0 + nat64 (64 * i)) 64 (acc64 i) := by
  intro i h
  obtain rfl | rfl : i = 0 ∨ i = 1 := by omega
  all_goals exact readable_of _ _ _ _ (by decide) (by decide +kernel) (by decide +kernel) (by decide +kernel)
/-- R168: `mx.ldb` fills the weight buffer. -/
theorem test_ldb : smGetD ((ran (.mxLdb 0 0 64 128) (readM 1)).core 0).wbuf 128 0 = 0x5A ∧ errOf (.mxLdb 0 0 64 128) (readM 1) .mx = none
    ∧ (((ran (.mxLdb 0 0 64 128) (readM 1)).core 0).mx.exec).map (·.begun) = some true := by decide +kernel

/-- A clustered partition to whose core 1 a loader writes. -/
def istM (fenced : List Nat) : State := { readM 1 with host := { (readM 1).host with prov := { (readM 1).host.prov with fenced } } }
def istM1 : State := { istM [] with parts := [(0, { Partition.fresh { noSpec with clusters := 1 } with live := true })] }
theorem witness_CopyCommands_ist : ((istM1.part 0).spec.clusters.getLsbD (1 / 16) = true ∧ istM1.isFenced 1 = false)
    ∧ ¬ (((istM []).part 5).spec.clusters.getLsbD (1 / 16) = true ∧ (istM []).isFenced 1 = false)
    ∧ (∀ i, i < 128 / 64 → Readable istM1 (atWork true) (0 + nat64 (64 * i)) 64 (acc64 i)) ∧ Begins istM1 .cp (atWork true) := by
  refine ⟨by decide, by decide, ?_, ⟨rfl, ⟨0, 0, rfl⟩, rfl⟩⟩
  intro i h
  obtain rfl | rfl : i = 0 ∨ i = 1 := by omega
  all_goals exact readable_of _ _ _ _ (by decide) (by decide +kernel) (by decide +kernel) (by decide +kernel)
/-- R286: unit j of the store is written j cycles after the first. -/
theorem test_ist_units : ((ran (.cpIst 0 1 0 64 128) istM1).agenda.filterMap fun x => match x.ev with | .instructionStoreWrite c u v => some (c, u, v.toNat) | _ => none)
    = [(1, 1, 0), (1, 2, 0x5A)] := by decide +kernel

/-- Of two elements one lies beyond the store: those before it stay copied. -/
def beyondM : State := workM (data4 ++ [(32, 1), (33, 98304)])
theorem witness_CopyCommands_beyond : let c := beyondM.core 0
    let step := fun (p : Core × Bool) j => if p.2 = false then p else let c := p.1; let k := c.lread (128 + 4 * j) 4
      if k * 4 + 4 ≤ 393216 ∧ 64 + j * 4 + 4 ≤ 393216 then (c.engineWrite (64 + j * 4) 4 (c.lread (k * 4) 4), true) else (c, false)
    ((List.range 2).foldl step (c, true)).2 = false ∧ ((List.range 1).foldl step (c, true)).2 = true := by decide +kernel
theorem test_gather_beyond : errOf (.cpGather 0 false false false 0 64 128 2 2) beyondM .cp = some cLocalBound
    ∧ wordsOf (.cpGather 0 false false false 0 64 128 2 2) beyondM 64 2 = [0x40000000, 0] := by decide +kernel

/-- A context that beam slot 0 names, and the PTB entry of its second block. -/
def frameM (x : Ctx) : State :=
  { workM [] (fun c => { c with beam := [(0, 0x8005)], ptb := [ptb5] }) with dies := [(0, { Die.fresh with ctxs := [(5, x)] })], mem := [(0x103040, 0x5A)] }
/-- It with version 9 of layer 1 of block 1. -/
def verM : Ctx := { ctx5 with frames := [(4, { Frame.blank with v0 := some { stamp := 9, ord := 1 } })] }
def rowAcc : Access := acc 0x3040 64
theorem witness_CopyCommands_frame : (frameM verM).ctxOf 0 (smGetD ((frameM verM).core 0).beam 0 0).toNat = some (0, 5, verM)
    ∧ 1 ≤ verM.layers ∧ 64 + 1 * (verM.rowPlace 0 0).2 ≤ 393216 ∧ 1024 + 8 * 1 ≤ 393216 ∧ (verM.rowPlace 0 0).2 = 64
    ∧ ((frameM ctx5).ctxOf 0 (smGetD ((frameM ctx5).core 0).beam 1 0).toNat).isNone = true ∧ ¬ 3 ≤ ctx5.layers := by decide +kernel
theorem witness_RowSeen_none : RowSeen (frameM ctx5) (atWork true) ctx5 1 0 5 9 0 (List.replicate 64 0, none) :=
  ⟨by decide, ptb5, List.mem_singleton.mpr rfl, ⟨by decide, by decide, by decide, by decide, by decide⟩, fun e' h _ => List.mem_singleton.mp h, rfl⟩
theorem run_one (s : State) (r : Running) (va n : Nat) (a : Access) (e : pieces va n n = [(va, n)]) (h : Readable s r (nat64 va) n a) :
    RunSeen s r va n (leBytes n (bytesSeen s r a n)) := by
  refine ⟨fun _ => a, ?_, ?_⟩
  · intro x hx
    obtain rfl := List.mem_singleton.mp (e ▸ hx)
    exact h
  · rw [e]
    exact (List.append_nil _).symm
theorem row_run : RunSeen (frameM verM) (atWork true) ((verM.frameAddr 1 1 0).toNat + (verM.rowPlace 0 (5 - 4)).1) 64 (leBytes 64 (bytesSeen (frameM verM) (atWork true) rowAcc 64)) :=
  run_one (frameM verM) (atWork true) ((verM.frameAddr 1 1 0).toNat + (verM.rowPlace 0 (5 - 4)).1) 64 rowAcc (by decide +kernel)
    (readable_of _ _ _ _ (by decide) (by decide +kernel) (by decide +kernel) (by decide +kernel))
theorem witness_RowSeen : RowSeen (frameM verM) (atWork true) verM 1 0 5 9 0 (leBytes 64 (bytesSeen (frameM verM) (atWork true) rowAcc 64), some 9) :=
  ⟨by decide, ptb5, List.mem_singleton.mpr rfl, ⟨by decide, by decide, by decide, by decide, by decide⟩, fun e' h _ => List.mem_singleton.mp h, rfl,
    row_run⟩
/-- R287: the row and the status of the position; zeros where it has no version. -/
theorem test_frame : wordsOf (.cpFrame 0 0 1 0 5 1 9 0 64 1024) (frameM verM) 64 2 = [0x5A, 0] ∧ wordsOf (.cpFrame 0 0 1 0 5 1 9 0 64 1024) (frameM verM) 1024 2 = [9, 0]
    ∧ wordsOf (.cpFrame 0 0 1 0 5 1 9 0 64 1024) (frameM ctx5) 1024 2 = [0, 0x41000000] ∧ errOf (.cpFrame 0 0 1 0 5 1 9 0 64 1024) (frameM verM) .cp = none
    ∧ (((ran (.cpFrame 0 0 1 0 0 1 9 0 64 1024) (frameM verM)).core 0).cp.exec).map (·.hold) = some (.row 0) := by decide +kernel

/-- A command that has begun, one that pauses after the words of its pace, one that waits and one that fails. -/
theorem witness_CommandOutcomes_cases : ({ atWork true with begun := true } : Running).begun = true
    ∧ (match runsTo (workMap (vops 4 64 0 0 11 0)) { start (workM data4) (atWork true) with left := some 1 } with | (.error .pause, _) => true | _ => false) = true
    ∧ (match runsTo (workMap (vops 4 64 0 0 11 0)) (start (workM data4) (atWork true)) with | (.ok _, e) => e.out.isEmpty | _ => false) = true
    ∧ (match runsTo (workMap (vops 0 64 0 0 11 0)) (start (workM data4) (atWork true)) with | (.error (.fail _), e) => e.out.isEmpty | _ => false) = true
    ∧ (match runsTo (workFrame 0 1 0 0 1 9 0 64 1024) (start (frameM verM) (atWork true)) with | (.error (.hold (.row p)), _) => p == 0 | _ => false) = true := by
  decide +kernel

/-! Attention, hand-overs and accesses at the further cases of their statements. -/

theorem witness_AttentionFrames_ok : let c := attM.core 0
    attOk c 0xA23FF 0 ∧ ropeOk c 0 ∧ keysPlaced c 0 ∧ cfgInt 0xA23FF = false ∧ cfgCols 0xA23FF = 32 ∧ c.tileCfg 0 = 0xA23FF ∧ 0 + attDim c 0 / 32 ≤ 8
    ∧ ¬ attOk c 0xA23FF 2 ∧ Begins attM .mx (atWork true) ∧ Calm attM (atWork true) ∧ (atWork true).cmd.fmtWord.toNat < 2 ^ 8 ∧ (atWork true).cmd.fmtRest = false := by
  refine ⟨?_, ⟨by decide +kernel, by decide +kernel, by decide +kernel, ?_⟩, Or.inl (by decide +kernel), by decide, by decide, by decide, by decide +kernel, ?_, ⟨rfl, ⟨0, 0, rfl⟩, rfl⟩,
    ⟨rfl, fun h => (by cases h)⟩, by decide, rfl⟩
  · refine ⟨?_, ?_, ?_, ?_, ?_, ?_, ?_, ?_, ?_, ?_, ?_, ?_, ?_, ?_, ?_, ?_, ?_, ?_, ?_⟩ <;> first | decide +kernel | (unfold Area; decide +kernel) | (unfold finiteNonNeg; decide +kernel)
  · intro i h
    exact absurd h (by have e : (attM.core 0).lread (attField (attM.core 0) 0 4) 4 = 1 := by decide +kernel
                       rw [e]; omega)
  · exact fun h => absurd h.1 (by unfold Area; decide)

theorem witness_DispatchAndCommit_bad : (idleM fun c => { c with deque := [recBad] }).recordHeld 0 recBad = false ∧ (recBad.fmtp = 0 ∨ True) := ⟨by decide +kernel, Or.inr trivial⟩
/-- Core 0 as a core of C with a record of an ordinary one granted to it, and a thief that may not steal. -/
def stealDet : State := { stealM [] with parts := [(0, { Partition.fresh { noSpec with clusters := 1 } with live := true, detp := true, detset := 1 })] }
theorem witness_DispatchAndCommit_reply : stealDet.isDetCore 0 = true ∧ ¬ detFlag recR ∧ (stealDet.core 1).deque.length < 256 ∧ (stealDet.core 0).victims = [1]
    ∧ stealDet.isDetCore 1 = false ∧ (stealM []).isDetCore 0 = false ∧ (stealM []).isDetCore 1 = false ∧ (stealM []).partOf 1 = (stealM []).partOf 0
    ∧ ((stealM [recR]).core 1).deque.length ≠ 33 ∧ (stealM []).idle 0 = true ∧ stealDet.idle 0 = false := by
  refine ⟨by decide +kernel, by unfold detFlag; decide +kernel, by decide, rfl, by decide +kernel, by decide +kernel, by decide +kernel, by decide +kernel, by decide, by decide +kernel, by decide +kernel⟩
/-- R203: a record without the det flag goes back to its victim. -/
theorem test_steal_back : ((stepOf (.stealReply 0 (some recR)) stealDet).core 1).deque = [recR] ∧ ((stepOf (.stealReply 0 (some recR)) stealDet).core 0).granted = none := by decide +kernel
/-- A successor that keeps its predecessor's tiles, with the claim for them and without, and one gone from its context (R319). -/
def succTiles (claim : Bool) : State := succM recR 0x147 |>.modCore 0 fun c => { c with groups := [(5, { taskG with slots := [0], phase := .succeeding, succ := some (recR, 0x147), claim, cfg := recR.tcfg })] }
theorem witness_DispatchAndCommit_tiles : (succTiles false).succReady 0 5 = true ∧ (0x147 : Half).toNat / 256 ≠ 0 ∧ fieldOf (unpinned recR) 56 1 = 0
    ∧ ((succTiles false).group 0 5).map (·.claim) = some false ∧ (succTiles false).recordGone 0 0 recR = false ∧ ([0] : List Nat).Nodup := by decide +kernel
def goneM : State := { succM { recR with addr := ctx5.placeAddr 1 0 0 } 0x47 with dies := [(0, { Die.fresh with ctxs := [(5, ctx5)] })] }
theorem witness_DispatchAndCommit_gone : goneM.recordGone 0 0 { recR with addr := ctx5.placeAddr 1 0 0 } = true ∧ goneM.succReady 0 5 = true := by decide +kernel
theorem test_gone : ((stepOf (.successorStart 0 5) goneM).group 0 5).isNone = true ∧ ((stepOf (.successorStart 0 5) goneM).core 0).detached = []
    ∧ ((stepOf (.successorStart 0 5) (succTiles false)).core 0).detached.map (·.cause) = [cSuccTileShape] := by decide +kernel
theorem witness_DispatchAndCommit_retired : th.hasRetired = false ∧ ({ th with run := .waiting (.msg 2) 5 } : Thread).hasRetired = false
    ∧ (knotM.thread w0).map (·.hasRetired) = some false := ⟨rfl, rfl, rfl⟩

/-- A load of die 1's memory from core 0, with a reply of the home on its way or a copy on its die. -/
def farAcc : Access := { va := 0x40, pa := 2 ^ 36 + 0x40, size := 1, pol := 0xFF00, repl := 0, dpage := false, home := 1, harg := 0, tdie := 0 }
theorem witness_AccessSteps_load : let s := waiting (.load (acc 0x40 1) (.g 6 1 true)); let a := acc 0x40 1
    s.commitOnWay 0 0x2000 = false ∧ a.homeDie = 0 ∧ s.homeWaits 0 0x2000 (some (0, 0)) = false ∧ s.ownerOf 0 0x2000 = none
    ∧ (let c := { s with cores := [(0, { s.core 0 with flights := [{ id := 1, sent := 0, w := { core := 0, slot := 64 }, lw := { line := 0x2000, data := 7, mask := 1 }, acc := a }] })] };
      c.commitOnWay 0 0x2000 = true)
    ∧ (let o := { s with dies := [(0, { Die.fresh with dir := [(0x2000, { holders := [(1, .m)], busy := none, queue := [] })] })] };
      o.dieHas 0 a = false ∧ o.homeWaits 0 0x2000 (some (0, 0)) = false)
    ∧ (let o := { s with dies := [(0, { Die.fresh with dir := [(0x2000, { holders := [], busy := none, queue := [.reservationGrant 0] })] })] }; o.homeWaits 0 0x2000 (some (0, 0)) = true) := by
  decide +kernel
theorem test_load_waits : (let s := waiting (.load (acc 0x40 1) (.g 6 1 true));
    exec (.memoryReturn w0 (some { line := 0x2001, data := 0, grant := none })) s = .next s) := by rfl

/-- What a home answers a load with, and a die copy whose granted bytes are whole or in part. -/
theorem witness_AccessSteps_reply : let s := waiting (.load farAcc (.g 6 1 false)); let x : MemReply := { line := 2 ^ 29, data := 7, grant := none }
    x.line = farAcc.line ∧ s.commitOnWay 0 farAcc.line = false ∧ (0 : Nat) ≠ farAcc.homeDie ∧ (smGet (s.die 0).copies farAcc.line).isNone = true
    ∧ s.dieHas 0 farAcc = false := by decide
theorem test_reply : (smGetD ((stepOf (.memoryReturn w0 (some { line := 2 ^ 29, data := 0x85 * 2 ^ 512, grant := none })) (waiting (.load farAcc (.g 6 1 false)))).core 0).gfile 6 0) = 0x85 := by
  decide +kernel
theorem witness_AccessSteps_ports : let s := waiting (.outStore 1 8 4 5); let busy := { s with clusters := [(0, { Cluster.fresh with portCycle := 0, ports := 4 })] }
    ((s.thread w0).map (·.run)) = some (.waiting (.outStore 1 8 4 5) 0) ∧ (s.takePort 1).isSome = true ∧ (busy.takePort 1).isNone = true ∧ (1 : Nat) ≠ w0.core
    ∧ needs .ldTake = some true ∧ full s 1 2 = true ∧ needs .feClr = none := by decide
/-- R214, R265: the store of a bound register through the window; its thread's answer comes. -/
theorem test_out_store : (let s := stepOf (.windowAccess w0) (waiting (.outStore 1 8 4 0x1234)); localNum s 1 8 4 = 0x1234 ∧ s.agenda.map (·.ev) = [.agentAnswer w0])
    ∧ exec (.windowAccess w0) (waiting (.sync .ldTake 1 8 6 0) fun c => { c with fe := [] }) ≠ .next (waiting (.sync .ldTake 1 8 6 0)) := ⟨by decide +kernel, by intro h; cases h⟩
theorem witness_AccessSteps_wide : let s := waiting (.wideSync 3 64); (∀ k, k < 16 → full s 0 (64 / 4 + k) = true)
    ∧ ∃ k, k < 16 ∧ full (waiting (.wideSync 3 64) fun c => { c with fe := [(20, false)] }) 0 (64 / 4 + k) = false := ⟨by decide, 4, by decide, by decide⟩
theorem test_wide_sync : ((stepOf (.windowAccess w0) (waiting (.wideSync 3 64) fun c => { c with lstore := [(16, 9)] })).thread w0).map (·.run) = some (.waiting (.wideAnswer 3 9) 0)
    ∧ smGetD ((stepOf (.agentAnswer w0) (waiting (.wideAnswer 3 9))).core 0).wfile 3 0 = 9
    ∧ ((stepOf (.agentAnswer w0) (waiting .report)).thread w0).map (·.run) = some .ready := by decide +kernel

/-- The directory entry of the line of a host's write. -/
def dirM (e : DirEntry) : State := { plain [] with dies := [(0, { Die.fresh with dir := [(0x2000, e)] })] }
def othersRead : Trans := { req := { die := 1, home := 0, line := 0x2000, own := true, w := none, policy := 0, norep := false, slice := some 0, hslice := 0, cls := 1 }, agent := none, acks := 1, due := 0, back := false }
theorem witness_AccessSteps_turns : ItsTurn (plain []) 0 0x2000 (.directWrite hostByte)
    ∧ ItsTurn (dirM { holders := [], busy := none, queue := [.directWrite hostByte, .reservationGrant 0] }) 0 0x2000 (.directWrite hostByte)
    ∧ ItsTurn (dirM { holders := [], busy := some { othersRead with agent := some (.directWrite hostByte), acks := 0 }, queue := [] }) 0 0x2000 (.directWrite hostByte)
    ∧ ((dirM { holders := [], busy := some othersRead, queue := [] }).dirEntry 0 0x2000).busy = some othersRead ∧ othersRead.agent ≠ some (.directWrite hostByte)
    ∧ smGet ((dirM { holders := [(1, .s)], busy := none, queue := [] }).die 0).dir 0x2000 = some { holders := [(1, .s)], busy := none, queue := [] } :=
  ⟨turn_of _ _ _ _ rfl, ⟨rfl, Or.inl ⟨rfl, Or.inr (Or.inl rfl)⟩⟩, ⟨rfl, Or.inr ⟨_, rfl, rfl, rfl, Nat.le_refl _⟩⟩, rfl, (by intro h; cases h), rfl⟩
/-- R242: it stands behind a transaction of another, and first invalidates the copies of other dies. -/
theorem test_turns : ((stepOf (.directWrite hostByte) (dirM { holders := [], busy := some othersRead, queue := [] })).dirEntry 0 0x2000).queue = [.directWrite hostByte]
    ∧ (stepOf (.directWrite hostByte) (dirM { holders := [(1, .s)], busy := none, queue := [] })).agenda.map (·.ev) = [.invalidation 1 0x2000]
    ∧ ((stepOf (.directWrite hostByte) (dirM { holders := [(1, .s)], busy := none, queue := [] })).dirEntry 0 0x2000).busy.map (·.agent) = some (some (.directWrite hostByte)) := by decide +kernel
def fl3 : Flight := { id := 3, sent := 0, w := w0, lw := hostByte.lw, acc := acc 0 1 }
theorem witness_AccessSteps_flights : (machine th [] fun c => { c with flights := [fl3] }).landsAfter 0 fl3 = false
    ∧ (machine th [] fun c => { c with flights := [{ fl3 with id := 2 }, fl3] }).landsAfter 0 fl3 = true
    ∧ ((machine th [] fun c => { c with flights := [fl3] }).core 0).flights.find? (fun f => f.id == 3) = some fl3
    ∧ (machine th [] fun c => { c with flights := [fl3] }).copySlice 0 fl3.acc = none ∧ (plain []).writeBlocked 0 0x2000 (some (0, 0)) = false
    ∧ ItsTurn (machine th [] fun c => { c with flights := [fl3] }) 0 0x2000 (.directWrite { hostByte with src := .thread w0, id := 3 }) :=
  ⟨by decide, by decide, rfl, by decide, by decide, turn_of _ _ _ _ rfl⟩
/-- R209: a later write of a line stays behind the earlier one. -/
theorem test_lands_after : (stepOf (.directWrite { hostByte with src := .thread w0, id := 3 }) (machine th [] fun c => { c with flights := [{ fl3 with id := 2 }, fl3] })).agenda.map (·.due) = [1] := by
  decide +kernel
theorem witness_AccessSteps_dropping : let q : RsvQueue := { holder := some w0, since := 0, queue := [{ due := 0, w := w0, far := none, op := .drop, d := 0, b := 0, x := 0, acc := acc 0x40 8 }] }
    (∃ r ∈ q.queue, r.w = w0 ∧ r.op = .drop) ∧ ¬ ∃ r ∈ ([] : List RsvReq), r.w = w0 ∧ r.op = .drop := ⟨⟨_, List.mem_singleton.mpr rfl, rfl, rfl⟩, fun ⟨_, h, _⟩ => by cases h⟩
/-- A flight of core 0 to a line of die 1. -/
def flFar : Flight := { fl3 with acc := farAcc, lw := { line := 2 ^ 29, data := 0xAB * 2 ^ 512, mask := 1 <<< 64 } }
def flyFar : State := machine th [] fun c => { c with flights := [flFar] }
def farWrite : DWrite := { src := .thread w0, die := 0, id := 3, lw := flFar.lw }
theorem witness_AccessSteps_copy : flyFar.landsAfter 0 flFar = false ∧ flyFar.copySlice 0 flFar.acc = some 0 ∧ (flyFar.copyRoom 0 0 (2 ^ 29)).isSome = true
    ∧ farWrite.die = dieOf 0 ∧ flyFar.writeBlocked 0 (2 ^ 29) (some (0, 0)) = false ∧ (smGet (flyFar.die 0).copies (2 ^ 29)).isNone = true := by decide +kernel
/-- R241: the bytes are pending in the die copy, and ownership is asked for. -/
theorem test_copy_pending : (let s := stepOf (.directWrite farWrite) flyFar; (smGet (s.die 0).copies (2 ^ 29)).map (fun c => (c.pend, c.state)) = some ((1 : LineMask) <<< 64, none)
    ∧ (s.agenda.map fun x => match x.ev with | .directoryOwnership r => (r.die, r.home, r.line) | _ => (9, 9, 9)) = [(0, 1, 2 ^ 29)]) := by decide +kernel

/-! The directory, the walkers and the host at the further cases of their statements. -/

/-- A partition whose space k, which it exports, is mapped as it is: a table at 0x20000, a large leaf at 0x21000, and a stage-2 entry. -/
def sharedSpace : SpaceEntry := { quota := 0, root := 0x20000, valid := true }
def exportOf (k : Nat) : State :=
  { plain [] with
    parts := [(0, { Partition.fresh { noSpec with clusters := 1 } with live := true, spaces := [(k, sharedSpace)] })],
    mem := [(0x20000, 1), (0x20001, 0x10), (0x20002, 2), (0x20006, 0xF0), (0x21000, 0x47), (0x21006, 0x20), (0x100040, 5)],
    dies := [(0, { Die.fresh with s2 := [{ cache := 0, part := 0, page := 0, bits := 21, frame := 0, writable := true, tdie := 0 }] })],
    host := { (plain []).host with prov := { device := 1, fenced := [], beacon := true } } }
/-- The space that this device exports is free, so that its entry is found for any. -/
theorem export_starts (k : Nat) (va : Dword) : (exportOf k).walkStart 0 (Walk.new 0 k va []) = if 2 ^ 48 ≤ va.toNat then .fault1
    else walkS2 ((exportOf k).die 0).s2 ((exportOf k).s2root 0) { Walk.new 0 k va [] with started := true, gpa := 0x20000 + 8 * lvlIndex 3 va.toNat } := by
  have h : ∀ d, smGetD ((exportOf k).part 0).spaces k d = sharedSpace := fun d => by
    show (if k = k then some sharedSpace else none).getD d = sharedSpace
    rw [if_pos rfl]; rfl
  unfold State.walkStart
  show (if 2 ^ 48 ≤ va.toNat || !(smGetD ((exportOf k).part 0).spaces k { quota := 0, root := 0, valid := false }).valid then _ else _) = _
  rw [h]
  by_cases hv : 2 ^ 48 ≤ va.toNat
  · simp [-Nat.reducePow, hv]
  · simp [-Nat.reducePow, hv, h, sharedSpace, Walk.new]
def exportS : State := exportOf (Config.exportedSpace 0)
theorem export_at (n : Nat) (store : Bool) (va : Dword) (h : ¬ 2 ^ 48 ≤ va.toNat) : exportS.exportXlate 0 va n store =
    (match exportS.walkAll 0 25 (walkS2 (exportS.die 0).s2 (exportS.s2root 0) { Walk.new 0 (Config.exportedSpace 0) va [] with started := true, gpa := 0x20000 + 8 * lvlIndex 3 va.toNat }) with
      | .done e => (match exportS.applyXlate e va n store true 0 with | .ok a => some a | _ => none) | _ => none) := by
  unfold State.exportXlate exportS
  rw [export_starts, if_neg h] <;> rfl
def wordAcc : Access := { va := 0x100040, pa := 0x100040, size := 8, pol := 0, repl := 0, dpage := false, home := 1, harg := 0, tdie := 0 }
theorem witness_DirectorySteps_export : exportS.exportXlate 0 0x100040 8 true = some wordAcc := by
  rw [export_at _ _ _ (by decide)]
  rfl

def byteAcc : Access := { wordAcc with size := 1 }
theorem export_byte (store : Bool) : exportS.exportXlate 0 (0x100040 + BitVec.ofNat 64 0) 1 store = some byteAcc := by
  rw [export_at _ _ _ (by decide)]
  cases store <;> rfl
theorem export_lines : exportS.exportLines 0 0x100040 0 [9] [] = some [(byteAcc, { line := 0x2000, data := 9 * 2 ^ 512, mask := (1 : LineMask) <<< 64 })] := by
  unfold State.exportLines
  rw [export_byte]
  decide +kernel
theorem export_bytes : exportS.exportBytes 0 0x100040 1 = some [(byteAcc, 5)] := by
  have e : exportS.exportBytes 0 0x100040 1
      = (exportS.exportXlate 0 (0x100040 + BitVec.ofNat 64 0) 1 false).map fun a => [(a, lineByte (exportS.homeValue a.homeDie a.line) (a.pa % 128))] := by
    unfold State.exportBytes
    show [0].mapM _ = _
    rw [List.mapM_cons, List.mapM_nil]
    cases exportS.exportXlate 0 (0x100040 + BitVec.ofNat 64 0) 1 false <;> rfl
  rw [e, export_byte]
  decide +kernel
theorem witness_DirectorySteps_shared : (∃ a lw, exportS.exportLines 0 0x100040 0 [9] [] = some [(a, lw)] ∧ a.line = lw.line ∧ a.homeDie = 0
      ∧ ItsTurn exportS a.homeDie lw.line (.remoteAccess (.put 9 3 0 0x100040 [9]))
      ∧ exportS.writeBlocked a.homeDie lw.line none = false ∧ smGet (exportS.die a.homeDie).rounds lw.line = none)
    ∧ (∃ a, exportS.exportBytes 0 0x100040 1 = some [(a, 5)] ∧ exportS.homeReadWaits a.homeDie a.line = false) :=
  ⟨⟨_, _, export_lines, rfl, rfl, turn_of _ _ _ _ rfl, rfl, rfl⟩, _, export_bytes, rfl⟩
/-- An atomic of another device, first in its word's queue. -/
def farQueued : State :=
  { plain [] with
    mem := [(0x100048, 5)], host := { (plain []).host with prov := { device := 1, fenced := [], beacon := true } },
    dies := [(0, { Die.fresh with rsv := [(0x100048, { holder := none, since := 0, queue := [{ due := 0, w := farWho, far := some (9, 3), op := .add, d := 0, b := 7, x := 0, acc := acc 0x48 8 }] })] })] }
theorem witness_DirectorySteps_far : farQueued.rsvHome 0x100048 = some 0 ∧ (smGetD (farQueued.die 0).rsv 0x100048 RsvQueue.empty).queue.map (·.far) = [some (9, 3)]
    ∧ farQueued.rsvReady 0 0x100048 = true ∧ ItsTurn farQueued 0 (acc 0x48 8).line (.reservationGrant 0x100048) ∧ Unheld farQueued (acc 0x48 8).line
    ∧ (atomicOf (.amoAdd 6 5 7)).map (·.1) = some .add :=
  ⟨by decide, by decide, by decide, turn_of _ _ _ _ rfl, unheld_of _ _ (by decide +kernel), rfl⟩
theorem test_far_atomic : memGet (stepOf (.reservationGrant 0x100048) farQueued).mem 0x100048 = 12
    ∧ (stepOf (.reservationGrant 0x100048) farQueued).beacon = [(9, .reply 3 true [5, 0, 0, 0, 0, 0, 0, 0])] := by decide +kernel

/-- Requests and answers at a directory: a transaction of another, copies beyond the degree, and an invalidation that is no longer due. -/
theorem witness_DirectorySteps_busy : (let s := dirM { holders := [], busy := some othersRead, queue := [] };
      (s.dirEntry 0 0x2000).busy = some othersRead ∧ othersRead.agent ≠ some (.directoryRead (readReq false)) ∧ othersRead.agent ≠ some (.directoryOwnership (readReq true)))
    ∧ (({ readReq true with die := 0, home := 0 } : DirReq).die = ({ readReq true with die := 0, home := 0 } : DirReq).home)
    ∧ (let hs : List (Nat × Moesi) := [(1, .s), (2, .s), (3, .s), (4, .s), (5, .s), (6, .s), (7, .s)];
      ((hs.filter fun h => h.2 == .s).drop (smGetD (plain []).regions (0x2000 / 512) Region.fresh).degree) ≠ [])
    ∧ (othersRead.acks = 0 ∨ (othersRead.agent = none ∧ othersRead.back = false ∧ othersRead.req.die = 1))
    ∧ ¬ (othersRead.acks = 0 ∨ (othersRead.agent = none ∧ othersRead.back = false ∧ othersRead.req.die = 2)) :=
  ⟨⟨rfl, (by intro h; cases h), (by intro h; cases h)⟩, rfl, by decide, Or.inr ⟨rfl, rfl, rfl⟩, by decide⟩
theorem test_excess : ((stepOf (.directoryOwnership { readReq true with die := 0, w := none }) (dirM { holders := [(1, .s), (2, .s), (3, .s)], busy := none, queue := [] })).dirEntry 0 0x2000).busy.map
      (fun t => (t.back, t.acks)) = some (true, 3 - (smGetD (plain []).regions (0x2000 / 512) Region.fresh).degree)
    ∧ exec (.invalidation 1 0x2000) (dirM { holders := [(1, .s)], busy := some othersRead, queue := [] }) = .next (dirM { holders := [(1, .s)], busy := some othersRead, queue := [] }) := ⟨by decide +kernel, rfl⟩
/-- A copy with pending bytes at a die that another invalidates, and a secure task there. -/
def granted (pend : LineMask) : DieCopy := { data := 7, state := some .s, pend, pdata := 9, valid := BitVec.allOnes 128, slice := 0, cls := 1, use := 0 }
theorem witness_DirectorySteps_granted : let b : Trans := { othersRead with req := { othersRead.req with die := 2 } }
    let s := { dirM { holders := [(1, .s)], busy := some b, queue := [] } with dies := [(0, { Die.fresh with dir := [(0x2000, { holders := [(1, .s)], busy := some b, queue := [] })] }), (1, { Die.fresh with copies := [(0x2000, granted 1)] })] }
    ¬ (b.acks = 0 ∨ (b.agent = none ∧ b.back = false ∧ b.req.die = 1)) ∧ smGet (s.die 1).copies 0x2000 = some (granted 1) ∧ (granted 1).valid ≠ 0 ∧ (granted 1).pend ≠ 0 ∧ (granted 0).pend = 0
    ∧ s.writeBlocked 1 0x2000 none = false := ⟨by decide, rfl, by decide, by decide, rfl, by decide⟩
theorem test_pending_stays : (let b : Trans := { othersRead with req := { othersRead.req with die := 2 } };
    let s := stepOf (.invalidation 1 0x2000) { plain [] with dies := [(0, { Die.fresh with dir := [(0x2000, { holders := [(1, .s)], busy := some b, queue := [] })] }), (1, { Die.fresh with copies := [(0x2000, granted 1)] })] };
    (smGet (s.die 1).copies 0x2000).map (fun c => (c.state, c.valid, c.pend)) = some (none, 0, 1) ∧ (s.dirEntry 0 0x2000).busy.map (·.acks) = some 0) := by decide +kernel

/-- A stage-1 entry of zeros. -/
theorem witness_WalkSteps_fault : let x := { Walk.new 0 0 0x40 [w0] with started := true, gpa := 0x20000, tab1 := 0x20000 }
    walkTake [] 0x30000 x 0 = (.fault1, none) ∧ x.serves 0 0 0x40 = true ∧ whereIs x.readAddr = .stored 0x20000 false ∧ smGet (walkM [(0, x)]).poison (0x20000 / 128) = none := by decide
theorem test_walk_fault : ((stepOf (.walkReadReturn 0 0) (walkM [(0, { Walk.new 0 0 0x40 [w0] with started := true, gpa := 0x20000, tab1 := 0x20000 })])).agenda.filterMap
    fun x => match x.ev with | .hypervisorEvent e => some (e.cause, e.tval) | _ => none) = [(cPageFaultLoad, 0x40)] := by decide +kernel

/-- A line of the host's stands at its home. -/
theorem witness_HostSteps_posted : (exportM.after 1 (.directWrite hostByte)).outWriting .host 0 = true ∧ exportM.outWriting .host 0 = false
    ∧ (mgmt ≠ 0) ∧ (plain []).host.start = false := by decide
theorem test_host_posted : (stepOf (.hostWrite 0 0x100000 [1]) (exportM.after 1 (.directWrite hostByte))).host.posted.map (fun x => (x.part, x.addr, x.bytes)) = [(0, 0x100000, [1])]
    ∧ (stepOf (.hostRead 0 0x100000 1) (exportM.after 1 (.directWrite hostByte))).host.reads = [] := by decide +kernel
theorem witness_HostSteps_drop : let q := [recR, { recR with faulted := true }]
    q = [recR] ++ { recR with faulted := true } :: [] ∧ (∀ x ∈ [recR], ¬ (x.addr = 0x10040 ∧ x.faulted = true)) ∧ ({ recR with faulted := true } : RecCopy).addr = 0x10040 ∧ q.length ≠ 33
    ∧ (controlGroup 0 0).uncommitted = false ∧ taskG.uncommitted = true ∧ taskG.task.isDet = false :=
  ⟨by decide +kernel, fun x h => (by obtain rfl := List.mem_singleton.mp h; exact fun h => (by cases h.2)), by decide +kernel, by decide, by decide, by decide, by decide +kernel⟩
theorem test_drop_record : ((stepOf (.hypervisorResume w0 (.dropRecord 0x10040)) (idleM fun c => { c with deque := [recR, { recR with faulted := true }] })).core 0).deque = [recR] := by decide +kernel

end Sys2Proof.Tests
end

section
/-!
PROOFS. What a step does when something is due, and what an engine runs from the bits of a command (R8, R87, R88, R160).
-/
namespace Sys2Proof.Machine

/-! A step of the agenda. -/

/-- The row of a step stands for the same meaning as the step. -/
theorem runEv_eq_exec_row (e : Ev) (s : State) : runEv e s = exec e.row s := by
  cases e <;> rfl

theorem runDue_of_awake (s : State) (e : Ev) (h : s.sleeping e = none) : s.runDue e = exec e.row s := by
  simp only [State.runDue, h, runEv_eq_exec_row]

theorem runDue_of_sleeping (s : State) (e : Ev) (d : Nat) (h : s.sleeping e = some d) : s.runDue e = .next (s.wakeFor d e) := by
  simp only [State.runDue, h]

theorem step_of_takeDue (s s1 : State) (e : Ev) (h : s.takeDue = some (e, s1)) : step s = s1.runDue e := by
  simp only [step, State.duty, h]

theorem step_of_takeLate (s s1 : State) (e : Ev) (hd : s.duty = none) (hi : s.issuer = none) (h : s.takeLate = some (e, s1)) :
    step s = s1.runDue e := by
  simp only [step, hd, hi, h]

/-- The first of some steps is one of them. -/
theorem firstSched_mem (l : List Sched) (x : Sched) (h : firstSched l = some x) : x ∈ l := by
  induction l generalizing x with
  | nil => simp [firstSched] at h
  | cons y t ih =>
    cases hf : firstSched t with
    | none =>
      obtain rfl : y = x := by simpa [firstSched, hf] using h
      exact List.mem_cons_self
    | some z =>
      obtain hz | hy : z = x ∨ y = x := by
        simp only [firstSched, hf] at h
        split at h
        · exact .inl (Option.some.inj h)
        · exact .inr (Option.some.inj h)
      · exact List.mem_cons_of_mem _ (hz ▸ ih z hf)
      · exact hy ▸ List.mem_cons_self

/-- What the agenda gives is of the kind that was asked for. -/
theorem takeFirst_kind (s s1 : State) (p : Ev → Bool) (e : Ev) (h : s.takeFirst p = some (e, s1)) : p e = true := by
  obtain ⟨x, hx, hxe⟩ := Option.map_eq_some_iff.mp h
  obtain rfl : x.ev = e := (Prod.mk.inj hxe).1
  have hmem := (List.mem_filter.mp (firstSched_mem _ x hx)).2
  simp only [Bool.and_eq_true] at hmem
  exact hmem.1.2

/-- A step that comes after the issues arrives at no home, so that it waits for no die (R219, R259). -/
theorem sleeping_of_late (s : State) (e : Ev) (h : e.late = true) : s.sleeping e = none := by
  unfold Ev.late at h
  split at h
  · rfl
  · rfl
  · cases h

/-! The meaning of a command. -/

/-- A command behind its check, decoded or run. -/
theorem guardC_eq_map_needC (z : Bool) (m : Meaning) (i : Instr) (h : ∀ s, m s = exec i s) : guardC z m = (needC z i).map exec := by
  cases z
  · rfl
  · exact congrArg some (funext h)

theorem runCmd1_eq_map (c : BitVec 256) : runCmd1 c = (decodeCmd1 c).map exec := by
  unfold runCmd1 decodeCmd1
  generalize (c.extractLsb' 20 8).toNat = op
  match op with
  | 0 | 1 | 2 | 3 | 4 | 5 | 6 => exact guardC_eq_map_needC _ _ _ fun _ => rfl
  | _ + 7 => rfl

theorem runCmd2_eq_map (c : BitVec 256) : runCmd2 c = (decodeCmd2 c).map exec := by
  unfold runCmd2 decodeCmd2
  generalize (c.extractLsb' 20 8).toNat = op
  match op with
  | 0 | 1 | 2 | 3 | 4 | 5 | 6 | 7 | 8 | 9 => exact guardC_eq_map_needC _ _ _ fun _ => rfl
  | _ + 10 => rfl

theorem runCmd3_eq_map (c : BitVec 256) : runCmd3 c = (decodeCmd3 c).map exec := by
  unfold runCmd3 decodeCmd3
  generalize (c.extractLsb' 20 8).toNat = op
  match op with
  | 0 | 1 | 2 | 3 | 4 | 5 | 6 | 7 | 8 => exact guardC_eq_map_needC _ _ _ fun _ => rfl
  | _ + 9 => rfl

/-- An engine runs the meaning of the command that the bits encode, and nothing from other bits (R87, R88, R160). -/
theorem runCmd_eq_map (c : BitVec 256) : runCmd c = (decodeCmd c).map exec := by
  unfold runCmd decodeCmd
  generalize (c.extractLsb' 28 4).toNat = engine
  match engine with
  | 1 => exact runCmd1_eq_map c
  | 2 => exact runCmd2_eq_map c
  | 3 => exact runCmd3_eq_map c
  | 0 | _ + 4 => rfl

end Sys2Proof.Machine

namespace Sys2Proof
open Sys2Proof.Machine

/-- Settles O2: a step that is due runs by the row that it is, and a command by what its bits encode. -/
theorem stepsDue : Obligations.StepsDue := by
  refine ⟨fun s e s1 h => ⟨fun ha => ?_, fun d hs => ?_⟩, fun s e s1 hd hi h => ?_, fun c i hc => ?_, fun c hc => ?_⟩
  · rw [step_of_takeDue s s1 e h, runDue_of_awake s1 e ha]
  · rw [step_of_takeDue s s1 e h, runDue_of_sleeping s1 e d hs]
  · have hlate : e.late = true := takeFirst_kind s s1 Ev.late e h
    rw [step_of_takeLate s s1 e hd hi h, runDue_of_awake s1 e (sleeping_of_late s1 e hlate)]
  · exact ⟨exec i, by rw [runCmd_eq_map, hc]; rfl, fun _ => rfl⟩
  · rw [runCmd_eq_map, hc]; rfl

end Sys2Proof
end

section
/-!
PROOFS. The sparse tables and the control registers of a partition: what a write to each of them leaves (R4, R366, R399).
-/
namespace Sys2Proof.Machine

/-- A field of a doubleword as a number. -/
theorem toNat_field (v : Dword) (lo n : Nat) : (v.extractLsb' lo n).toNat = v.toNat / 2 ^ lo % 2 ^ n := by
  simp [Nat.shiftRight_eq_div_pow]

/-! Tables whose keys rise. -/

theorem smGet_below {α : Type} (m : SMap α) (lo a : Nat) (r : risesFrom lo m = true) (h : a < lo) : smGet m a = none := by
  induction m generalizing lo with
  | nil => rfl
  | cons p t ih =>
    obtain ⟨k, v⟩ := p
    simp only [risesFrom, Bool.and_eq_true, decide_eq_true_eq] at r
    rw [smGet, if_neg (by omega)]
    exact ih (k + 1) r.2 (by omega)

/-- A table whose keys rise is searched to the same key after a write that leaves the answer for its key as it was. -/
theorem find?_key_smSet {α : Type} (q : α → Bool) (m : SMap α) (lo a : Nat) (x d : α) (r : risesFrom lo m = true)
    (hx : q x = q (smGetD m a d)) (hd : q d = false) :
    ((smSet m a x).find? fun p => q p.2).map (·.1) = (m.find? fun p => q p.2).map (·.1) := by
  induction m generalizing lo with
  | nil =>
    have : q x = false := hx.trans hd
    simp [smSet, this]
  | cons p t ih =>
    obtain ⟨k, v⟩ := p
    simp only [risesFrom, Bool.and_eq_true, decide_eq_true_eq] at r
    simp only [smSet]
    split
    next hlt =>
      have hnone : smGet ((k, v) :: t) a = none := by
        rw [smGet, if_neg (by omega)]
        exact smGet_below t (k + 1) a r.2 (by omega)
      have hqx : q x = false := by simpa [smGetD, hnone, hd] using hx
      simp [List.find?_cons, hqx]
    next hge =>
      split
      next heq =>
        have hqx : q x = q v := by simpa [smGetD, smGet, heq] using hx
        cases hv : q v <;> simp [hqx, hv, heq]
      next hne =>
        have hrest := ih (k + 1) r.2 (by simpa [smGetD, smGet, hne] using hx)
        cases hv : q v
        · simpa [List.find?_cons, hv] using hrest
        · simp [hv]

/-! Partitions. -/

@[simp] theorem modPart_modPart (s : State) (n : Nat) (f g : Partition → Partition) :
    (s.modPart n f).modPart n g = s.modPart n fun p => g (f p) := by
  simp [State.modPart, State.part]

@[simp] theorem part_modDie (s : State) (n m : Nat) (f : Die → Die) : (s.modDie n f).part m = s.part m := rfl
@[simp] theorem die_modPart (s : State) (n m : Nat) (f : Partition → Partition) : (s.modPart n f).die m = s.die m := rfl
@[simp] theorem isFenced_modPart (s : State) (n c : Nat) (f : Partition → Partition) : (s.modPart n f).isFenced c = s.isFenced c := rfl

theorem member_modPart (s : State) (n c : Nat) (f : Partition → Partition) (h : ∀ p, (f p).spec = p.spec) :
    (s.modPart n f).member n c = s.member n c := by
  simp [State.member, h]

/-- Where the table of partitions rises, a write to a control page moves no core to another partition (R365). -/
theorem partOf_modPart (s : State) (n c : Nat) (f : Partition → Partition) (r : risesFrom 0 s.parts = true)
    (hlive : ∀ p, (f p).live = p.live) (hspec : ∀ p, (f p).spec = p.spec) : (s.modPart n f).partOf c = s.partOf c := by
  let q := fun p : Partition => p.live && p.spec.clusters.getLsbD (clusterOf c)
  refine find?_key_smSet q s.parts 0 n (f (s.part n)) (Partition.fresh noSpec) r ?_ rfl
  simp only [q, hlive, hspec, State.part]

theorem fixedHeld_modPart (s : State) (n : Nat) (f : Partition → Partition) (r : risesFrom 0 s.parts = true)
    (hlive : ∀ p, (f p).live = p.live) (hspec : ∀ p, (f p).spec = p.spec) : (s.modPart n f).fixedHeld n = s.fixedHeld n := by
  simp only [State.fixedHeld, modPart_cores, partOf_modPart s n _ f r hlive hspec]

/-! The core entries (R366). -/

@[simp] theorem sendInvals_parts (s : State) (home line : Nat) (t : Trans) (hs : List (Nat × Moesi)) :
    (s.sendInvals home line t hs).parts = s.parts :=
  List.foldlRecOn hs _ (motive := fun s' : State => s'.parts = s.parts) rfl fun _ h _ _ => h

@[simp] theorem backCopy_parts (s : State) (die line : Nat) : (s.backCopy die line).parts = s.parts := by
  unfold State.backCopy
  dsimp only
  split
  · simp [State.backInval]
  · rfl

@[simp] theorem coreEnt_modCoreEnt_same (s : State) (part core : Nat) (f : CoreEntry → CoreEntry) :
    ((s.modCoreEnt part core f).part part).coreEnt core = f ((s.part part).coreEnt core) := by
  simp [State.modCoreEnt, Partition.coreEnt]

theorem coreEnt_modCoreEnt_other (s : State) (part core c : Nat) (f : CoreEntry → CoreEntry) (h : c ≠ core) :
    ((s.modCoreEnt part core f).part part).coreEnt c = (s.part part).coreEnt c := by
  simp [State.modCoreEnt, Partition.coreEnt, smGetD_smSet_other _ _ _ _ _ h]

/-- The lowering of repl shows the new value once no copy lies beyond it, and changes the entry in nothing else (R366). -/
theorem lowerRepl_part (s : State) (part core : Nat) :
    (s.lowerRepl part core).part part
      = if (s.beyond part core).isEmpty then (s.modCoreEnt part core fun e => { e with shown := e.repl }).part part else s.part part := by
  unfold State.lowerRepl
  cases hb : s.beyond part core with
  | nil => rfl
  | cons p l =>
    have hparts : ((p :: l).foldl (fun s p => s.backCopy (dieOf core) p.1) s).parts = s.parts :=
      List.foldlRecOn (p :: l) _ (motive := fun s' : State => s'.parts = s.parts) rfl fun _ h _ _ => (backCopy_parts _ _ _).trans h
    simp only [List.isEmpty_cons, Bool.false_eq_true, if_false, State.part, hparts]

theorem coreEnt_lowerRepl_same (s : State) (part core : Nat) :
    ((s.lowerRepl part core).part part).coreEnt core
      = let e := (s.part part).coreEnt core
        { e with shown := if (s.beyond part core).isEmpty then e.repl else e.shown } := by
  rw [lowerRepl_part]
  split <;> simp [*]

theorem coreEnt_lowerRepl_other (s : State) (part core c : Nat) (h : c ≠ core) :
    ((s.lowerRepl part core).part part).coreEnt c = (s.part part).coreEnt c := by
  rw [lowerRepl_part]
  split
  · exact coreEnt_modCoreEnt_other s part core c _ h
  · rfl

theorem beyond_of_no_copies (s : State) (part core : Nat) (h : (s.die (dieOf core)).copies = []) : s.beyond part core = [] := by
  simp [State.beyond, h]

/-! The space entries (R366, R276). -/

theorem part_releasePins (s : State) (part space : Nat) :
    (s.releasePins part space).part part = { s.part part with pins := smDel (s.part part).pins space } :=
  part_modPart_same s part fun p => { p with pins := smDel p.pins space }

/-! detp and detset (R366). -/

/-- Setting single bits one after another. -/
theorem getLsbD_foldl_or (q : Nat → Bool) (pos : Nat → Nat) (l : List Nat) (m : BitVec 2048) (c : Nat) (hc : c < 2048) :
    (l.foldl (fun m b => if q b then m ||| BitVec.ofNat 2048 (2 ^ pos b) else m) m).getLsbD c
      = (m.getLsbD c || l.any fun b => q b && decide (pos b = c)) := by
  induction l generalizing m with
  | nil => simp
  | cons b t ih =>
    rw [List.foldl_cons, ih]
    cases hq : q b
    · simp [hq]
    · rw [if_pos rfl, BitVec.getLsbD_or, BitVec.getLsbD_ofNat, Nat.testBit_two_pow, List.any_cons, hq, Bool.or_assoc]
      simp [hc]

theorem getLsbD_detBits (s : State) (part idx : Nat) (v : Dword) (c : Nat) (hc : c < 2048) :
    (s.detBits part idx v).getLsbD c = (decide (c / 64 = idx) && (v.getLsbD (c % 64) && s.member part c && !s.isFenced c)) := by
  unfold State.detBits
  rw [getLsbD_foldl_or (fun b => v.getLsbD b && s.member part (64 * idx + b) && !s.isFenced (64 * idx + b)) (fun b => 64 * idx + b) _ _ c hc]
  rw [show BitVec.getLsbD (0 : BitVec 2048) c = false from BitVec.getLsbD_zero, Bool.false_or, Bool.eq_iff_iff]
  simp only [List.any_eq_true, List.mem_range, Bool.and_eq_true, decide_eq_true_eq]
  constructor
  · rintro ⟨b, hb, hq, rfl⟩
    exact ⟨by omega, by rwa [show (64 * idx + b) % 64 = b by omega]⟩
  · rintro ⟨rfl, hq⟩
    have hsum : 64 * (c / 64) + c % 64 = c := by omega
    exact ⟨c % 64, by omega, by rwa [hsum], hsum⟩

/-- The bits of one doubleword of detset. -/
theorem getLsbD_doubleword (idx c : Nat) (hc : c < 2048) :
    (BitVec.ofNat 2048 ((2 ^ 64 - 1) * 2 ^ (64 * idx))).getLsbD c = decide (c / 64 = idx) := by
  rw [BitVec.getLsbD_ofNat, Nat.testBit_mul_two_pow, Nat.testBit_two_pow_sub_one, Bool.eq_iff_iff]
  simp only [Bool.and_eq_true, decide_eq_true_eq]
  omega

theorem part_setDet_detp (s : State) (part : Nat) (v : Dword) :
    (s.setDet part 32 v).part part = { s.part part with detp := v.getLsbD 0 } :=
  part_modPart_same s part fun p => { p with detp := v.getLsbD 0 }

theorem part_setDet_detset (s : State) (part idx : Nat) (v : Dword) (h : idx < 32) :
    (s.setDet part idx v).part part = { s.part part with
      detset := ((s.part part).detset &&& ~~~ BitVec.ofNat 2048 ((2 ^ 64 - 1) * 2 ^ (64 * idx))) ||| s.detBits part idx v } := by
  simp only [State.setDet, if_neg (Nat.ne_of_lt h), part_modPart_same]

theorem detPend_setDet (s : State) (part idx : Nat) (v : Dword) : ((s.setDet part idx v).part part).detPend = (s.part part).detPend := by
  unfold State.setDet
  split <;> simp

/-- A write that a fixed list holds back waits, behind those that wait already. -/
theorem exec_detsetWrite_held (s : State) (part idx : Nat) (v : Dword) (r : risesFrom 0 s.parts = true) (h : s.fixedHeld part = true) :
    exec (.detsetWrite part idx v) s = .next (s.modPart part fun p => { p with detPend := p.detPend ++ [(idx, v)] }) := by
  have hstill := fixedHeld_modPart s part (fun p => { p with detPend := p.detPend ++ [(idx, v)] }) r (fun _ => rfl) (fun _ => rfl)
  show Host.Outcome.next (State.applyDet _ part) = _
  rw [State.applyDet, if_pos (hstill.trans h)]

/-- With no record in a fixed list and no earlier write waiting, the write takes effect at once. -/
theorem exec_detsetWrite_free (s : State) (part idx : Nat) (v : Dword) (r : risesFrom 0 s.parts = true) (h : s.fixedHeld part = false)
    (hp : (s.part part).detPend = []) :
    exec (.detsetWrite part idx v) s = .next ((s.modPart part fun p => { p with detPend := [] }).setDet part idx v) := by
  have hstill := fixedHeld_modPart s part (fun p => { p with detPend := p.detPend ++ [(idx, v)] }) r (fun _ => rfl) (fun _ => rfl)
  show Host.Outcome.next (State.applyDet _ part) = _
  rw [State.applyDet, if_neg (by rw [hstill, h]; decide)]
  simp [hp]

/-! The reduction entries (R366). -/

theorem ofDword_eq (v : Dword) :
    RedEntry.ofDword v = { root := v.getLsbD 17, part := v.getLsbD 16, parent := v.toNat / 2 ^ 0 % 2 ^ 8 } := by
  rw [RedEntry.ofDword, toNat_field]

/-- The one write that waits takes effect where the core's die has no round in progress. -/
theorem part_applyRed_idle (s : State) (part core : Nat) (v : Dword) (hp : (s.part part).redPend = [(core, v)])
    (h : (s.redTree (dieOf core) part).sent = []) :
    (s.applyRed (dieOf core) part).part part
      = { s.part part with redEnts := smSet (s.part part).redEnts core (RedEntry.ofDword v), redPend := [] } := by
  simp [State.applyRed, h, hp]

theorem applyRed_busy (s : State) (die part : Nat) (h : (s.redTree die part).sent ≠ []) : s.applyRed die part = s := by
  simp [State.applyRed, h]

/-! The other registers (R4, R366). -/

theorem part_writePart (s : State) (part off : Nat) (v : Dword) :
    (s.writePart part off v).part part = { s.part part with
      xsteal := if off = 0x20 then v.getLsbD 0 else (s.part part).xsteal,
      spill := if off = 0x28 then v &&& ~~~ 63 else (s.part part).spill,
      spillen := if off = 0x30 then v.truncate 32 else (s.part part).spillen,
      strap := if off = 0x38 then v.truncate 16 else (s.part part).strap } := by
  rw [State.writePart, part_modPart_same]
  by_cases hx : off = 0x20
  · subst hx; rfl
  by_cases hs : off = 0x28
  · subst hs; rfl
  by_cases hn : off = 0x30
  · subst hn; rfl
  by_cases ht : off = 0x38
  · subst ht; rfl
  simp only [if_neg hx, if_neg hs, if_neg hn, if_neg ht]

end Sys2Proof.Machine

namespace Sys2Proof.Claims
open Sys2Proof.Machine

/-! The clauses of O54, each for one machine, one partition and one value. -/

/-- Core entries (R366). -/
def CoreEntryWrites (s : State) (part : Nat) (v : Dword) : Prop :=
  ∀ core, (s.member part core = false → exec (.partitionCoreEntryWrite part core v) s = .next s)
    ∧ (s.member part core = true → ∃ s3, exec (.partitionCoreEntryWrite part core v) s = .next s3
      ∧ ((s3.part part).coreEnt core).space = v.toNat / 2 ^ 0 % 2 ^ 12
      ∧ ((s3.part part).coreEnt core).rot = v.toNat / 2 ^ 16 % 2 ^ 7 ∧ ((s3.part part).coreEnt core).repl = v.toNat / 2 ^ 24 % 2 ^ 2
      ∧ ((s.die (dieOf core)).copies = [] → ((s3.part part).coreEnt core).shown = v.toNat / 2 ^ 24 % 2 ^ 2)
      ∧ ∀ c, c ≠ core → (s3.part part).coreEnt c = (s.part part).coreEnt c)

/-- Space entries (R366). -/
def SpaceEntryWrites (s : State) (part : Nat) (v : Dword) : Prop :=
  ∀ space, ∃ s3, exec (.spaceEntryWrite part space v) s = .next s3
    ∧ smGet (s3.part part).spaces space
      = some { quota := v.toNat / 2 ^ 52 % 2 ^ 12, root := v.toNat / 2 ^ 12 % 2 ^ 40 * 4096, valid := v.getLsbD 0 }
    ∧ (∀ k, k ≠ space → smGet (s3.part part).spaces k = smGet (s.part part).spaces k)
    ∧ (v.getLsbD 0 = false → smGet (s3.part part).pins space = none)
    ∧ (v.getLsbD 0 = true → (s3.part part).pins = (s.part part).pins)

/-- detp and detset (R366). -/
def DetWrites (s : State) (part : Nat) (v : Dword) : Prop :=
  ∀ idx,
    (s.fixedHeld part = true → exec (.detsetWrite part idx v) s
      = .next (s.modPart part fun p => { p with detPend := p.detPend ++ [(idx, v)] }))
    ∧ (s.fixedHeld part = false → (s.part part).detPend = [] → ∃ s3, exec (.detsetWrite part idx v) s = .next s3 ∧ (s3.part part).detPend = []
      ∧ (idx = 32 → (s3.part part).detp = v.getLsbD 0 ∧ (s3.part part).detset = (s.part part).detset)
      ∧ (idx < 32 → (s3.part part).detp = (s.part part).detp ∧ ∀ c, c < 2048 → (s3.part part).detset.getLsbD c
        = if c / 64 = idx then v.getLsbD (c % 64) && s.member part c && !s.isFenced c else (s.part part).detset.getLsbD c))

/-- Reduction entries (R366). -/
def ReductionEntryWrites (s : State) (part : Nat) (v : Dword) : Prop :=
  ∀ core, (s.member part core = false → exec (.reductionEntryWrite part core v) s = .next s)
    ∧ (s.member part core = true → (s.part part).redPend = [] →
      ((s.redTree (dieOf core) part).sent = [] → ∃ s3, exec (.reductionEntryWrite part core v) s = .next s3 ∧ (s3.part part).redPend = []
        ∧ smGet (s3.part part).redEnts core = some { root := v.getLsbD 17, part := v.getLsbD 16, parent := v.toNat / 2 ^ 0 % 2 ^ 8 })
      ∧ ((s.redTree (dieOf core) part).sent ≠ [] → ∃ s3, exec (.reductionEntryWrite part core v) s = .next s3
        ∧ (s3.part part).redPend = [(core, v)] ∧ (s3.part part).redEnts = (s.part part).redEnts))

/-- The other registers (R4, R366, R399). -/
def RegisterWrites (s : State) (part : Nat) (v : Dword) : Prop :=
  ∀ off,
    (part < 128 → ∃ s3, exec (.registerWrite part off v) s = .next s3 ∧ s3.part part = { s.part part with
      xsteal := if off = 0x20 then v.getLsbD 0 else (s.part part).xsteal,
      spill := if off = 0x28 then v &&& ~~~ 63 else (s.part part).spill,
      spillen := if off = 0x30 then v.truncate 32 else (s.part part).spillen,
      strap := if off = 0x38 then v.truncate 16 else (s.part part).strap })
    ∧ (∀ k, 128 ≤ part → part < 136 → off = 0x1000 + 16 * k → k < 256 →
      ∃ s3, exec (.registerWrite part off v) s = .next s3 ∧ smGet (s3.die (part - 128)).qaddr k = some v)
    ∧ (136 ≤ part → exec (.registerWrite part off v) s = .next s)

/-- O54 for one machine, one partition and one value. -/
def ControlWritesAt (s : State) (part : Nat) (v : Dword) : Prop :=
  CoreEntryWrites s part v ∧ SpaceEntryWrites s part v ∧ DetWrites s part v ∧ ReductionEntryWrites s part v ∧ RegisterWrites s part v
    ∧ ∀ x : Word, exec (.powerToleranceWrite x) s = .next { s with host := { s.host with tolerance := x } }

theorem controlWrites_iff : Obligations.ControlWrites ↔ ∀ s part v, ControlWritesAt s part v := Iff.rfl

theorem coreEntryWrites (s : State) (part : Nat) (v : Dword) : CoreEntryWrites s part v := by
  refine fun core => ⟨fun hm => if_pos (by simp [hm]), fun hm => ⟨_, if_neg (by simp [hm]), ?_⟩⟩
  simp only [coreEnt_lowerRepl_same, coreEnt_modCoreEnt_same, toNat_field]
  refine ⟨trivial, trivial, trivial, fun hc => ?_, fun c hne => ?_⟩
  · exact if_pos (congrArg List.isEmpty (beyond_of_no_copies _ part core (by exact hc)))
  · rw [coreEnt_lowerRepl_other _ _ _ _ hne, coreEnt_modCoreEnt_other _ _ _ _ _ hne]

theorem spaceEntryWrites (s : State) (part : Nat) (v : Dword) : SpaceEntryWrites s part v := by
  refine fun space => ⟨_, rfl, ?_⟩
  cases v.getLsbD 0
  · simp only [Bool.false_eq_true, if_false, part_releasePins, part_modPart_same, toNat_field]
    exact ⟨smGet_smSet_same _ _ _, fun k hk => smGet_smSet_other _ _ _ _ hk, fun _ => smGet_smDel_same _ _, False.elim⟩
  · simp only [if_true, part_modPart_same, toNat_field]
    exact ⟨smGet_smSet_same _ _ _, fun k hk => smGet_smSet_other _ _ _ _ hk, fun h => Bool.noConfusion h, fun _ => trivial⟩

/-- The writes to detp and detset, where the table of partitions rises: the write itself then moves no core to another partition. -/
theorem detWrites_of_rising (s : State) (part : Nat) (v : Dword) (r : risesFrom 0 s.parts = true) : DetWrites s part v := by
  refine fun idx => ⟨exec_detsetWrite_held s part idx v r, fun hf hp => ⟨_, exec_detsetWrite_free s part idx v r hf hp, ?_, ?_, ?_⟩⟩
  · simp [detPend_setDet]
  · rintro rfl
    simp [part_setDet_detp]
  · intro hidx
    refine ⟨by simp [part_setDet_detset _ _ _ _ hidx], fun c hc => ?_⟩
    have hmem := member_modPart s part c (fun p => { p with detPend := [] }) fun _ => rfl
    simp only [part_setDet_detset _ _ _ _ hidx, part_modPart_same, BitVec.getLsbD_or, BitVec.getLsbD_and, BitVec.getLsbD_not,
      getLsbD_doubleword idx c hc, getLsbD_detBits _ _ _ _ c hc, isFenced_modPart, hmem, hc]
    by_cases hi : c / 64 = idx <;> simp [hi]

theorem reductionEntryWrites (s : State) (part : Nat) (v : Dword) : ReductionEntryWrites s part v := by
  refine fun core => ⟨fun hm => if_pos (by simp [hm]), fun hm hp =>
    ⟨fun hi => ⟨_, if_neg (by simp [hm]), ?_⟩, fun hb => ⟨_, if_neg (by simp [hm]), ?_⟩⟩⟩
  · rw [part_applyRed_idle (v := v), ofDword_eq]
    · exact ⟨rfl, smGet_smSet_same _ _ _⟩
    · simp only [part_modPart_same, hp, List.nil_append]
    · exact hi
  · rw [applyRed_busy]
    · simp only [part_modPart_same, hp, List.nil_append, and_self]
    · exact hb

theorem registerWrites (s : State) (part : Nat) (v : Dword) : RegisterWrites s part v := by
  intro off
  refine ⟨fun h => ⟨_, if_pos h, ?_⟩, fun k hlo hhi hoff hk => ⟨_, (if_neg (by omega)).trans (if_pos ?_), ?_⟩,
    fun h => (if_neg (by omega)).trans (if_neg (by simp only [Bool.and_eq_true, decide_eq_true_eq, beq_iff_eq]; omega))⟩
  · exact part_writePart s part off v
  · simp only [Bool.and_eq_true, decide_eq_true_eq, beq_iff_eq]
    omega
  · simp only [die_modDie_same, show (off - 0x1000) / 16 = k by omega, smGet_smSet_same]

/-- Where the table of partitions rises, as tables are meant to, everything that O54 says holds. -/
theorem controlWritesAt_of_rising (s : State) (part : Nat) (v : Dword) (r : risesFrom 0 s.parts = true) : ControlWritesAt s part v :=
  ⟨coreEntryWrites s part v, spaceEntryWrites s part v, detWrites_of_rising s part v r, reductionEntryWrites s part v,
    registerWrites s part v, fun _ => rfl⟩

/-- A machine whose table of partitions falls: two live partitions of cluster 0, the higher number listed first, and a core there with a
record in its fixed list. -/
def crossed : State :=
  let live : Partition := { Partition.fresh { noSpec with clusters := 1 } with live := true }
  { State.reset with
    cores := [(0, { Core.fresh false with fixed := [{ addr := 0x10040, bits := 0, faulted := false, again := false }] })],
    parts := [(5, live), (3, live)] }

/-- The write lists partition 3 anew before partition 5 and so moves the core to it: the record there holds the write back. -/
theorem crossed_write_waits : exec (.detsetWrite 3 32 1) crossed
    = .next (crossed.modPart 3 fun p => { p with detPend := p.detPend ++ [(32, 1)] }) :=
  rfl

theorem not_detWrites_crossed : ¬ DetWrites crossed 3 1 := by
  intro h
  obtain ⟨s3, hexec, hpend, -⟩ := (h 32).2 (by decide) rfl
  obtain rfl := Host.Outcome.next.inj (crossed_write_waits.symm.trans hexec)
  rw [part_modPart_same] at hpend
  exact List.cons_ne_nil _ _ hpend

/-- Refutes O54, which is said of every machine, also of one whose table of partitions does not rise: in `crossed` no fixed list of
partition 3 holds a record, and yet its write to detp waits. By `controlWritesAt_of_rising` nothing else is wrong with it. -/
theorem not_controlWrites : ¬ Obligations.ControlWrites := by
  rw [controlWrites_iff]
  intro h
  obtain ⟨-, -, hdet, -⟩ := h crossed 3 1
  exact not_detWrites_crossed hdet

end Sys2Proof.Claims
end
